-- ==== Sys2Proof/Word.lean ====
section
/-! DEFINITION. The word, the byte and the sparse table: the plainest types of the model (R15, R7).

A table is a list of key and value pairs. Its one canonical form (keys strictly rising, no entry equal to what an
unlisted key reads as) and its operations stand in Sys2Proof/Machine/Table.lean. -/

namespace Sys2Proof

/-- A 64-bit register, address or instruction word (R15, R94). -/
abbrev Word := BitVec 64

/-- One byte of memory. -/
abbrev Byte := BitVec 8

/-- Sparse data by key, sorted by key. -/
abbrev Table (α : Type) := List (Nat × α)

/-- The number of a scalar register (R12). -/
abbrev SReg := BitVec 5

/-- The number of a mask register (R12). -/
abbrev MReg := BitVec 3

/-- The number of a format register (R12). -/
abbrev FReg := BitVec 3

/-- The `len` bits of `w` from bit `lo` upward (R7). -/
abbrev Word.field (w : Word) (lo len : Nat) : BitVec len := w.extractLsb' lo len

end Sys2Proof
end

