-- ==== Sys2Proof/Syntax.lean ====
section
/-! DEFINITION. The instructions: one constructor of Instr for each row of spec/opcode_table.json.

The first constructors are the 64-bit instruction words (R16 to R20, R46): their arguments are the operand fields that
the instruction uses, in the order of the fields from the high bit down.
The constructors from laneBroadcast onward are the table's events: steps of the module that no instruction word
encodes. Their arguments say where the event happens, and what the surroundings supply (a host's value, an error's
location), since the spec leaves those to the surroundings. -/

namespace Sys2Proof

/-- How a 9-bit vector operand selects elements (R20, R21). The code 0b11 traps ILL and has no constructor. -/
inductive Dir where
  | row
  | col
  | diag
  deriving DecidableEq, Repr

/-- A 9-bit vector operand (R20): direction, empty policy, and register number or element index. -/
structure VOp where
  dir : Dir
  pol : Bool
  idx : BitVec 6
  deriving DecidableEq, Repr

/-- The atomic operations shared by AMO and VAMO (R47). -/
inductive AmoOp where
  | add
  | swap
  | cas
  | min
  | max
  | and
  | or
  | xor
  deriving DecidableEq, Repr

/-- The fields of an MTILE beyond its MODE (R212, R213). -/
structure MtileArgs where
  sa : SReg
  sb : SReg
  sc : SReg
  acc : BitVec 5
  bar : BitVec 6
  slot : BitVec 4
  fmt : FReg
  q : Bool
  nocut : Bool
  tra : Bool
  trb : Bool
  deriving DecidableEq, Repr

/-- The fields every other engine command has (R212): barrier, slot and the parking bit Q (R207). -/
structure Cmd where
  bar : BitVec 6
  slot : BitVec 4
  q : Bool
  deriving DecidableEq, Repr

/-- Where a vector memory instruction's stream, element width, mask and base lie (R176, R177). -/
structure VMemArgs where
  strm : BitVec 3
  mw : BitVec 2
  sa : SReg
  mask : MReg
  deriving DecidableEq, Repr

/-- The surroundings' account of one array error (R364): where it lies and which bit of the codeword it is. -/
structure ArrayError where
  paddr : Nat
  word : Nat
  bit : Option Nat
  stack : Nat
  ch : Nat
  pch : Nat
  bank : Nat
  row : Nat
  col : Nat
  corr : BitVec 32
  writeFirst : Bool
  deriving DecidableEq, Repr

/-- The surroundings' account of one transfer over the vertical bus (R365, R368, R372): which burst, and which beats
and groups mismatched in this transfer. -/
structure BusTransfer where
  paddr : Nat
  stack : Nat
  ch : Nat
  pch : Nat
  write : Bool
  groups : List Nat
  beats : BitVec 8
  corr : BitVec 32
  deriving DecidableEq, Repr

/-- A request that has missed in L2 and reaches a translation unit (R270). -/
structure XlatReq where
  post : Nat
  va : Word
  asid : BitVec 16
  ptroot : Word
  kind : Nat
  handler : Bool
  tag : Nat
  deriving DecidableEq, Repr

/-- An access that a peer asks this module to perform (R392): a read gives no data, a write or atomic gives one. -/
structure PeerReq where
  asid : BitVec 16
  addr : Word
  bytes : Nat
  kind : Nat
  op : AmoOp
  data : Word
  data2 : Word
  handler : Bool
  deriving DecidableEq, Repr

/-- A seal policy as delivered by SPDM (R401), with its reserved bytes as one bit: not all zero. -/
structure SealPolicy where
  asid : BitVec 16
  mcode : Word
  mlen : Word
  mmeas : List Byte
  model : List Byte
  reservedSet : Bool
  deriving DecidableEq, Repr

/-- What the sill samples of one island in one reference period (R299). -/
structure IslandSample where
  /-- fewer than one eighth of the island's cycles issued arithmetic while an element request was outstanding -/
  starved : Bool
  /-- a lane of the island held a ready arithmetic instruction that did not issue -/
  held : Bool
  /-- a rendezvous waited on the island alone -/
  rendezvous : Bool
  deriving DecidableEq, Repr

/-- The instructions and events of the opcode table, one constructor for each row. -/
inductive Instr where
  -- scalar integer, MAJ 1 and 2 (R96)
  | add (sd sa sb : SReg)
  | sub (sd sa sb : SReg)
  | and (sd sa sb : SReg)
  | or (sd sa sb : SReg)
  | xor (sd sa sb : SReg)
  | shl (sd sa sb : SReg)
  | shr (sd sa sb : SReg)
  | sra (sd sa sb : SReg)
  | slt (sd sa sb : SReg)
  | sltu (sd sa sb : SReg)
  | min (sd sa sb : SReg)
  | max (sd sa sb : SReg)
  | minu (sd sa sb : SReg)
  | maxu (sd sa sb : SReg)
  | sel (sd sa sb sc : SReg)
  | clz (sd sa : SReg)
  | popc (sd sa : SReg)
  | mul (sd sa sb : SReg)
  | mulh (sd sa sb : SReg)
  | mulhu (sd sa sb : SReg)
  | div (sd sa sb : SReg)
  | divu (sd sa sb : SReg)
  | rem (sd sa sb : SReg)
  | remu (sd sa sb : SReg)
  -- scalar integer with immediate, MAJ 3 (R96)
  | addi (sd sa : SReg) (imm : BitVec 32)
  | andi (sd sa : SReg) (imm : BitVec 32)
  | ori (sd sa : SReg) (imm : BitVec 32)
  | xori (sd sa : SReg) (imm : BitVec 32)
  | shli (sd sa : SReg) (imm : BitVec 32)
  | shri (sd sa : SReg) (imm : BitVec 32)
  | srai (sd sa : SReg) (imm : BitVec 32)
  | slti (sd sa : SReg) (imm : BitVec 32)
  | li (sd : SReg) (imm : BitVec 32)
  | lui (sd sa : SReg) (imm : BitVec 32)
  -- scalar FP32, MAJ 8 (R98)
  | fadd (sd sa sb : SReg)
  | fsub (sd sa sb : SReg)
  | fmul (sd sa sb : SReg)
  | ffma (sd sa sb sc : SReg)
  | fmin (sd sa sb : SReg)
  | fmax (sd sa sb : SReg)
  | fcmp (cond : BitVec 4) (sd sa sb : SReg)
  | fcvtI64F32 (sd sa : SReg)
  | fcvtU64F32 (sd sa : SReg)
  | fcvtF32I64 (sd sa : SReg)
  | fcvtF32U64 (sd sa : SReg)
  | fcvtF32I32 (sd sa : SReg)
  | fcvtF32Bf16 (sd sa : SReg)
  | fcvtBf16F32 (sd sa : SReg)
  | fcvtF32F16 (sd sa : SReg)
  | fcvtF16F32 (sd sa : SReg)
  -- scalar memory and atomics, MAJ 10 and 11 (R99, R103)
  | ld (strm : BitVec 3) (wid : BitVec 2) (sd sa : SReg) (imm : BitVec 32)
  | ldU (strm : BitVec 3) (wid : BitVec 2) (sd sa : SReg) (imm : BitVec 32)
  | st (strm : BitVec 3) (wid : BitVec 2) (sd sa : SReg) (imm : BitVec 32)
  | ldc (strm : BitVec 3) (wid : BitVec 2) (zeroExt : Bool) (sd sa : SReg) (imm : BitVec 32)
  | amo (strm : BitVec 3) (op : AmoOp) (wid : BitVec 2) (sd sa sb : SReg)
  | amoCas (strm : BitVec 3) (wid : BitVec 2) (sd sa sb sc : SReg)
  | amoP (strm : BitVec 3) (op : AmoOp) (wid : BitVec 2) (sa sb : SReg)
  -- control, MAJ 12 and 13 (R107 to R118)
  | br (off : BitVec 32)
  | bc (cond : BitVec 4) (sa sb : SReg) (off : BitVec 32)
  | bcv (bmode : BitVec 3) (msel : MReg) (off : BitVec 32)
  | call (off : BitVec 32)
  | brkloop (off : BitVec 32)
  | brkloopCond (cond : BitVec 4) (sa sb : SReg) (off : BitVec 32)
  | callr (sa : SReg)
  | ret
  | jmpr (sa : SReg)
  | loop (sa : SReg)
  | loopi (imm : BitVec 32)
  | endloop
  -- system, MAJ 16 (R120)
  | trap (imm12 : BitVec 12)
  | rett
  | csrr (sd : SReg) (sreg : BitVec 12)
  | csrw (sd : SReg) (sreg : BitVec 12) (sa : SReg)
  | csrs (sd : SReg) (sreg : BitVec 12) (sa : SReg)
  | csrc (sd : SReg) (sreg : BitVec 12) (sa : SReg)
  | fence (scope : BitVec 3) (kind : BitVec 2)
  | sbar (smask : BitVec 8)
  | asidsw (sa sb : SReg)
  | wfe (sd sa sb : SReg)
  | nop
  | brk
  | mark (sa : SReg) (imm12 : BitVec 12)
  | yield (imm12 : BitVec 12)
  | gbar
  | stamp (sm sa sb : SReg) (bar : BitVec 6)
  -- vector state, MAJ 20 (R140 to R143)
  | setvl (sd sa : SReg) (vt : Byte)
  | setvlK (sd sa : SReg)
  | setvli (sd : SReg) (avl : BitVec 12) (vt : Byte)
  | setvliK (sd : SReg) (avl : BitVec 12)
  | vlqMax (sd : SReg) (code : BitVec 3)
  | vlqRegs (sd : SReg)
  | vlqFrame (sd sa : SReg)
  | vmode (wide : Bool)
  -- vector arithmetic, MAJ 21 (R151, R152)
  | vadd (vd va vb : VOp) (fmt : FReg) (mask : MReg)
  | vsub (vd va vb : VOp) (fmt : FReg) (mask : MReg)
  | vmul (vd va vb : VOp) (fmt : FReg) (mask : MReg)
  | vfma (vd va vb vc : VOp) (fmt : FReg) (mask : MReg)
  | vfms (vd va vb vc : VOp) (fmt : FReg) (mask : MReg)
  | vfnma (vd va vb vc : VOp) (fmt : FReg) (mask : MReg)
  | vmin (vd va vb : VOp) (fmt : FReg) (mask : MReg)
  | vmax (vd va vb : VOp) (fmt : FReg) (mask : MReg)
  | vabs (vd va : VOp) (fmt : FReg) (mask : MReg)
  | vneg (vd va : VOp) (fmt : FReg) (mask : MReg)
  | vdiv (vd va vb : VOp) (fmt : FReg) (mask : MReg)
  | vsqrt (vd va : VOp) (fmt : FReg) (mask : MReg)
  | vexp2 (vd va : VOp) (fmt : FReg) (mask : MReg)
  | vand (vd va vb : VOp) (fmt : FReg) (mask : MReg)
  | vor (vd va vb : VOp) (fmt : FReg) (mask : MReg)
  | vxor (vd va vb : VOp) (fmt : FReg) (mask : MReg)
  | vnot (vd va : VOp) (fmt : FReg) (mask : MReg)
  | vshl (vd va vb : VOp) (fmt : FReg) (mask : MReg)
  | vshr (vd va vb : VOp) (fmt : FReg) (mask : MReg)
  | vcvt (vd va : VOp) (fmt : FReg) (mask : MReg)
  | vscale (vd va vb : VOp) (fmt : FReg) (mask : MReg)
  | vclamp (vd va vb vc : VOp) (fmt : FReg) (mask : MReg)
  -- compare, select, move and mask, MAJ 22 (R158 to R165)
  | vcmp (cond : BitVec 4) (md : MReg) (va vb : VOp) (fmt : FReg) (mask : MReg)
  | vsel (vd va vb : VOp) (mk : MReg) (fmt : FReg) (mask : MReg)
  | vmov (vd va : VOp) (mask : MReg)
  | vmovMask (md ma : MReg) (mask : MReg)
  | vmovFromMask (vd : VOp) (ma : MReg) (mask : MReg)
  | vmovToMask (md : MReg) (va : VOp) (mask : MReg)
  | vmovSysreg (vd : VOp) (sreg : BitVec 12) (mask : MReg)
  | vmovTdone (md : MReg) (mask : MReg)
  | vsplat (vd : VOp) (ss : SReg) (mask : MReg)
  | vsplatI (vd : VOp) (imm : BitVec 13) (mask : MReg)
  | viota (vd : VOp) (ma : MReg) (fmt : FReg) (mask : MReg)
  | vpopm (sd : SReg) (ma : MReg) (mask : MReg)
  | vfirst (sd : SReg) (ma : MReg) (mask : MReg)
  | vmand (md ma mb : MReg) (mask : MReg)
  | vmor (md ma mb : MReg) (mask : MReg)
  | vmxor (md ma mb : MReg) (mask : MReg)
  | vmnot (md ma : MReg) (mask : MReg)
  | vextr (sd : SReg) (va : VOp) (ss : SReg) (fmt : FReg)
  | vextrI (sd : SReg) (va : VOp) (imm : BitVec 13) (fmt : FReg)
  | vins (vd : VOp) (sa ss : SReg)
  | vinsI (vd : VOp) (ss : SReg) (imm : BitVec 13)
  -- rendezvous, MAJ 23 (R166 to R170)
  | vperm (vd va vb : VOp) (fmt : FReg) (mask : MReg)
  | vslideup (vd va : VOp) (ss : SReg) (mask : MReg)
  | vslideupI (vd va : VOp) (imm : BitVec 13) (mask : MReg)
  | vslidedn (vd va : VOp) (ss : SReg) (mask : MReg)
  | vslidednI (vd va : VOp) (imm : BitVec 13) (mask : MReg)
  | vredsum (vd va vb : VOp) (fmt : FReg) (mask : MReg)
  | vredmax (vd va vb : VOp) (fmt : FReg) (mask : MReg)
  | vredmin (vd va vb : VOp) (fmt : FReg) (mask : MReg)
  | vscan (vd va vb : VOp) (fmt : FReg) (mask : MReg)
  | vcompress (vd va : VOp) (mask : MReg)
  -- full/empty, MAJ 24 (R150)
  | vfeEmpty (vd : VOp) (n : BitVec 6) (mask : MReg)
  | vfeFull (vd : VOp) (n : BitVec 6) (mask : MReg)
  | vfeTest (md : MReg) (va : VOp) (mask : MReg)
  -- vector memory, MAJ 32 to 34 (R176)
  | vld (vt : VOp) (m : VMemArgs) (sx : Bool)
  | vst (vt : VOp) (m : VMemArgs)
  | vlds (vt : VOp) (m : VMemArgs) (sb : SReg) (sx : Bool)
  | vsts (vt : VOp) (m : VMemArgs) (sb : SReg)
  | vgath (vt vi : VOp) (m : VMemArgs) (sx esc : Bool)
  | vscat (vt vi : VOp) (m : VMemArgs) (esc : Bool)
  | vldc (vt : VOp) (m : VMemArgs) (sx : Bool)
  | vldcS (vt : VOp) (m : VMemArgs) (sb : SReg) (sx : Bool)
  | vldcX (vt vi : VOp) (m : VMemArgs) (sx esc : Bool)
  | vpref (m : VMemArgs) (lvl : Bool)
  | vprefS (m : VMemArgs) (sb : SReg) (lvl : Bool)
  | vprefX (vi : VOp) (m : VMemArgs) (lvl esc : Bool)
  | vamo (op : AmoOp) (vt vi : VOp) (m : VMemArgs) (esc : Bool)
  | vamoP (op : AmoOp) (vt vi : VOp) (m : VMemArgs) (esc : Bool)
  | vamoCas (vt vi : VOp) (m : VMemArgs) (esc : Bool)
  | vspill (vt : VOp) (sa sb : SReg) (strm : BitVec 3)
  | vfill (vt : VOp) (sa sb : SReg) (strm : BitVec 3)
  -- deferral and append, MAJ 40 (R201 to R204)
  | vappend (vt : VOp) (sd : SReg) (m : VMemArgs) (sb : SReg)
  | vdefer (k : BitVec 2) (md : MReg) (vi : VOp) (sc : SReg) (mask : MReg)
  | vdrain (k : BitVec 2) (vt : VOp) (sc : SReg)
  | vdqCount (sc : SReg)
  | vdqFree (sc : SReg)
  | vdqClear (sc : SReg)
  -- matrix, MAJ 44 (R220 to R228)
  | mtile (a : MtileArgs)
  | mtileAcc (a : MtileArgs)
  | mtileDecay (a : MtileArgs)
  | mzero (acc : BitVec 5) (fmt : FReg) (c : Cmd)
  | mconv (sa : SReg) (acc : BitVec 5) (fmt : FReg) (c : Cmd)
  | mconvV (sb sc : SReg) (acc : BitVec 5) (vo : VOp) (fmt : FReg) (c : Cmd)
  | mload (sa sb : SReg) (acc : BitVec 5) (c : Cmd)
  | aspill (sa : SReg) (acc : BitVec 5) (c : Cmd)
  | afill (sa : SReg) (acc : BitVec 5) (c : Cmd)
  -- copy, MAJ 48 (R230)
  | cpy (sa : SReg) (c : Cmd)
  | cpyg (sa sb : SReg) (c : Cmd)
  | cpys (sa sb : SReg) (c : Cmd)
  | cfill (sa sb : SReg) (c : Cmd)
  -- temporal array, MAJ 52 (R233 to R235)
  | twin (sa : SReg) (vo : VOp) (c : Cmd)
  | twld (sa : SReg) (c : Cmd)
  | tlaunch (c : Cmd)
  | tlaunchAnd (c : Cmd)
  | tlaunchMix (sa : SReg) (c : Cmd)
  | tcapt (vo : VOp) (c : Cmd)
  | tcaptFirstk (sb : SReg) (vo : VOp) (c : Cmd)
  | tcaptCount (sd : SReg) (c : Cmd)
  | treset (c : Cmd)
  -- barriers and truss, MAJ 54 (R238 to R242)
  | binit (sa : SReg) (bar : BitVec 6)
  | barv (sa : SReg) (bar : BitVec 6)
  | barvR (sa sb : SReg) (bar : BitVec 6)
  | bwait (sd sa : SReg) (bar : BitVec 6)
  | bwaitT (sd sa : SReg) (bar : BitVec 6)
  | btest (sd : SReg) (bar : BitVec 6)
  | btestA (sd : SReg) (bar : BitVec 6)
  | berr (sa sb : SReg) (bar : BitVec 6)
  | berrClr (bar : BitVec 6)
  | trset (sa : SReg) (n : BitVec 4)
  | trclr (n : BitVec 4)
  -- task and placement, MAJ 56 (R243 to R246)
  | taskend
  | taskq (sd sa sb : SReg)
  | launch (sd sa sb sc : SReg)
  | leasex (sa sb : SReg) (bar : BitVec 6)
  | leasexW (sa sb : SReg) (bar : BitVec 6)
  | vestq (sd : SReg) (dir : BitVec 3)
  -- events of the lanes and the sequencer (R248 to R263)
  | laneBroadcast (core slot : Nat)
  | laneIssue (core lane : Nat) (memory : Bool)
  | elementAccessResponse (core slot lane : Nat)
  | scalarLoadResponse (core slot : Nat)
  | rendezvousComplete (core slot : Nat)
  | retire (core slot : Nat)
  | takeTrap (core slot : Nat)
  | yieldExpiry (core slot : Nat)
  | wfeTimeout (core slot : Nat)
  | gbarRelease (core : Nat)
  -- events of the engines (R206 to R211, R282 to R302)
  | commandIssue (core slot : Nat)
  | descriptorReadComplete (core eng slot : Nat)
  | operandFetchResponse (core : Nat)
  | kStepPass (core : Nat)
  | fillerKStep (core : Nat)
  | slewLimiterStep (post : Nat)
  | commandCompletion (core eng slot : Nat)
  | remoteArrival
  | followOnIssue (core slot : Nat)
  | waveComplete (core : Nat)
  | stampComplete
  | leasexResolved
  -- events of translation (R270 to R279, R390)
  | translationRequest (r : XlatReq)
  | walkComplete (unit : Nat)
  | faultRingPost (unit : Nat)
  | fresp (unit : Nat) (tag : BitVec 32) (refused : Bool)
  | invreq (w0 w1 w2 w3 : Word)
  | invalidationComplete
  | atsInvalidation (vbase : Word) (npages : BitVec 32) (asid : BitVec 16)
  | pageRequestResponse (unit : Nat) (tag : BitVec 32) (refused : Bool)
  | hostCompletion (page : Nat) (status : Nat)
  -- events of the queues (R329 to R331)
  | launchPacket
  | launchResume
  | waitmem
  | waitmemRecheck (queue : Nat)
  | signal
  | signalAdd (queue : Nat)
  | preemptDrain
  | preemptCut
  | preemptAbort
  | preemptPolicy
  | preemptResume
  | resetq
  | traceon
  | traceoff
  -- events of launches and tasks (R276, R335 to R346)
  | leaseResolutionComplete (launchId : Nat)
  | walkerEnumerate (launchId : Nat)
  | cohortReserve (launchId : Nat)
  | taskPlacement (launchId core : Nat)
  | stagingComplete (core : Nat)
  | taskStart (core : Nat)
  | commitComplete (core : Nat)
  | launchCompletion (launchId : Nat)
  | hartCutStop (core slot : Nat)
  | cutStageTwo (core : Nat)
  | imageWriteComplete (core : Nat)
  | contextRestore (launchId core : Nat)
  -- events of power (R299 to R308, R355)
  | islandSample (core island : Nat) (sample : IslandSample)
  | islandTransitionEnd (core island : Nat)
  | droop (core island : Nat)
  | supplyRecovered (core island : Nat)
  | dutyWindowEnd (core island : Nat)
  | requestCapUpdate (post : Nat) (above : Bool)
  | ecountUpdate (asid : BitVec 16) (used : Word)
  | quotaGrant (asid : BitVec 16) (quota : Word)
  | hangReport (core slot : Nat)
  | pstateD0
  | pstateD0Idle
  | pstateD1
  | pstateD2
  | pstateD3
  | powerStateEntry
  | heatctlWrite (v : Word)
  | colourRotation
  | pwrctlWrite (post : Nat) (v : Word)
  | rampWrite (post n : Nat) (v : BitVec 32)
  -- events of the host's windows (R328, R386 to R389)
  | qtailWrite (queue : Nat) (v : BitVec 32)
  | frtailWrite (v : BitVec 32)
  | ertailWrite (v : BitVec 32)
  | registerWrite (queueWindow : Bool) (off : Nat) (v : Word)
  -- events of reset (R394 to R396)
  | resetCore (core : Nat)
  | resetPost (post : Nat)
  | resetContext (asid : BitVec 16)
  | resetModule
  | resetComplete
  -- events of repair and capacity (R379 to R381, R397)
  | remapRetire (bank : Nat)
  | remapReturn (bank : Nat)
  | remapProceed
  | remapWaitEvent
  | thermalRetire (bank : Nat)
  | thermalReturn (bank : Nat)
  | checkpointSave (dest : Word)
  | checkpointRestore (dest : Word)
  | checkpointComplete
  | memoryWindowRead (paddr bytes : Nat)
  | memoryWindowWrite (paddr : Nat) (bytes : List Byte)
  -- events of the base dies (R367 to R374, R381)
  | hbmArrayRead (e : ArrayError)
  | vbusTransfer (t : BusTransfer)
  | laneWalk (stack ch : Nat) (failing : List Nat)
  | scrub (e : ArrayError)
  | clockRatioChange (ratio : Nat)
  -- events of the peers (R391 to R393)
  | peerRequest (r : PeerReq)
  | linkLoss (port : Nat)
  | portAckTimeout (port : Nat)
  | peerResetSignal (peer : Nat)
  | peerPowerDownSignal (peer : Nat)
  | refcntSync (v : Word)
  -- events of trust, debug and trace (R400 to R412)
  | spdmMeasurement (nonce : List Byte)
  | sealPolicy (p : SealPolicy)
  | debugToken (level : Nat) (signed : Bool) (module : Nat)
  | debugLevelLower (level : Nat)
  | seriesSample
  -- the rows that stand last in the table
  | engineAccessResponse (core eng slot : Nat)
  | wakeToD0Complete
  | debugLevel1Request
  | droopTimeLimit (core island : Nat)
  deriving DecidableEq, Repr

end Sys2Proof
end

