-- ==== Sys2Proof/WellFormed.lean ====
section
/-! DEFINITION. Well-formed instructions: the values of each field that the instruction's description defines.
A word that carries any other value traps ILL at rank 2 of R41 (R17, R47). -/

namespace Sys2Proof

/-- System registers that some level may write (R137, R122). -/
def sregWritable (n : BitVec 12) : Bool :=
  n = 0x000 || n = 0x002 || (0x010 ≤ n && n ≤ 0x017) || (0x020 ≤ n && n ≤ 0x023) || (0x026 ≤ n && n ≤ 0x028)
    || n = 0x050 || n = 0x070 || (0x0A0 ≤ n && n ≤ 0x0A5) || (0x0A8 ≤ n && n ≤ 0x0AD) || (0x0B0 ≤ n && n ≤ 0x0B5)

/-- System registers that a CSR instruction may name: every assigned number but TDONE (R122, R137). -/
def sregReadable (n : BitVec 12) : Bool :=
  sregWritable n || n = 0x001 || n = 0x024 || (0x030 ≤ n && n ≤ 0x033) || n = 0x040 || n = 0x041 || n = 0x051
    || n = 0x060 || n = 0x061 || n = 0x080 || n = 0x081 || n = 0x090

/-- The condition codes that R26 allows for integer formats. -/
def condInt (c : BitVec 4) : Bool := c < 10

/-- The condition codes that R26 allows for floating formats. -/
def condFloat (c : BitVec 4) : Bool := c < 6 || c = 10 || c = 11

/-- A destination operand must have policy bit 0 (R20). -/
def VOp.dst (o : VOp) : Bool := !o.pol

/-- An immediate that must not be negative (R165, R167). -/
def imm13Nonneg (i : BitVec 13) : Bool := !i.msb

/-- Every field of the instruction holds a value that its description defines. -/
def Instr.wf : Instr → Bool
  | .shli _ _ imm | .shri _ _ imm | .srai _ _ imm => imm < 64
  | .fcmp c _ _ _ => condFloat c
  | .ldU _ wid _ _ _ => wid ≠ 3
  | .ldc _ wid u _ _ _ => !(u && wid = 3)
  | .amo _ op wid _ _ _ | .amoP _ op wid _ _ => op ≠ .cas && 2 ≤ wid
  | .amoCas _ wid _ _ _ _ => 2 ≤ wid
  | .bc c _ _ _ | .brkloopCond c _ _ _ => condInt c
  | .bcv m _ _ => m < 3
  | .csrr _ r => sregReadable r
  | .csrw _ r _ | .csrs _ r _ | .csrc _ r _ => sregWritable r
  | .fence scope kind => scope < 6 && kind < 3
  | .sbar m => m ≠ 0
  | .vadd vd _ _ _ _ | .vsub vd _ _ _ _ | .vmul vd _ _ _ _ | .vfma vd _ _ _ _ _ | .vfms vd _ _ _ _ _
  | .vfnma vd _ _ _ _ _ | .vmin vd _ _ _ _ | .vmax vd _ _ _ _ | .vabs vd _ _ _ | .vneg vd _ _ _
  | .vdiv vd _ _ _ _ | .vsqrt vd _ _ _ | .vexp2 vd _ _ _ | .vand vd _ _ _ _ | .vor vd _ _ _ _
  | .vxor vd _ _ _ _ | .vnot vd _ _ _ | .vshl vd _ _ _ _ | .vshr vd _ _ _ _ | .vcvt vd _ _ _
  | .vscale vd _ _ _ _ | .vclamp vd _ _ _ _ _ | .vsel vd _ _ _ _ _ | .vmov vd _ _ | .vmovFromMask vd _ _
  | .vsplat vd _ _ | .vsplatI vd _ _ | .viota vd _ _ _ | .vins vd _ _ | .vperm vd _ _ _ _
  | .vslideup vd _ _ _ | .vslidedn vd _ _ _ | .vredsum vd _ _ _ _ | .vredmax vd _ _ _ _
  | .vredmin vd _ _ _ _ | .vscan vd _ _ _ _ | .vcompress vd _ _ => vd.dst
  | .vcmp c _ _ _ _ _ => c < 12
  | .vmovSysreg vd r _ => vd.dst && sregReadable r
  | .vextrI _ _ imm _ => imm13Nonneg imm
  | .vinsI vd _ imm => vd.dst && imm13Nonneg imm
  | .vslideupI vd _ imm _ | .vslidednI vd _ imm _ => vd.dst && imm13Nonneg imm
  | .vfeEmpty vd _ _ | .vfeFull vd _ _ => vd.dst
  | .vld vt _ _ | .vlds vt _ _ _ | .vgath vt _ _ _ _ | .vldc vt _ _ | .vldcS vt _ _ _ | .vldcX vt _ _ _ _ => vt.dst
  | .vpref m _ | .vprefS m _ _ | .vprefX _ m _ _ => m.strm = 0
  | .vamo op vt _ m _ => op ≠ .cas && 2 ≤ m.mw && vt.dst
  | .vamoP op _ _ m _ => op ≠ .cas && 2 ≤ m.mw
  | .vamoCas vt _ m _ => 2 ≤ m.mw && vt.dst
  | .vfill vt _ _ _ => vt.dst
  | .vdrain _ vt _ => vt.dst
  | .mconvV _ _ _ vo _ _ => vo.dst
  | .tcapt vo _ => vo.dst
  | .tcaptFirstk _ vo _ => vo.dst
  | .vestq _ dir => dir < 6
  | _ => true

/-- The instructions that end a block (R34). -/
def Instr.endsBlock : Instr → Bool
  | .br _ | .bc _ _ _ _ | .bcv _ _ _ | .call _ | .callr _ | .ret | .jmpr _ | .loop _ | .loopi _ | .endloop
  | .brkloop _ | .brkloopCond _ _ _ _ | .rett | .asidsw _ _ | .vmode _ | .taskend => true
  | _ => false

end Sys2Proof
end

