-- ==== Sys2Proof/Decode.lean ====
section
/-! DEFINITION. Decoding an instruction word (R16 to R20, R45 to R47), the encoder written from the same format
tables, and the host's entry decodeTableWord. Decoding is total: a word that is no instruction is rejected by name, and
the hart that meets it traps ILL (R41). -/

namespace Sys2Proof

/-- Why a word is no instruction word. Each traps ILL at rank 2 of R41. -/
inductive DecodeError where
  /-- MAJ 63: a block header where an instruction word is due (R29) -/
  | header
  /-- a MAJ that R45 reserves -/
  | unassignedMaj
  /-- a MIN that R46 does not list -/
  | unassignedMin
  /-- a reserved or unused field is not zero (R17) -/
  | reservedField
  /-- a code that R20, R24, R25, R26, R47 or the instruction's description does not define -/
  | undefinedCode
  deriving DecidableEq, Repr

/-- What decoding a word gives. -/
abbrev Decoded := Except DecodeError Instr

/-- The major opcode (R16). -/
def fMaj (w : Word) : BitVec 6 := w.field 58 6
/-- The minor opcode (R16). -/
def fMin (w : Word) : BitVec 6 := w.field 52 6

/-- `k` where the bits of `w` named by the list of (low bit, length) pairs are all zero (R17). -/
def whenZero (w : Word) (fs : List (Nat × Nat)) (k : Decoded) : Decoded :=
  if fs.all (fun f => (w.toNat >>> f.1) % 2 ^ f.2 = 0) then k else .error .reservedField

/-- The instruction, where its fields hold defined values (R47). -/
def defined (i : Instr) : Decoded := if i.wf then .ok i else .error .undefinedCode

/-- A code looked up: reject where it is not defined. -/
def withCode {α : Type} (x : Option α) (k : α → Decoded) : Decoded :=
  match x with
  | some a => k a
  | none => .error .undefinedCode

/-- The atomic operation code (R47). -/
def amoOpOf (sub : Nat) : Option AmoOp :=
  match sub with
  | 0 => some .add
  | 1 => some .swap
  | 2 => some .cas
  | 3 => some .min
  | 4 => some .max
  | 5 => some .and
  | 6 => some .or
  | 7 => some .xor
  | _ => none

/-- The code of an atomic operation (R47). -/
def AmoOp.code : AmoOp → Nat
  | .add => 0
  | .swap => 1
  | .cas => 2
  | .min => 3
  | .max => 4
  | .and => 5
  | .or => 6
  | .xor => 7

/-- A 9-bit vector operand (R20); the direction 0b11 is not defined. -/
def vopOf (f : BitVec 9) : Option VOp :=
  match (f.extractLsb' 7 2).toNat with
  | 0 => some ⟨.row, f.getLsbD 6, f.extractLsb' 0 6⟩
  | 1 => some ⟨.col, f.getLsbD 6, f.extractLsb' 0 6⟩
  | 2 => some ⟨.diag, f.getLsbD 6, f.extractLsb' 0 6⟩
  | _ => none

/-- The bit of a Bool. -/
def bit1 (b : Bool) : BitVec 1 := if b then 1 else 0

/-- The code of a direction (R20). -/
def Dir.code : Dir → BitVec 2
  | .row => 0
  | .col => 1
  | .diag => 2

/-- The 9 bits of a vector operand (R20). -/
def VOp.bits (o : VOp) : BitVec 9 := o.dir.code ++ bit1 o.pol ++ o.idx

/-! ## Decoding, by format -/

/-- MAJ 1 and 2, format SR with sd, sa and sb (R96, R97). -/
def dec3 (w : Word) (k : SReg → SReg → SReg → Instr) : Decoded :=
  whenZero w [(0, 37)] (.ok (k (w.field 47 5) (w.field 42 5) (w.field 37 5)))

/-- Format SR with sd and sa only. -/
def dec2 (w : Word) (k : SReg → SReg → Instr) : Decoded :=
  whenZero w [(0, 42)] (.ok (k (w.field 47 5) (w.field 42 5)))

/-- Format SR with sd, sa, sb and sc. -/
def dec4 (w : Word) (k : SReg → SReg → SReg → SReg → Instr) : Decoded :=
  whenZero w [(0, 32)] (.ok (k (w.field 47 5) (w.field 42 5) (w.field 37 5) (w.field 32 5)))

/-- Format SI with sd, sa and imm (R96, R97). -/
def decI (w : Word) (k : SReg → SReg → BitVec 32 → Instr) : Decoded :=
  whenZero w [(32, 10)] (defined (k (w.field 47 5) (w.field 42 5) (w.field 0 32)))

/-- MAJ 1 (R46). -/
def decodeMaj1 (w : Word) : Decoded :=
  match (fMin w).toNat with
  | 0 => dec3 w .add
  | 1 => dec3 w .sub
  | 2 => dec3 w .and
  | 3 => dec3 w .or
  | 4 => dec3 w .xor
  | 5 => dec3 w .shl
  | 6 => dec3 w .shr
  | 7 => dec3 w .sra
  | 8 => dec3 w .slt
  | 9 => dec3 w .sltu
  | 10 => dec3 w .min
  | 11 => dec3 w .max
  | 12 => dec3 w .minu
  | 13 => dec3 w .maxu
  | 14 => dec4 w .sel
  | 15 => dec2 w .clz
  | 16 => dec2 w .popc
  | _ => .error .unassignedMin

/-- MAJ 2 (R46). -/
def decodeMaj2 (w : Word) : Decoded :=
  match (fMin w).toNat with
  | 0 => dec3 w .mul
  | 1 => dec3 w .mulh
  | 2 => dec3 w .mulhu
  | 3 => dec3 w .div
  | 4 => dec3 w .divu
  | 5 => dec3 w .rem
  | 6 => dec3 w .remu
  | _ => .error .unassignedMin

/-- MAJ 3 (R46). -/
def decodeMaj3 (w : Word) : Decoded :=
  match (fMin w).toNat with
  | 0 => decI w .addi
  | 1 => decI w .andi
  | 2 => decI w .ori
  | 3 => decI w .xori
  | 4 => decI w .shli
  | 5 => decI w .shri
  | 6 => decI w .srai
  | 7 => decI w .slti
  | 8 => whenZero w [(32, 15)] (.ok (.li (w.field 47 5) (w.field 0 32)))
  | 9 => decI w .lui
  | _ => .error .unassignedMin

/-- FCVT's kinds (R98). -/
def fcvtOf (sub : Nat) : Option (SReg → SReg → Instr) :=
  match sub with
  | 0 => some .fcvtI64F32
  | 1 => some .fcvtU64F32
  | 2 => some .fcvtF32I64
  | 3 => some .fcvtF32U64
  | 4 => some .fcvtF32I32
  | 5 => some .fcvtF32Bf16
  | 6 => some .fcvtBf16F32
  | 7 => some .fcvtF32F16
  | 8 => some .fcvtF16F32
  | _ => none

/-- MAJ 8 (R46, R98). FCMP's condition is sub[3:0] with sub[5:4] zero; FCVT's kind is sub. -/
def decodeMaj8 (w : Word) : Decoded :=
  match (fMin w).toNat with
  | 0 => dec3 w .fadd
  | 1 => dec3 w .fsub
  | 2 => dec3 w .fmul
  | 3 => dec4 w .ffma
  | 4 => dec3 w .fmin
  | 5 => dec3 w .fmax
  | 6 => whenZero w [(0, 20), (24, 13)]
      (defined (.fcmp (w.field 20 4) (w.field 47 5) (w.field 42 5) (w.field 37 5)))
  | 7 => whenZero w [(0, 20), (26, 16)]
      (withCode (fcvtOf (w.field 20 6).toNat) fun k => .ok (k (w.field 47 5) (w.field 42 5)))
  | _ => .error .unassignedMin

/-- MAJ 10 (R99): the modifier .U is sub 1. -/
def decodeMaj10 (w : Word) : Decoded :=
  let strm := w.field 39 3
  let wid := w.field 37 2
  let sd := w.field 47 5
  let sa := w.field 42 5
  let imm := w.field 0 32
  match (fMin w).toNat, (w.field 32 5).toNat with
  | 0, 0 => .ok (.ld strm wid sd sa imm)
  | 0, 1 => defined (.ldU strm wid sd sa imm)
  | 0, _ => .error .undefinedCode
  | 1, 0 => .ok (.st strm wid sd sa imm)
  | 1, _ => .error .undefinedCode
  | 2, 0 => .ok (.ldc strm wid false sd sa imm)
  | 2, 1 => defined (.ldc strm wid true sd sa imm)
  | 2, _ => .error .undefinedCode
  | _, _ => .error .unassignedMin

/-- MAJ 11 (R103, R104): posted with sd zero, CAS with sc. -/
def decodeMaj11 (w : Word) : Decoded :=
  let strm := w.field 29 3
  let wid := w.field 18 2
  let sd := w.field 47 5
  let sa := w.field 42 5
  let sb := w.field 37 5
  match (fMin w).toNat with
  | 0 =>
    whenZero w [(0, 17), (26, 3)] <|
      withCode (amoOpOf (w.field 20 6).toNat) fun op =>
        if w.getLsbD 17 then whenZero w [(47, 5), (32, 5)] (defined (.amoP strm op wid sa sb))
        else if op = .cas then defined (.amoCas strm wid sd sa sb (w.field 32 5))
        else whenZero w [(32, 5)] (defined (.amo strm op wid sd sa sb))
  | _ => .error .unassignedMin

/-- MAJ 12, format B (R107). -/
def decodeMaj12 (w : Word) : Decoded :=
  let off := w.field 0 32
  let sa := w.field 47 5
  let sb := w.field 42 5
  let cond := w.field 38 4
  match (fMin w).toNat with
  | 0 => whenZero w [(32, 20)] (.ok (.br off))
  | 1 => whenZero w [(32, 6)] (defined (.bc cond sa sb off))
  | 2 => whenZero w [(38, 14)] (defined (.bcv (w.field 32 3) (w.field 35 3) off))
  | 3 => whenZero w [(32, 20)] (.ok (.call off))
  | 4 =>
    match (w.field 32 3).toNat with
    | 0 => whenZero w [(35, 17)] (.ok (.brkloop off))
    | 1 => whenZero w [(35, 3)] (defined (.brkloopCond cond sa sb off))
    | _ => .error .undefinedCode
  | _ => .error .unassignedMin

/-- MAJ 13, formats SR and SI (R108, R117, R118). -/
def decodeMaj13 (w : Word) : Decoded :=
  let sa := w.field 42 5
  match (fMin w).toNat with
  | 0 => whenZero w [(0, 42), (47, 5)] (.ok (.callr sa))
  | 1 => whenZero w [(0, 52)] (.ok .ret)
  | 2 => whenZero w [(0, 42), (47, 5)] (.ok (.jmpr sa))
  | 3 => whenZero w [(0, 42), (47, 5)] (.ok (.loop sa))
  | 4 => whenZero w [(0, 52)] (.ok .endloop)
  | 5 => whenZero w [(32, 20)] (.ok (.loopi (w.field 0 32)))
  | _ => .error .unassignedMin

/-- MAJ 16, format X (R120). -/
def decodeMaj16 (w : Word) : Decoded :=
  let sd := w.field 47 5
  let sa := w.field 42 5
  let sb := w.field 37 5
  let sreg := w.field 12 12
  let imm := w.field 0 12
  match (fMin w).toNat with
  | 0 => whenZero w [(12, 40)] (.ok (.trap imm))
  | 1 => whenZero w [(0, 52)] (.ok .rett)
  | 2 => whenZero w [(0, 12), (24, 23)] (defined (.csrr sd sreg))
  | 3 => whenZero w [(0, 12), (24, 18)] (defined (.csrw sd sreg sa))
  | 4 => whenZero w [(0, 12), (24, 18)] (defined (.csrs sd sreg sa))
  | 5 => whenZero w [(0, 12), (24, 18)] (defined (.csrc sd sreg sa))
  | 6 => whenZero w [(0, 32), (37, 15)] (defined (.fence (w.field 34 3) (w.field 32 2)))
  | 7 => whenZero w [(0, 24), (32, 20)] (defined (.sbar (w.field 24 8)))
  | 8 => whenZero w [(0, 37), (47, 5)] (.ok (.asidsw sa sb))
  | 9 => whenZero w [(0, 37)] (.ok (.wfe sd sa sb))
  | 10 => whenZero w [(0, 52)] (.ok .nop)
  | 11 => whenZero w [(0, 52)] (.ok .brk)
  | 12 => whenZero w [(12, 30), (47, 5)] (.ok (.mark sa imm))
  | 13 => whenZero w [(12, 40)] (.ok (.yield imm))
  | 14 => whenZero w [(0, 52)] (.ok .gbar)
  | 15 => whenZero w [(6, 31)] (.ok (.stamp sd sa sb (w.field 0 6)))
  | _ => .error .unassignedMin

/-- MAJ 20, format SI (R140, R142, R143). -/
def decodeMaj20 (w : Word) : Decoded :=
  let sd := w.field 47 5
  let sa := w.field 42 5
  match (fMin w).toNat, (w.field 32 5).toNat with
  | 0, 0 => whenZero w [(8, 24), (37, 5)] (.ok (.setvl sd sa (w.field 0 8)))
  | 0, 1 => whenZero w [(0, 32), (37, 5)] (.ok (.setvlK sd sa))
  | 0, _ => .error .undefinedCode
  | 1, 0 => whenZero w [(20, 12), (37, 10)] (.ok (.setvli sd (w.field 8 12) (w.field 0 8)))
  | 1, 1 => whenZero w [(0, 8), (20, 12), (37, 10)] (.ok (.setvliK sd (w.field 8 12)))
  | 1, _ => .error .undefinedCode
  | 2, 0 => whenZero w [(3, 29), (37, 10)] (.ok (.vlqMax sd (w.field 0 3)))
  | 2, 1 => whenZero w [(0, 32), (37, 10)] (.ok (.vlqRegs sd))
  | 2, 2 => whenZero w [(0, 32), (37, 5)] (.ok (.vlqFrame sd sa))
  | 2, _ => .error .undefinedCode
  | 3, _ => whenZero w [(1, 51)] (.ok (.vmode (w.getLsbD 0)))
  | _, _ => .error .unassignedMin

/-- Format V3 with vd, va and vb, aux and the reserved bits zero (R151). -/
def decV3 (w : Word) (k : VOp → VOp → VOp → FReg → MReg → Instr) : Decoded :=
  whenZero w [(0, 10), (16, 9)] <|
    withCode (vopOf (w.field 43 9)) fun vd => withCode (vopOf (w.field 34 9)) fun va =>
      withCode (vopOf (w.field 25 9)) fun vb => defined (k vd va vb (w.field 13 3) (w.field 10 3))

/-- Format V3 with vd and va. -/
def decV2 (w : Word) (k : VOp → VOp → FReg → MReg → Instr) : Decoded :=
  whenZero w [(0, 10), (16, 18)] <|
    withCode (vopOf (w.field 43 9)) fun vd => withCode (vopOf (w.field 34 9)) fun va =>
      defined (k vd va (w.field 13 3) (w.field 10 3))

/-- Format V3 with vd, va, vb and vc. -/
def decV4 (w : Word) (k : VOp → VOp → VOp → VOp → FReg → MReg → Instr) : Decoded :=
  whenZero w [(0, 10)] <|
    withCode (vopOf (w.field 43 9)) fun vd => withCode (vopOf (w.field 34 9)) fun va =>
      withCode (vopOf (w.field 25 9)) fun vb => withCode (vopOf (w.field 16 9)) fun vc =>
        defined (k vd va vb vc (w.field 13 3) (w.field 10 3))

/-- MAJ 21 (R151, R152). -/
def decodeMaj21 (w : Word) : Decoded :=
  match (fMin w).toNat with
  | 0 => decV3 w .vadd
  | 1 => decV3 w .vsub
  | 2 => decV3 w .vmul
  | 3 => decV4 w .vfma
  | 4 => decV4 w .vfms
  | 5 => decV4 w .vfnma
  | 6 => decV3 w .vmin
  | 7 => decV3 w .vmax
  | 8 => decV2 w .vabs
  | 9 => decV2 w .vneg
  | 10 => decV3 w .vdiv
  | 11 => decV2 w .vsqrt
  | 12 => decV2 w .vexp2
  | 13 => decV3 w .vand
  | 14 => decV3 w .vor
  | 15 => decV3 w .vxor
  | 16 => decV2 w .vnot
  | 17 => decV3 w .vshl
  | 18 => decV3 w .vshr
  | 19 => decV2 w .vcvt
  | 20 => decV3 w .vscale
  | 21 => decV4 w .vclamp
  | _ => .error .unassignedMin

/-- MAJ 22 MIN 2, VMOV between registers (R160): no format register. -/
def decodeVmov (w : Word) : Decoded :=
  let mask := w.field 10 3
  whenZero w [(0, 4), (13, 21)] <|
    match (w.field 4 6).toNat with
    | 0 => withCode (vopOf (w.field 43 9)) fun vd => withCode (vopOf (w.field 34 9)) fun va => defined (.vmov vd va mask)
    | 1 => whenZero w [(46, 6), (37, 6)] (.ok (.vmovMask (w.field 43 3) (w.field 34 3) mask))
    | 2 => whenZero w [(37, 6)] <|
        withCode (vopOf (w.field 43 9)) fun vd => defined (.vmovFromMask vd (w.field 34 3) mask)
    | 3 => whenZero w [(46, 6)] <|
        withCode (vopOf (w.field 34 9)) fun va => .ok (.vmovToMask (w.field 43 3) va mask)
    | _ => .error .undefinedCode

/-- MAJ 22 MIN 3, VSPLAT, format VS (R162). -/
def decodeVsplat (w : Word) : Decoded :=
  let mask := w.field 10 3
  whenZero w [(0, 4), (13, 3), (34, 9)] <|
    withCode (vopOf (w.field 43 9)) fun vd =>
      match (w.field 4 6).toNat with
      | 0 => whenZero w [(16, 13)] (defined (.vsplat vd (w.field 29 5) mask))
      | 1 => whenZero w [(29, 5)] (defined (.vsplatI vd (w.field 16 13) mask))
      | _ => .error .undefinedCode

/-- MAJ 22 MIN 11 and 12, VEXTR and VINS, format VS (R165): mask zero. -/
def decodeVextr (w : Word) : Decoded :=
  let fmt := w.field 13 3
  whenZero w [(0, 4), (10, 3), (48, 4)] <|
    withCode (vopOf (w.field 34 9)) fun va =>
      match (w.field 4 6).toNat with
      | 0 => whenZero w [(16, 13)] (.ok (.vextr (w.field 43 5) va (w.field 29 5) fmt))
      | 1 => whenZero w [(29, 5)] (defined (.vextrI (w.field 43 5) va (w.field 16 13) fmt))
      | _ => .error .undefinedCode

/-- VINS (R165): the index register stands in va, and no format register is read. -/
def decodeVins (w : Word) : Decoded :=
  whenZero w [(0, 4), (10, 6)] <|
    withCode (vopOf (w.field 43 9)) fun vd =>
      match (w.field 4 6).toNat with
      | 0 => whenZero w [(16, 13), (39, 4)] (defined (.vins vd (w.field 34 5) (w.field 29 5)))
      | 1 => whenZero w [(34, 9)] (defined (.vinsI vd (w.field 29 5) (w.field 16 13)))
      | _ => .error .undefinedCode

/-- MAJ 22 MIN 13, VMOV from a system register, format VS (R161). -/
def decodeVmovSysreg (w : Word) : Decoded :=
  let mask := w.field 10 3
  let sreg := w.field 16 12
  whenZero w [(0, 4), (13, 3), (28, 15)] <|
    match (w.field 4 6).toNat with
    | 0 => withCode (vopOf (w.field 43 9)) fun vd => defined (.vmovSysreg vd sreg mask)
    | 1 => whenZero w [(46, 6)] (if sreg = 0x025 then .ok (.vmovTdone (w.field 43 3) mask) else .error .undefinedCode)
    | _ => .error .undefinedCode

/-- MAJ 22 (R46, R158 to R165). -/
def decodeMaj22 (w : Word) : Decoded :=
  let fmt := w.field 13 3
  let mask := w.field 10 3
  match (fMin w).toNat with
  | 0 => whenZero w [(0, 4), (8, 2), (16, 9), (46, 6)] <|
      withCode (vopOf (w.field 34 9)) fun va => withCode (vopOf (w.field 25 9)) fun vb =>
        defined (.vcmp (w.field 4 4) (w.field 43 3) va vb fmt mask)
  | 1 => whenZero w [(0, 10), (19, 6)] <|
      withCode (vopOf (w.field 43 9)) fun vd => withCode (vopOf (w.field 34 9)) fun va =>
        withCode (vopOf (w.field 25 9)) fun vb => defined (.vsel vd va vb (w.field 16 3) fmt mask)
  | 2 => decodeVmov w
  | 3 => decodeVsplat w
  | 4 => whenZero w [(0, 10), (16, 18), (37, 6)] <|
      withCode (vopOf (w.field 43 9)) fun vd => defined (.viota vd (w.field 34 3) fmt mask)
  | 5 => whenZero w [(0, 10), (13, 21), (37, 6), (48, 4)] (.ok (.vpopm (w.field 43 5) (w.field 34 3) mask))
  | 6 => whenZero w [(0, 10), (13, 21), (37, 6), (48, 4)] (.ok (.vfirst (w.field 43 5) (w.field 34 3) mask))
  | 7 => whenZero w [(0, 10), (13, 12), (28, 6), (37, 6), (46, 6)]
      (.ok (.vmand (w.field 43 3) (w.field 34 3) (w.field 25 3) mask))
  | 8 => whenZero w [(0, 10), (13, 12), (28, 6), (37, 6), (46, 6)]
      (.ok (.vmor (w.field 43 3) (w.field 34 3) (w.field 25 3) mask))
  | 9 => whenZero w [(0, 10), (13, 12), (28, 6), (37, 6), (46, 6)]
      (.ok (.vmxor (w.field 43 3) (w.field 34 3) (w.field 25 3) mask))
  | 10 => whenZero w [(0, 10), (13, 21), (37, 6), (46, 6)] (.ok (.vmnot (w.field 43 3) (w.field 34 3) mask))
  | 11 => decodeVextr w
  | 12 => decodeVins w
  | 13 => decodeVmovSysreg w
  | _ => .error .unassignedMin

/-- VSLIDEUP and VSLIDEDN, format VS (R167): no format register. -/
def decSlide (w : Word) (k : VOp → VOp → SReg → MReg → Instr) (kI : VOp → VOp → BitVec 13 → MReg → Instr) : Decoded :=
  let mask := w.field 10 3
  whenZero w [(0, 4), (13, 3)] <|
    withCode (vopOf (w.field 43 9)) fun vd => withCode (vopOf (w.field 34 9)) fun va =>
      match (w.field 4 6).toNat with
      | 0 => whenZero w [(16, 13)] (defined (k vd va (w.field 29 5) mask))
      | 1 => whenZero w [(29, 5)] (defined (kI vd va (w.field 16 13) mask))
      | _ => .error .undefinedCode

/-- MAJ 23 (R46, R166 to R170). -/
def decodeMaj23 (w : Word) : Decoded :=
  match (fMin w).toNat with
  | 0 => decV3 w .vperm
  | 1 => decSlide w .vslideup .vslideupI
  | 2 => decSlide w .vslidedn .vslidednI
  | 3 => decV3 w .vredsum
  | 4 => decV3 w .vredmax
  | 5 => decV3 w .vredmin
  | 6 => decV3 w .vscan
  | 7 => whenZero w [(0, 10), (13, 21)] <|
      withCode (vopOf (w.field 43 9)) fun vd => withCode (vopOf (w.field 34 9)) fun va =>
        defined (.vcompress vd va (w.field 10 3))
  | _ => .error .unassignedMin

/-- MAJ 24, VFE, format VS (R150). -/
def decodeMaj24 (w : Word) : Decoded :=
  let mask := w.field 10 3
  match (fMin w).toNat with
  | 0 =>
    whenZero w [(0, 4), (13, 3), (29, 5)] <|
      match (w.field 4 6).toNat with
      | 0 => whenZero w [(22, 7), (34, 9)] <|
          withCode (vopOf (w.field 43 9)) fun vd => defined (.vfeEmpty vd (w.field 16 6) mask)
      | 1 => whenZero w [(22, 7), (34, 9)] <|
          withCode (vopOf (w.field 43 9)) fun vd => defined (.vfeFull vd (w.field 16 6) mask)
      | 2 => whenZero w [(16, 13), (46, 6)] <|
          withCode (vopOf (w.field 34 9)) fun va => .ok (.vfeTest (w.field 43 3) va mask)
      | _ => .error .undefinedCode
  | _ => .error .unassignedMin

/-- The fields that the loads, stores and atomics share (R176, R177). -/
def vmArgs (w : Word) : VMemArgs := ⟨w.field 21 3, w.field 4 2, w.field 29 5, w.field 10 3⟩

/-- Bits 5 down to 2 of aux: reserved, POST or LVL, ESC, SX (R177). -/
def auxPost (w : Word) : Bool := w.getLsbD 8
/-- ESC (R177). -/
def auxEsc (w : Word) : Bool := w.getLsbD 7
/-- SX (R177). -/
def auxSx (w : Word) : Bool := w.getLsbD 6

/-- VLDC (R176, R181): sub selects the addressing mode. -/
def decodeVldc (w : Word) : Decoded :=
  let m := vmArgs w
  whenZero w [(0, 4), (8, 2), (13, 3)] <|
    withCode (vopOf (w.field 43 9)) fun vt =>
      match (w.field 16 5).toNat with
      | 0 => whenZero w [(7, 1), (24, 5), (34, 9)] (defined (.vldc vt m (auxSx w)))
      | 1 => whenZero w [(7, 1), (34, 9)] (defined (.vldcS vt m (w.field 24 5) (auxSx w)))
      | 2 => whenZero w [(24, 5)] <|
          withCode (vopOf (w.field 34 9)) fun vi => defined (.vldcX vt vi m (auxSx w) (auxEsc w))
      | _ => .error .undefinedCode

/-- VPREF (R176, R196): strm zero, sub selects the addressing mode. -/
def decodeVpref (w : Word) : Decoded :=
  let m := vmArgs w
  whenZero w [(0, 4), (6, 1), (9, 1), (13, 3), (21, 3), (43, 9)] <|
    match (w.field 16 5).toNat with
    | 0 => whenZero w [(7, 1), (24, 5), (34, 9)] (defined (.vpref m (auxPost w)))
    | 1 => whenZero w [(7, 1), (34, 9)] (defined (.vprefS m (w.field 24 5) (auxPost w)))
    | 2 => whenZero w [(24, 5)] <| withCode (vopOf (w.field 34 9)) fun vi => defined (.vprefX vi m (auxPost w) (auxEsc w))
    | _ => .error .undefinedCode

/-- MAJ 32 (R176, R181, R196). -/
def decodeMaj32 (w : Word) : Decoded :=
  let m := vmArgs w
  match (fMin w).toNat with
  | 0 => whenZero w [(0, 4), (7, 3), (13, 8), (24, 5), (34, 9)] <|
      withCode (vopOf (w.field 43 9)) fun vt => defined (.vld vt m (auxSx w))
  | 1 => whenZero w [(0, 4), (6, 4), (13, 8), (24, 5), (34, 9)] <|
      withCode (vopOf (w.field 43 9)) fun vt => defined (.vst vt m)
  | 2 => whenZero w [(0, 4), (7, 3), (13, 8), (34, 9)] <|
      withCode (vopOf (w.field 43 9)) fun vt => defined (.vlds vt m (w.field 24 5) (auxSx w))
  | 3 => whenZero w [(0, 4), (6, 4), (13, 8), (34, 9)] <|
      withCode (vopOf (w.field 43 9)) fun vt => defined (.vsts vt m (w.field 24 5))
  | 4 => whenZero w [(0, 4), (8, 2), (13, 8), (24, 5)] <|
      withCode (vopOf (w.field 43 9)) fun vt => withCode (vopOf (w.field 34 9)) fun vi =>
        defined (.vgath vt vi m (auxSx w) (auxEsc w))
  | 5 => whenZero w [(0, 4), (6, 1), (8, 2), (13, 8), (24, 5)] <|
      withCode (vopOf (w.field 43 9)) fun vt => withCode (vopOf (w.field 34 9)) fun vi =>
        defined (.vscat vt vi m (auxEsc w))
  | 6 => decodeVldc w
  | 7 => decodeVpref w
  | _ => .error .unassignedMin

/-- MAJ 33, VAMO (R176, R193). -/
def decodeMaj33 (w : Word) : Decoded :=
  let m := vmArgs w
  match (fMin w).toNat with
  | 0 => whenZero w [(0, 4), (6, 1), (9, 1), (13, 3), (24, 5)] <|
      withCode (amoOpOf (w.field 16 5).toNat) fun op =>
        withCode (vopOf (w.field 43 9)) fun vt => withCode (vopOf (w.field 34 9)) fun vi =>
          if auxPost w then defined (.vamoP op vt vi m (auxEsc w))
          else if op = .cas then defined (.vamoCas vt vi m (auxEsc w))
          else defined (.vamo op vt vi m (auxEsc w))
  | _ => .error .unassignedMin

/-- MAJ 34, VSPILL and VFILL (R176, R197). -/
def decodeMaj34 (w : Word) : Decoded :=
  whenZero w [(0, 21), (34, 9)] <|
    withCode (vopOf (w.field 43 9)) fun vt =>
      match (fMin w).toNat with
      | 0 => .ok (.vspill vt (w.field 29 5) (w.field 24 5) (w.field 21 3))
      | 1 => defined (.vfill vt (w.field 29 5) (w.field 24 5) (w.field 21 3))
      | _ => .error .unassignedMin

/-- MAJ 40, deferral and append (R176, R201 to R204). -/
def decodeMaj40 (w : Word) : Decoded :=
  let sc := w.field 24 5
  let k := w.field 4 2
  match (fMin w).toNat with
  | 0 => whenZero w [(0, 4), (6, 4), (13, 8), (39, 4)] <|
      withCode (vopOf (w.field 43 9)) fun vt => .ok (.vappend vt (w.field 34 5) (vmArgs w) sc)
  | 1 => whenZero w [(0, 4), (6, 4), (13, 11), (29, 5), (46, 6)] <|
      withCode (vopOf (w.field 34 9)) fun vi => .ok (.vdefer k (w.field 43 3) vi sc (w.field 10 3))
  | 2 => whenZero w [(0, 4), (6, 18), (29, 14)] <|
      withCode (vopOf (w.field 43 9)) fun vt => defined (.vdrain k vt sc)
  | 3 => whenZero w [(0, 16), (21, 3), (29, 23)] <|
      match (w.field 16 5).toNat with
      | 0 => .ok (.vdqCount sc)
      | 1 => .ok (.vdqFree sc)
      | 2 => .ok (.vdqClear sc)
      | _ => .error .undefinedCode
  | _ => .error .unassignedMin

/-- The barrier, slot and Q fields of an engine command (R212, R207). -/
def cmdOf (w : Word) : Cmd := ⟨w.field 26 6, w.field 22 4, w.getLsbD 9⟩

/-- MAJ 44 (R212, R213). -/
def decodeMaj44 (w : Word) : Decoded :=
  let sa := w.field 47 5
  let sb := w.field 42 5
  let sc := w.field 37 5
  let acc := w.field 32 5
  let fmt := w.field 10 3
  let c := cmdOf w
  match (fMin w).toNat with
  | 0 =>
    let a : MtileArgs := ⟨sa, sb, sc, acc, c.bar, c.slot, fmt, c.q, w.getLsbD 6, w.getLsbD 5, w.getLsbD 4⟩
    whenZero w [(0, 4), (13, 9)] <|
      match (w.field 7 2).toNat with
      | 0 => .ok (.mtile a)
      | 1 => .ok (.mtileAcc a)
      | 2 => .ok (.mtileDecay a)
      | _ => .error .undefinedCode
  | 1 => whenZero w [(0, 9), (13, 9), (37, 15)] (.ok (.mzero acc fmt c))
  | 2 =>
    if w.getLsbD 4 then
      whenZero w [(0, 4), (5, 4), (47, 5)] <| withCode (vopOf (w.field 13 9)) fun vo => defined (.mconvV sb sc acc vo fmt c)
    else whenZero w [(0, 9), (13, 9), (37, 10)] (.ok (.mconv sa acc fmt c))
  | 3 => whenZero w [(0, 9), (10, 12), (37, 5)] (.ok (.mload sa sb acc c))
  | 4 => whenZero w [(0, 9), (10, 12), (37, 10)] (.ok (.aspill sa acc c))
  | 5 => whenZero w [(0, 9), (10, 12), (37, 10)] (.ok (.afill sa acc c))
  | _ => .error .unassignedMin

/-- MAJ 48 (R212). -/
def decodeMaj48 (w : Word) : Decoded :=
  let sa := w.field 47 5
  let sb := w.field 42 5
  let c := cmdOf w
  match (fMin w).toNat with
  | 0 => whenZero w [(0, 9), (10, 12), (32, 15)] (.ok (.cpy sa c))
  | 1 => whenZero w [(0, 9), (10, 12), (32, 10)] (.ok (.cpyg sa sb c))
  | 2 => whenZero w [(0, 9), (10, 12), (32, 10)] (.ok (.cpys sa sb c))
  | 3 => whenZero w [(0, 9), (10, 12), (32, 10)] (.ok (.cfill sa sb c))
  | _ => .error .unassignedMin

/-- MAJ 52 (R212, R213). -/
def decodeMaj52 (w : Word) : Decoded :=
  let sa := w.field 47 5
  let c := cmdOf w
  match (fMin w).toNat with
  | 0 => whenZero w [(0, 9), (10, 3), (32, 15)] <| withCode (vopOf (w.field 13 9)) fun vo => .ok (.twin sa vo c)
  | 1 => whenZero w [(0, 9), (10, 12), (32, 15)] (.ok (.twld sa c))
  | 2 =>
    whenZero w [(0, 4), (6, 3), (10, 12), (32, 15)] <|
      match (w.field 4 2).toNat with
      | 0 => whenZero w [(47, 5)] (.ok (.tlaunch c))
      | 1 => whenZero w [(47, 5)] (.ok (.tlaunchAnd c))
      | 2 => .ok (.tlaunchMix sa c)
      | _ => .error .undefinedCode
  | 3 =>
    whenZero w [(0, 4), (6, 3), (10, 3), (32, 10), (47, 5)] <|
      match (w.field 4 2).toNat with
      | 0 => whenZero w [(42, 5)] <| withCode (vopOf (w.field 13 9)) fun vo => defined (.tcapt vo c)
      | 1 => withCode (vopOf (w.field 13 9)) fun vo => defined (.tcaptFirstk (w.field 42 5) vo c)
      | 2 => whenZero w [(18, 4), (42, 5)] (.ok (.tcaptCount (w.field 13 5) c))
      | _ => .error .undefinedCode
  | 4 => whenZero w [(0, 9), (10, 12), (32, 20)] (.ok (.treset c))
  | _ => .error .unassignedMin

/-- MAJ 54 (R212, R213). -/
def decodeMaj54 (w : Word) : Decoded :=
  let sa := w.field 47 5
  let sb := w.field 42 5
  let bar := w.field 26 6
  let sd := w.field 13 5
  match (fMin w).toNat with
  | 0 => whenZero w [(0, 26), (32, 15)] (.ok (.binit sa bar))
  | 1 =>
    whenZero w [(0, 4), (5, 21), (32, 10)] <|
      if w.getLsbD 4 then .ok (.barvR sa sb bar) else whenZero w [(42, 5)] (.ok (.barv sa bar))
  | 2 => whenZero w [(0, 4), (5, 8), (18, 8), (32, 15)] (.ok (if w.getLsbD 4 then .bwaitT sd sa bar else .bwait sd sa bar))
  | 3 => whenZero w [(0, 4), (5, 8), (18, 8), (32, 20)] (.ok (if w.getLsbD 4 then .btestA sd bar else .btest sd bar))
  | 4 =>
    whenZero w [(0, 4), (5, 21), (32, 10)] <|
      if w.getLsbD 4 then whenZero w [(42, 10)] (.ok (.berrClr bar)) else .ok (.berr sa sb bar)
  | 5 => whenZero w [(0, 22), (26, 21)] (.ok (.trset sa (w.field 22 4)))
  | 6 => whenZero w [(0, 22), (26, 26)] (.ok (.trclr (w.field 22 4)))
  | _ => .error .unassignedMin

/-- MAJ 56 (R212, R213). -/
def decodeMaj56 (w : Word) : Decoded :=
  let sa := w.field 47 5
  let sb := w.field 42 5
  let sd := w.field 13 5
  match (fMin w).toNat with
  | 0 => whenZero w [(0, 52)] (.ok .taskend)
  | 1 => whenZero w [(0, 13), (18, 24)] (.ok (.taskq sd sa sb))
  | 2 => whenZero w [(0, 13), (18, 19)] (.ok (.launch sd sa sb (w.field 37 5)))
  | 3 => whenZero w [(0, 4), (5, 21), (32, 10)]
      (.ok (if w.getLsbD 4 then .leasexW sa sb (w.field 26 6) else .leasex sa sb (w.field 26 6)))
  | 4 => whenZero w [(0, 4), (7, 6), (18, 34)] (defined (.vestq sd (w.field 4 3)))
  | _ => .error .unassignedMin

/-- The instruction of a word, or why it is none (R45, R46). -/
def decode (w : Word) : Decoded :=
  match (fMaj w).toNat with
  | 1 => decodeMaj1 w
  | 2 => decodeMaj2 w
  | 3 => decodeMaj3 w
  | 8 => decodeMaj8 w
  | 10 => decodeMaj10 w
  | 11 => decodeMaj11 w
  | 12 => decodeMaj12 w
  | 13 => decodeMaj13 w
  | 16 => decodeMaj16 w
  | 20 => decodeMaj20 w
  | 21 => decodeMaj21 w
  | 22 => decodeMaj22 w
  | 23 => decodeMaj23 w
  | 24 => decodeMaj24 w
  | 32 => decodeMaj32 w
  | 33 => decodeMaj33 w
  | 34 => decodeMaj34 w
  | 40 => decodeMaj40 w
  | 44 => decodeMaj44 w
  | 48 => decodeMaj48 w
  | 52 => decodeMaj52 w
  | 54 => decodeMaj54 w
  | 56 => decodeMaj56 w
  | 63 => .error .header
  | _ => .error .unassignedMaj

/-! ## The encoder, from the same format tables (R18) -/

/-- Format SR (R18). -/
def packSR (maj min : BitVec 6) (sd sa sb sc : SReg) (strm scope : BitVec 3) (sub : BitVec 6) (wid : BitVec 2)
    (pst : BitVec 1) : Word :=
  maj ++ min ++ sd ++ sa ++ sb ++ sc ++ strm ++ scope ++ sub ++ wid ++ pst ++ (0 : BitVec 17)

/-- Format SI (R18). -/
def packSI (maj min : BitVec 6) (sd sa : SReg) (strm : BitVec 3) (wid : BitVec 2) (sub : BitVec 5)
    (imm : BitVec 32) : Word :=
  maj ++ min ++ sd ++ sa ++ strm ++ wid ++ sub ++ imm

/-- Format B (R18). -/
def packB (maj min : BitVec 6) (sa sb : SReg) (cond : BitVec 4) (msel bmode : BitVec 3) (off : BitVec 32) : Word :=
  maj ++ min ++ sa ++ sb ++ cond ++ msel ++ bmode ++ off

/-- Format V3 (R18). -/
def packV3 (maj min : BitVec 6) (vd va vb vc : BitVec 9) (fmt mask : BitVec 3) (aux : BitVec 6) : Word :=
  maj ++ min ++ vd ++ va ++ vb ++ vc ++ fmt ++ mask ++ aux ++ (0 : BitVec 4)

/-- Format VS (R18). -/
def packVS (maj min : BitVec 6) (vd va : BitVec 9) (ss : SReg) (imm : BitVec 13) (fmt mask : BitVec 3)
    (aux : BitVec 6) : Word :=
  maj ++ min ++ vd ++ va ++ ss ++ imm ++ fmt ++ mask ++ aux ++ (0 : BitVec 4)

/-- Format VM (R18). -/
def packVM (maj min : BitVec 6) (vt vi : BitVec 9) (sa sb : SReg) (strm : BitVec 3) (sub : BitVec 5)
    (mask : BitVec 3) (aux : BitVec 6) : Word :=
  maj ++ min ++ vt ++ vi ++ sa ++ sb ++ strm ++ sub ++ (0 : BitVec 3) ++ mask ++ aux ++ (0 : BitVec 4)

/-- Format E (R18). -/
def packE (maj min : BitVec 6) (sa sb sc acc : SReg) (bar : BitVec 6) (slot : BitVec 4) (vo : BitVec 9)
    (fmt : BitVec 3) (aux : BitVec 6) : Word :=
  maj ++ min ++ sa ++ sb ++ sc ++ acc ++ bar ++ slot ++ vo ++ fmt ++ aux ++ (0 : BitVec 4)

/-- Format X (R18). -/
def packX (maj min : BitVec 6) (sd sa sb : SReg) (scope : BitVec 3) (kind : BitVec 2) (smask : BitVec 8)
    (sreg imm12 : BitVec 12) : Word :=
  maj ++ min ++ sd ++ sa ++ sb ++ scope ++ kind ++ smask ++ sreg ++ imm12

/-- A scalar or mask register in a 9-bit field (R19). -/
def in9 {n : Nat} (r : BitVec n) : BitVec 9 := r.setWidth 9

/-- MAJ 1 and 2 (R96). -/
def enc3 (maj min : BitVec 6) (sd sa sb : SReg) : Word := packSR maj min sd sa sb 0 0 0 0 0 0
/-- MAJ 8, FCVT (R98). -/
def encCvt (sub : BitVec 6) (sd sa : SReg) : Word := packSR 8 7 sd sa 0 0 0 0 sub 0 0
/-- MAJ 3 (R96). -/
def encI (min : BitVec 6) (sd sa : SReg) (imm : BitVec 32) : Word := packSI 3 min sd sa 0 0 0 imm
/-- Format V3 with three operands. -/
def encV3 (maj min : BitVec 6) (vd va vb : VOp) (fmt mask : BitVec 3) : Word :=
  packV3 maj min vd.bits va.bits vb.bits 0 fmt mask 0
/-- Format V3 with two operands. -/
def encV2 (maj min : BitVec 6) (vd va : VOp) (fmt mask : BitVec 3) : Word := packV3 maj min vd.bits va.bits 0 0 fmt mask 0
/-- Format V3 with four operands. -/
def encV4 (maj min : BitVec 6) (vd va vb vc : VOp) (fmt mask : BitVec 3) : Word :=
  packV3 maj min vd.bits va.bits vb.bits vc.bits fmt mask 0
/-- aux of a vector memory instruction (R177). -/
def auxM (m : VMemArgs) (post esc sx : Bool) : BitVec 6 :=
  (0 : BitVec 1) ++ bit1 post ++ bit1 esc ++ bit1 sx ++ m.mw
/-- The code of an atomic operation in a 5-bit sub field. -/
def sub5 (op : AmoOp) : BitVec 5 := BitVec.ofNat 5 op.code
/-- MTILE with its MODE (R213). -/
def encMtile (mode : BitVec 2) (a : MtileArgs) : Word :=
  packE 44 0 a.sa a.sb a.sc a.acc a.bar a.slot 0 a.fmt (bit1 a.q ++ mode ++ bit1 a.nocut ++ bit1 a.tra ++ bit1 a.trb)
/-- An engine command with its aux bits below Q. -/
def encCmd (maj min : BitVec 6) (sa sb sc acc : SReg) (vo : BitVec 9) (fmt : BitVec 3) (c : Cmd) (aux : BitVec 5) : Word :=
  packE maj min sa sb sc acc c.bar c.slot vo fmt (bit1 c.q ++ aux)

/-- The word of a well-formed instruction (R18, R46). An event of the table has no word: it gives the all-zero word,
which is no instruction (R45). -/
def encode : Instr → Word
  | .add sd sa sb => enc3 1 0 sd sa sb
  | .sub sd sa sb => enc3 1 1 sd sa sb
  | .and sd sa sb => enc3 1 2 sd sa sb
  | .or sd sa sb => enc3 1 3 sd sa sb
  | .xor sd sa sb => enc3 1 4 sd sa sb
  | .shl sd sa sb => enc3 1 5 sd sa sb
  | .shr sd sa sb => enc3 1 6 sd sa sb
  | .sra sd sa sb => enc3 1 7 sd sa sb
  | .slt sd sa sb => enc3 1 8 sd sa sb
  | .sltu sd sa sb => enc3 1 9 sd sa sb
  | .min sd sa sb => enc3 1 10 sd sa sb
  | .max sd sa sb => enc3 1 11 sd sa sb
  | .minu sd sa sb => enc3 1 12 sd sa sb
  | .maxu sd sa sb => enc3 1 13 sd sa sb
  | .sel sd sa sb sc => packSR 1 14 sd sa sb sc 0 0 0 0 0
  | .clz sd sa => enc3 1 15 sd sa 0
  | .popc sd sa => enc3 1 16 sd sa 0
  | .mul sd sa sb => enc3 2 0 sd sa sb
  | .mulh sd sa sb => enc3 2 1 sd sa sb
  | .mulhu sd sa sb => enc3 2 2 sd sa sb
  | .div sd sa sb => enc3 2 3 sd sa sb
  | .divu sd sa sb => enc3 2 4 sd sa sb
  | .rem sd sa sb => enc3 2 5 sd sa sb
  | .remu sd sa sb => enc3 2 6 sd sa sb
  | .addi sd sa imm => encI 0 sd sa imm
  | .andi sd sa imm => encI 1 sd sa imm
  | .ori sd sa imm => encI 2 sd sa imm
  | .xori sd sa imm => encI 3 sd sa imm
  | .shli sd sa imm => encI 4 sd sa imm
  | .shri sd sa imm => encI 5 sd sa imm
  | .srai sd sa imm => encI 6 sd sa imm
  | .slti sd sa imm => encI 7 sd sa imm
  | .li sd imm => encI 8 sd 0 imm
  | .lui sd sa imm => encI 9 sd sa imm
  | .fadd sd sa sb => enc3 8 0 sd sa sb
  | .fsub sd sa sb => enc3 8 1 sd sa sb
  | .fmul sd sa sb => enc3 8 2 sd sa sb
  | .ffma sd sa sb sc => packSR 8 3 sd sa sb sc 0 0 0 0 0
  | .fmin sd sa sb => enc3 8 4 sd sa sb
  | .fmax sd sa sb => enc3 8 5 sd sa sb
  | .fcmp c sd sa sb => packSR 8 6 sd sa sb 0 0 0 (c.setWidth 6) 0 0
  | .fcvtI64F32 sd sa => encCvt 0 sd sa
  | .fcvtU64F32 sd sa => encCvt 1 sd sa
  | .fcvtF32I64 sd sa => encCvt 2 sd sa
  | .fcvtF32U64 sd sa => encCvt 3 sd sa
  | .fcvtF32I32 sd sa => encCvt 4 sd sa
  | .fcvtF32Bf16 sd sa => encCvt 5 sd sa
  | .fcvtBf16F32 sd sa => encCvt 6 sd sa
  | .fcvtF32F16 sd sa => encCvt 7 sd sa
  | .fcvtF16F32 sd sa => encCvt 8 sd sa
  | .ld strm wid sd sa imm => packSI 10 0 sd sa strm wid 0 imm
  | .ldU strm wid sd sa imm => packSI 10 0 sd sa strm wid 1 imm
  | .st strm wid sd sa imm => packSI 10 1 sd sa strm wid 0 imm
  | .ldc strm wid u sd sa imm => packSI 10 2 sd sa strm wid ((bit1 u).setWidth 5) imm
  | .amo strm op wid sd sa sb => packSR 11 0 sd sa sb 0 strm 0 (BitVec.ofNat 6 op.code) wid 0
  | .amoCas strm wid sd sa sb sc => packSR 11 0 sd sa sb sc strm 0 2 wid 0
  | .amoP strm op wid sa sb => packSR 11 0 0 sa sb 0 strm 0 (BitVec.ofNat 6 op.code) wid 1
  | .br off => packB 12 0 0 0 0 0 0 off
  | .bc c sa sb off => packB 12 1 sa sb c 0 0 off
  | .bcv bmode msel off => packB 12 2 0 0 0 msel bmode off
  | .call off => packB 12 3 0 0 0 0 0 off
  | .brkloop off => packB 12 4 0 0 0 0 0 off
  | .brkloopCond c sa sb off => packB 12 4 sa sb c 0 1 off
  | .callr sa => enc3 13 0 0 sa 0
  | .ret => enc3 13 1 0 0 0
  | .jmpr sa => enc3 13 2 0 sa 0
  | .loop sa => enc3 13 3 0 sa 0
  | .endloop => enc3 13 4 0 0 0
  | .loopi imm => packSI 13 5 0 0 0 0 0 imm
  | .trap imm => packX 16 0 0 0 0 0 0 0 0 imm
  | .rett => packX 16 1 0 0 0 0 0 0 0 0
  | .csrr sd r => packX 16 2 sd 0 0 0 0 0 r 0
  | .csrw sd r sa => packX 16 3 sd sa 0 0 0 0 r 0
  | .csrs sd r sa => packX 16 4 sd sa 0 0 0 0 r 0
  | .csrc sd r sa => packX 16 5 sd sa 0 0 0 0 r 0
  | .fence scope kind => packX 16 6 0 0 0 scope kind 0 0 0
  | .sbar m => packX 16 7 0 0 0 0 0 m 0 0
  | .asidsw sa sb => packX 16 8 0 sa sb 0 0 0 0 0
  | .wfe sd sa sb => packX 16 9 sd sa sb 0 0 0 0 0
  | .nop => packX 16 10 0 0 0 0 0 0 0 0
  | .brk => packX 16 11 0 0 0 0 0 0 0 0
  | .mark sa imm => packX 16 12 0 sa 0 0 0 0 0 imm
  | .yield imm => packX 16 13 0 0 0 0 0 0 0 imm
  | .gbar => packX 16 14 0 0 0 0 0 0 0 0
  | .stamp sm sa sb bar => packX 16 15 sm sa sb 0 0 0 0 (bar.setWidth 12)
  | .setvl sd sa vt => packSI 20 0 sd sa 0 0 0 (vt.setWidth 32)
  | .setvlK sd sa => packSI 20 0 sd sa 0 0 1 0
  | .setvli sd avl vt => packSI 20 1 sd 0 0 0 0 ((0 : BitVec 12) ++ avl ++ vt)
  | .setvliK sd avl => packSI 20 1 sd 0 0 0 1 ((0 : BitVec 12) ++ avl ++ (0 : BitVec 8))
  | .vlqMax sd code => packSI 20 2 sd 0 0 0 0 (code.setWidth 32)
  | .vlqRegs sd => packSI 20 2 sd 0 0 0 1 0
  | .vlqFrame sd sa => packSI 20 2 sd sa 0 0 2 0
  | .vmode wide => packSI 20 3 0 0 0 0 0 ((bit1 wide).setWidth 32)
  | .vadd vd va vb f m => encV3 21 0 vd va vb f m
  | .vsub vd va vb f m => encV3 21 1 vd va vb f m
  | .vmul vd va vb f m => encV3 21 2 vd va vb f m
  | .vfma vd va vb vc f m => encV4 21 3 vd va vb vc f m
  | .vfms vd va vb vc f m => encV4 21 4 vd va vb vc f m
  | .vfnma vd va vb vc f m => encV4 21 5 vd va vb vc f m
  | .vmin vd va vb f m => encV3 21 6 vd va vb f m
  | .vmax vd va vb f m => encV3 21 7 vd va vb f m
  | .vabs vd va f m => encV2 21 8 vd va f m
  | .vneg vd va f m => encV2 21 9 vd va f m
  | .vdiv vd va vb f m => encV3 21 10 vd va vb f m
  | .vsqrt vd va f m => encV2 21 11 vd va f m
  | .vexp2 vd va f m => encV2 21 12 vd va f m
  | .vand vd va vb f m => encV3 21 13 vd va vb f m
  | .vor vd va vb f m => encV3 21 14 vd va vb f m
  | .vxor vd va vb f m => encV3 21 15 vd va vb f m
  | .vnot vd va f m => encV2 21 16 vd va f m
  | .vshl vd va vb f m => encV3 21 17 vd va vb f m
  | .vshr vd va vb f m => encV3 21 18 vd va vb f m
  | .vcvt vd va f m => encV2 21 19 vd va f m
  | .vscale vd va vb f m => encV3 21 20 vd va vb f m
  | .vclamp vd va vb vc f m => encV4 21 21 vd va vb vc f m
  | .vcmp c md va vb f m => packV3 22 0 (in9 md) va.bits vb.bits 0 f m (c.setWidth 6)
  | .vsel vd va vb mk f m => packV3 22 1 vd.bits va.bits vb.bits (in9 mk) f m 0
  | .vmov vd va m => packV3 22 2 vd.bits va.bits 0 0 0 m 0
  | .vmovMask md ma m => packV3 22 2 (in9 md) (in9 ma) 0 0 0 m 1
  | .vmovFromMask vd ma m => packV3 22 2 vd.bits (in9 ma) 0 0 0 m 2
  | .vmovToMask md va m => packV3 22 2 (in9 md) va.bits 0 0 0 m 3
  | .vmovSysreg vd r m => packVS 22 13 vd.bits 0 0 (r.setWidth 13) 0 m 0
  | .vmovTdone md m => packVS 22 13 (in9 md) 0 0 0x025 0 m 1
  | .vsplat vd ss m => packVS 22 3 vd.bits 0 ss 0 0 m 0
  | .vsplatI vd imm m => packVS 22 3 vd.bits 0 0 imm 0 m 1
  | .viota vd ma f m => packV3 22 4 vd.bits (in9 ma) 0 0 f m 0
  | .vpopm sd ma m => packV3 22 5 (in9 sd) (in9 ma) 0 0 0 m 0
  | .vfirst sd ma m => packV3 22 6 (in9 sd) (in9 ma) 0 0 0 m 0
  | .vmand md ma mb m => packV3 22 7 (in9 md) (in9 ma) (in9 mb) 0 0 m 0
  | .vmor md ma mb m => packV3 22 8 (in9 md) (in9 ma) (in9 mb) 0 0 m 0
  | .vmxor md ma mb m => packV3 22 9 (in9 md) (in9 ma) (in9 mb) 0 0 m 0
  | .vmnot md ma m => packV3 22 10 (in9 md) (in9 ma) 0 0 0 m 0
  | .vextr sd va ss f => packVS 22 11 (in9 sd) va.bits ss 0 f 0 0
  | .vextrI sd va imm f => packVS 22 11 (in9 sd) va.bits 0 imm f 0 1
  | .vins vd sa ss => packVS 22 12 vd.bits (in9 sa) ss 0 0 0 0
  | .vinsI vd ss imm => packVS 22 12 vd.bits 0 ss imm 0 0 1
  | .vperm vd va vb f m => encV3 23 0 vd va vb f m
  | .vslideup vd va ss m => packVS 23 1 vd.bits va.bits ss 0 0 m 0
  | .vslideupI vd va imm m => packVS 23 1 vd.bits va.bits 0 imm 0 m 1
  | .vslidedn vd va ss m => packVS 23 2 vd.bits va.bits ss 0 0 m 0
  | .vslidednI vd va imm m => packVS 23 2 vd.bits va.bits 0 imm 0 m 1
  | .vredsum vd va vb f m => encV3 23 3 vd va vb f m
  | .vredmax vd va vb f m => encV3 23 4 vd va vb f m
  | .vredmin vd va vb f m => encV3 23 5 vd va vb f m
  | .vscan vd va vb f m => encV3 23 6 vd va vb f m
  | .vcompress vd va m => encV2 23 7 vd va 0 m
  | .vfeEmpty vd n m => packVS 24 0 vd.bits 0 0 (n.setWidth 13) 0 m 0
  | .vfeFull vd n m => packVS 24 0 vd.bits 0 0 (n.setWidth 13) 0 m 1
  | .vfeTest md va m => packVS 24 0 (in9 md) va.bits 0 0 0 m 2
  | .vld vt m sx => packVM 32 0 vt.bits 0 m.sa 0 m.strm 0 m.mask (auxM m false false sx)
  | .vst vt m => packVM 32 1 vt.bits 0 m.sa 0 m.strm 0 m.mask (auxM m false false false)
  | .vlds vt m sb sx => packVM 32 2 vt.bits 0 m.sa sb m.strm 0 m.mask (auxM m false false sx)
  | .vsts vt m sb => packVM 32 3 vt.bits 0 m.sa sb m.strm 0 m.mask (auxM m false false false)
  | .vgath vt vi m sx esc => packVM 32 4 vt.bits vi.bits m.sa 0 m.strm 0 m.mask (auxM m false esc sx)
  | .vscat vt vi m esc => packVM 32 5 vt.bits vi.bits m.sa 0 m.strm 0 m.mask (auxM m false esc false)
  | .vldc vt m sx => packVM 32 6 vt.bits 0 m.sa 0 m.strm 0 m.mask (auxM m false false sx)
  | .vldcS vt m sb sx => packVM 32 6 vt.bits 0 m.sa sb m.strm 1 m.mask (auxM m false false sx)
  | .vldcX vt vi m sx esc => packVM 32 6 vt.bits vi.bits m.sa 0 m.strm 2 m.mask (auxM m false esc sx)
  | .vpref m lvl => packVM 32 7 0 0 m.sa 0 0 0 m.mask (auxM m lvl false false)
  | .vprefS m sb lvl => packVM 32 7 0 0 m.sa sb 0 1 m.mask (auxM m lvl false false)
  | .vprefX vi m lvl esc => packVM 32 7 0 vi.bits m.sa 0 0 2 m.mask (auxM m lvl esc false)
  | .vamo op vt vi m esc => packVM 33 0 vt.bits vi.bits m.sa 0 m.strm (sub5 op) m.mask (auxM m false esc false)
  | .vamoP op vt vi m esc => packVM 33 0 vt.bits vi.bits m.sa 0 m.strm (sub5 op) m.mask (auxM m true esc false)
  | .vamoCas vt vi m esc => packVM 33 0 vt.bits vi.bits m.sa 0 m.strm 2 m.mask (auxM m false esc false)
  | .vspill vt sa sb strm => packVM 34 0 vt.bits 0 sa sb strm 0 0 0
  | .vfill vt sa sb strm => packVM 34 1 vt.bits 0 sa sb strm 0 0 0
  | .vappend vt sd m sb => packVM 40 0 vt.bits (in9 sd) m.sa sb m.strm 0 m.mask (auxM m false false false)
  | .vdefer k md vi sc mask => packVM 40 1 (in9 md) vi.bits 0 sc 0 0 mask (k.setWidth 6)
  | .vdrain k vt sc => packVM 40 2 vt.bits 0 0 sc 0 0 0 (k.setWidth 6)
  | .vdqCount sc => packVM 40 3 0 0 0 sc 0 0 0 0
  | .vdqFree sc => packVM 40 3 0 0 0 sc 0 1 0 0
  | .vdqClear sc => packVM 40 3 0 0 0 sc 0 2 0 0
  | .mtile a => encMtile 0 a
  | .mtileAcc a => encMtile 1 a
  | .mtileDecay a => encMtile 2 a
  | .mzero acc fmt c => encCmd 44 1 0 0 0 acc 0 fmt c 0
  | .mconv sa acc fmt c => encCmd 44 2 sa 0 0 acc 0 fmt c 0
  | .mconvV sb sc acc vo fmt c => encCmd 44 2 0 sb sc acc vo.bits fmt c 1
  | .mload sa sb acc c => encCmd 44 3 sa sb 0 acc 0 0 c 0
  | .aspill sa acc c => encCmd 44 4 sa 0 0 acc 0 0 c 0
  | .afill sa acc c => encCmd 44 5 sa 0 0 acc 0 0 c 0
  | .cpy sa c => encCmd 48 0 sa 0 0 0 0 0 c 0
  | .cpyg sa sb c => encCmd 48 1 sa sb 0 0 0 0 c 0
  | .cpys sa sb c => encCmd 48 2 sa sb 0 0 0 0 c 0
  | .cfill sa sb c => encCmd 48 3 sa sb 0 0 0 0 c 0
  | .twin sa vo c => encCmd 52 0 sa 0 0 0 vo.bits 0 c 0
  | .twld sa c => encCmd 52 1 sa 0 0 0 0 0 c 0
  | .tlaunch c => encCmd 52 2 0 0 0 0 0 0 c 0
  | .tlaunchAnd c => encCmd 52 2 0 0 0 0 0 0 c 1
  | .tlaunchMix sa c => encCmd 52 2 sa 0 0 0 0 0 c 2
  | .tcapt vo c => encCmd 52 3 0 0 0 0 vo.bits 0 c 0
  | .tcaptFirstk sb vo c => encCmd 52 3 0 sb 0 0 vo.bits 0 c 1
  | .tcaptCount sd c => encCmd 52 3 0 0 0 0 (in9 sd) 0 c 2
  | .treset c => encCmd 52 4 0 0 0 0 0 0 c 0
  | .binit sa bar => packE 54 0 sa 0 0 0 bar 0 0 0 0
  | .barv sa bar => packE 54 1 sa 0 0 0 bar 0 0 0 0
  | .barvR sa sb bar => packE 54 1 sa sb 0 0 bar 0 0 0 1
  | .bwait sd sa bar => packE 54 2 sa 0 0 0 bar 0 (in9 sd) 0 0
  | .bwaitT sd sa bar => packE 54 2 sa 0 0 0 bar 0 (in9 sd) 0 1
  | .btest sd bar => packE 54 3 0 0 0 0 bar 0 (in9 sd) 0 0
  | .btestA sd bar => packE 54 3 0 0 0 0 bar 0 (in9 sd) 0 1
  | .berr sa sb bar => packE 54 4 sa sb 0 0 bar 0 0 0 0
  | .berrClr bar => packE 54 4 0 0 0 0 bar 0 0 0 1
  | .trset sa n => packE 54 5 sa 0 0 0 0 n 0 0 0
  | .trclr n => packE 54 6 0 0 0 0 0 n 0 0 0
  | .taskend => packE 56 0 0 0 0 0 0 0 0 0 0
  | .taskq sd sa sb => packE 56 1 sa sb 0 0 0 0 (in9 sd) 0 0
  | .launch sd sa sb sc => packE 56 2 sa sb sc 0 0 0 (in9 sd) 0 0
  | .leasex sa sb bar => packE 56 3 sa sb 0 0 bar 0 0 0 0
  | .leasexW sa sb bar => packE 56 3 sa sb 0 0 bar 0 0 0 1
  | .vestq sd dir => packE 56 4 0 0 0 0 0 0 (in9 sd) 0 (dir.setWidth 6)
  | _ => 0

/-- The words of the table's rows are instruction words; its events have none. -/
def Instr.hasWord (i : Instr) : Bool := encode i ≠ 0

/-- A word as its eight bytes in memory, lowest address first (R15). -/
def wordBytes (w : Word) : List Byte := (List.range 8).map fun k => w.extractLsb' (8 * k) 8

/-- The word of eight bytes, lowest address first (R15). -/
def bytesWord (bs : List Byte) : Word := BitVec.ofNat 64 (bs.foldr (fun b n => b.toNat + 256 * n) 0)

/-- The instruction that the decoder reads from the table's bits `w`: they are laid out as R15 stores a word, the bits
above `nbits` zero. -/
def decodeTableWord (nbits w : Nat) : Option Instr :=
  match decode (bytesWord (wordBytes (BitVec.ofNat 64 (w % 2 ^ min nbits 64)))) with
  | .ok i => some i
  | .error _ => none

end Sys2Proof
end

