-- ==== Sys2Proof/Config.lean ====
section
/-! DEFINITION. What an implementation fixes, and the free values of the model.

A free value is an opaque constant with no body: no proof can see what it is. Each is applied to the counter
`freeCount` of State or to the operands that it depends on, and each has an entry in the assumption log. -/

namespace Sys2Proof.Config

/-- PWBASE, the base of the pool window (R173). -/
def pwBase : Nat := 0x00FFFF0000000000

/-- The size of the pool window (R173). -/
def pwSize : Nat := 2 ^ 40

/-- Cores (R1, R5). -/
def cores : Nat := 128

/-- Lanes of a core (R4, R5). -/
def lanes : Nat := 16

/-- Entries of a lane queue and of a result buffer (R249, R252), and words in flight (R250). -/
def window : Nat := 64

/-- Entries of the deferral queue (R200). -/
def deferCap : Nat := 256

/-- Installed device memory in bytes: 512 GiB (R5). -/
def deviceBytes : Nat := 2 ^ 39

/-- Bytes of one bank: 32 MiB (R375). -/
def bankBytes : Nat := 2 ^ 25

/-- Leaf translations that one unit caches (R270). -/
def leafCap : Nat := 8192

/-- Pointer entries that one unit caches (R270). -/
def pointerCap : Nat := 1024

/-- Which scalar registers above SHW read as zero in this step (R31). FREE VALUE, log entry 8. -/
opaque deadScalar : Nat → BitVec 32

/-- Which vector registers above VHW read as zero in this step (R31). FREE VALUE, log entry 8. -/
opaque deadVector : Nat → BitVec 64

/-- The bits of a lane slice after VMODE (R143). FREE VALUE, log entry 9. -/
opaque vmodeSlice : Nat → Nat → Nat → BitVec 1024

/-- What a vector instruction gives that another member of the gang had in flight when VMODE changed the mode (R143). FREE
VALUE, log entry 9. -/
opaque modeResult : Nat → Nat → BitVec 1024

/-- A byte of an entry of the event ring or of the fault ring that the host has moved under its entries (R388). FREE VALUE,
log entry 16. -/
opaque ringByte : Nat → Nat → Byte

/-- A byte of an accumulator tile whose MLOAD or AFILL faulted (R292). FREE VALUE, log entry 10. -/
opaque tileWord : Nat → Nat → BitVec 32

/-- A byte of the destination of a copy whose source and destination overlap (R230). FREE VALUE, log entry 11. -/
opaque copyByte : Nat → Nat → Byte

/-- A byte of the area that a failed context image had reached (R344). FREE VALUE, log entry 12. -/
opaque imageByte : Nat → Nat → Byte

/-- The word that a fetch gives of code that has been written without the sequence of R40. FREE VALUE, log entry 49. -/
opaque staleCode : Nat → Nat → BitVec 64

/-- The bits of a lane slice of a follow-on MCONV.V's destination that the hart has used without acquiring the arrival of its
command (R232). FREE VALUE, log entry 57. -/
opaque followSlice : Nat → Nat → Nat → BitVec 1024

/-- A copy misses a store of its hart, in a stream that the copy is not ordered after: it reads what stood there before (R209,
R321). FREE VALUE, log entry 75. -/
opaque missesStore : Nat → Nat → Bool

/-- A word of a hart's spill area that another agent has written, which software must not let it do (R14, R111). FREE VALUE, log
entry 88. -/
opaque spilledWord : Nat → Nat → BitVec 64

/-- The fault address of a copy that its peer's failure stops when every destination element has been performed and only its
follow-on record is still to be read (R384). FREE VALUE, log entry 99. -/
opaque copyAddress : Nat → BitVec 64

/-- Where a burst of device memory lies in the stacks, by the generation of the bank-availability map, the burst and the part:
0 which of the live banks, 4 the row, 5 the column (R377). FREE VALUE, log entry 76. -/
opaque burstPlace : Nat → Nat → Nat → Nat

/-- Dirty data of an L2 line cannot be recovered, or cannot be written back at a post's reset (R382, R394). FREE VALUE, log entry
77. -/
opaque lostLine : Nat → Nat → Bool

/-- Which of the 64 slices of a post's L2 holds a copy of a line, by its ASID and its virtual tag (R272). FREE VALUE, log entry
86. -/
opaque lineSlice : Nat → Nat → Fin 64

/-- Where the rotating pointer of a lane's issue stands (R255). FREE VALUE, log entry 73. -/
opaque issuePointer : Nat → Nat

/-- A count of the series that measures cycles, caches or accesses whose width the spec leaves open: by the step, and by 16 times
the core and the count's place (R412). FREE VALUE, log entry 87. -/
opaque seriesCount : Nat → Nat → BitVec 32

/-- The two key pairs of the sill (R400). -/
inductive SillKey where
  | identity
  | provenance
  deriving DecidableEq, Repr

/-- The signature that the sill makes over a message with a key (R400, R406). FREE VALUE, log entry 13. -/
opaque signature : SillKey → List Byte → Nat → Byte

/-- The public part of a key of the sill, derived from the device's fused secret (R400). FREE VALUE, log entry 13. -/
opaque publicKey : SillKey → Nat → Byte

/-- Caltia's certificate of the identity key (R400). FREE VALUE, log entry 13. -/
opaque identityCertificate : Nat → Byte

/-- The answer of the standard SPDM measurement exchange, whose messages SPDM 1.3 lays out (R400). FREE VALUE, log entry 13. -/
opaque spdmAnswer : Nat → List Byte → List Byte

/-- The SHA-256 of the ROM, as the attestation report gives it (R400). FREE VALUE, log entry 13. -/
opaque romDigest : Nat → Byte

/-- The SHA-256 of a firmware image (R400). FREE VALUE, log entry 13. -/
opaque firmwareDigest : Nat → Nat → Byte

/-- Which of several peer windows that overlap takes an access (R392). FREE VALUE, log entry 28. -/
opaque windowPick : Nat → Nat

/-- A word of the scratchpad that a commit reads and nothing has written (R340). FREE VALUE, log entry 31. -/
opaque staleWord : Nat → Nat → BitVec 32

end Sys2Proof.Config
end

