-- ==== Sys2Proof/Machine/Table.lean ====
section
/-! DEFINITION. Sparse tables in one canonical form: keys strictly rising, and no entry equal to the default, which is
what an unlisted key reads as. Memories, register files and sets of units are tables. -/

namespace Sys2Proof.Machine

/-- The entry of key `k`, or the default. -/
def Table.get {α : Type} (d : α) : Table α → Nat → α
  | [], _ => d
  | (j, v) :: t, k => if j = k then v else Table.get d t k

/-- The table without any entry for `k`. -/
def Table.drop {α : Type} : Table α → Nat → Table α
  | [], _ => []
  | (j, v) :: t, k => if j = k then Table.drop t k else (j, v) :: Table.drop t k

/-- The table with the entry `v` for `k`, whatever `v` is. -/
def Table.put {α : Type} : Table α → Nat → α → Table α
  | [], k, v => [(k, v)]
  | (j, x) :: t, k, v =>
    if j < k then (j, x) :: Table.put t k v else if j = k then (k, v) :: t else (k, v) :: (j, x) :: t

/-- Write `v` at `k`, keeping the canonical form: a value equal to the default leaves no entry. -/
def Table.set {α : Type} [DecidableEq α] (d : α) (t : Table α) (k : Nat) (v : α) : Table α :=
  if v = d then Table.drop t k else Table.put t k v

/-- Every key of the table is above `lo`, the keys rise strictly, and no entry is the default. -/
def Table.wfFrom {α : Type} [DecidableEq α] (d : α) : Option Nat → Table α → Bool
  | _, [] => true
  | lo, (j, v) :: t => (match lo with | none => true | some l => decide (l < j)) && decide (v ≠ d) &&
      Table.wfFrom d (some j) t

/-- The canonical form (a Bool). -/
def Table.wf {α : Type} [DecidableEq α] (d : α) (t : Table α) : Bool := Table.wfFrom d none t

/-! ## Memory: bytes by address -/

/-- One byte of a memory. A byte that nothing has written reads zero (log entry 1). -/
def Memory.byte (m : Table Byte) (a : Nat) : Byte := Table.get 0 m a

/-- Write one byte. -/
def Memory.setByte (m : Table Byte) (a : Nat) (b : Byte) : Table Byte := Table.set 0 m a b

/-- The canonical form of a memory. -/
abbrev Memory.wf (m : Table Byte) : Bool := Table.wf (0 : Byte) m

/-- The little-endian number in the `n` bytes from `a`. -/
def Memory.load (m : Table Byte) (a : Nat) : Nat → Nat
  | 0 => 0
  | n + 1 => (Memory.byte m a).toNat + 256 * Memory.load m (a + 1) n

/-- Write `v`, little-endian, to the `n` bytes from `a`. -/
def Memory.store (m : Table Byte) (a : Nat) : Nat → Nat → Table Byte
  | 0, _ => m
  | n + 1, v => Memory.setByte (Memory.store m (a + 1) n (v / 256)) a (BitVec.ofNat 8 v)

/-- The bytes of a list, from `a` up. -/
def Memory.storeBytes (m : Table Byte) (a : Nat) : List Byte → Table Byte
  | [] => m
  | b :: t => Memory.setByte (Memory.storeBytes m (a + 1) t) a b

/-- The `n` bytes from `a` up. -/
def Memory.loadBytes (m : Table Byte) (a : Nat) : Nat → List Byte
  | 0 => []
  | n + 1 => Memory.byte m a :: Memory.loadBytes m (a + 1) n

end Sys2Proof.Machine
end

