-- ==== Sys2Proof/Machine/Sha.lean ====
section
/-! DEFINITION. SHA-256 over a list of bytes (R401, R404, R405): numbers of 32 bits read from the left of a byte string,
and one pass over a block that keeps only the sixteen words which the schedule still needs. -/

namespace Sys2Proof.Machine

/-- The first `n` numbers of 32 bits of a byte string, most significant byte first; a string too short gives fewer. -/
def shaNumbers : Nat → List Byte → List (BitVec 32)
  | n + 1, a :: b :: c :: d :: t => (a ++ b ++ c ++ d) :: shaNumbers n t
  | _, _ => []

/-- The eight numbers of 32 bits of a number of 256 bits, from its top. -/
def shaSplit (x : Nat) : List (BitVec 32) := (List.range 8).map fun k => BitVec.ofNat 32 (x >>> (32 * (7 - k)))

/-- The constants of the 64 rounds, eight to a row. -/
def shaSalt : List (BitVec 32) :=
  List.flatMap shaSplit [
   0x428a2f9871374491b5c0fbcfe9b5dba53956c25b59f111f1923f82a4ab1c5ed5,
   0xd807aa9812835b01243185be550c7dc372be5d7480deb1fe9bdc06a7c19bf174,
   0xe49b69c1efbe47860fc19dc6240ca1cc2de92c6f4a7484aa5cb0a9dc76f988da,
   0x983e5152a831c66db00327c8bf597fc7c6e00bf3d5a7914706ca635114292967,
   0x27b70a852e1b21384d2c6dfc53380d13650a7354766a0abb81c2c92e92722c85,
   0xa2bfe8a1a81a664bc24b8b70c76c51a3d192e819d6990624f40e3585106aa070,
   0x19a4c1161e376c082748774c34b0bcb5391c0cb34ed8aa4a5b9cca4f682e6ff3,
   0x748f82ee78a5636f84c878148cc7020890befffaa4506cebbef9a3f7c67178f2]

/-- The chaining value before the first block. -/
def shaStart : List (BitVec 32) := shaSplit
  0x6a09e667bb67ae853c6ef372a54ff53a510e527f9b05688c1f83d9ab5be0cd19

/-- The exclusive or of a number turned right by each of the amounts. -/
def shaTurn (x : BitVec 32) (amounts : List Nat) : BitVec 32 := amounts.foldl (fun y k => y ^^^ x.rotateRight k) 0

/-- A block in progress: the eight working numbers, and the sixteen message numbers ahead of the next round. -/
structure ShaPass where
  work : List (BitVec 32)
  ahead : List (BitVec 32)
  deriving DecidableEq, Repr

/-- What a round adds into the fourth and the eighth working number: `k` plus the head of the numbers ahead. -/
def ShaPass.gain (p : ShaPass) (k : BitVec 32) : BitVec 32 :=
  let nth i := p.work.getD i 0
  let choice := nth 6 ^^^ (nth 4 &&& (nth 5 ^^^ nth 6))
  k + p.ahead.headD 0 + nth 7 + choice + shaTurn (nth 4) [6, 11, 25]

/-- What a round makes of the first three working numbers. -/
def ShaPass.mix (p : ShaPass) : BitVec 32 :=
  let nth i := p.work.getD i 0
  let majority := (nth 0 &&& (nth 1 ||| nth 2)) ||| (nth 1 &&& nth 2)
  majority + shaTurn (nth 0) [2, 13, 22]

/-- The message number sixteen places behind the head of the numbers ahead. -/
def ShaPass.coming (p : ShaPass) : BitVec 32 :=
  let nth i := p.ahead.getD i 0
  let near := shaTurn (nth 1) [7, 18] ^^^ nth 1 >>> 3
  let far := shaTurn (nth 14) [17, 19] ^^^ nth 14 >>> 10
  nth 0 + nth 9 + near + far

/-- One round. -/
def ShaPass.round (p : ShaPass) (k : BitVec 32) : ShaPass :=
  let kept := p.work.take 7
  { work := (p.gain k + p.mix) :: kept.set 3 (kept.getD 3 0 + p.gain k),
    ahead := p.ahead.tail ++ [p.coming] }

/-- The chaining value after the blocks of a byte string, as many as the fuel. -/
def shaChain : Nat → List (BitVec 32) → List Byte → List (BitVec 32)
  | 0, chain, _ => chain
  | n + 1, chain, bs =>
    let last := shaSalt.foldl ShaPass.round { work := chain, ahead := shaNumbers 16 bs }
    shaChain n (last.work.zipWith (fun x y => x + y) chain) (bs.drop 64)

/-- The bytes of a number, most significant first. -/
def beBytes (n v : Nat) : List Byte := ((List.range n).map fun k => BitVec.ofNat 8 (v >>> (8 * k))).reverse

/-- A message with its end mark, the zeros that fill its last block, and its length in bits. -/
def shaPadded (m : List Byte) : List Byte :=
  let zeros := (64 - (m.length + 9) % 64) % 64
  m ++ 0x80 :: (List.replicate zeros 0 ++ beBytes 8 (8 * m.length))

/-- SHA-256, as 32 bytes. -/
def sha256 (m : List Byte) : List Byte :=
  let whole := shaPadded m
  (shaChain (whole.length / 64) shaStart whole).flatMap fun x => beBytes 4 x.toNat

end Sys2Proof.Machine
end

