-- ==== Sys2Proof/Machine/Flags.lean ====
section
/-! DEFINITION. Formats, exact values, the one rounding of each result, and the flags it raises (R54 to R89). -/

namespace Sys2Proof.Machine

/-! ## Flags and rounding controls -/

/-- The sticky flags of VFLAGS (R62). -/
abbrev Flags := BitVec 32
/-- inexact -/
def fNX : Flags := 1
/-- underflow -/
def fUF : Flags := 2
/-- overflow -/
def fOF : Flags := 4
/-- division by zero -/
def fDZ : Flags := 8
/-- invalid operation -/
def fNV : Flags := 16

/-- A flag, raised or not. -/
def flagIf (b : Bool) (f : Flags) : Flags := if b then f else 0

/-- VTYPE's rounding and saturation fields (R61): RM 0 RNE, 1 RTZ, 2 RDN, 3 RUP. -/
structure Rnd where
  rm : Nat
  ftzi : Bool
  ftzo : Bool
  sat : Bool
  deriving DecidableEq, Repr

/-- The rounding fields of a VTYPE (R61). -/
def rndOf (vtype : BitVec 32) : Rnd :=
  ⟨(vtype.extractLsb' 3 2).toNat, vtype.getLsbD 5, vtype.getLsbD 6, vtype.getLsbD 7⟩

/-- The rounding of a reduce copy (R92) and of MTILE (R91): RNE, no flush. -/
def rndNearest (sat ftzi : Bool) : Rnd := ⟨0, ftzi, false, sat⟩

/-! ## Formats (R54) -/

/-- The classes of R54. -/
inductive Class where
  | int (signed : Bool)
  | float
  | rns
  | tick
  | quant
  | none
  deriving DecidableEq, Repr

/-- The width of a format in bits (R54). -/
def fmtBits (c : Nat) : Nat :=
  match c with
  | 0 | 1 | 12 => 8
  | 2 | 3 | 8 | 9 => 16
  | 4 | 5 | 10 | 11 => 32
  | 6 => 64
  | 7 | 13 => 4
  | _ => 0

/-- The class of a format (R54). -/
def fmtClass (c : Nat) : Class :=
  match c with
  | 0 | 2 | 4 | 6 | 13 => .int true
  | 1 | 3 | 5 => .int false
  | 8 | 9 | 10 => .float
  | 11 => .rns
  | 12 => .tick
  | 7 => .quant
  | _ => .none

/-- Precision with the hidden bit, and the least normal exponent, of a floating format (R67). -/
def fmtP (c : Nat) : Nat := match c with | 8 => 8 | 9 => 11 | _ => 24
/-- The least normal exponent (R67). -/
def fmtEmin (c : Nat) : Int := match c with | 9 => -14 | _ => -126
/-- The greatest exponent (R67). -/
def fmtEmax (c : Nat) : Int := match c with | 9 => 15 | _ => 127
/-- The bits of the exponent field. -/
def fmtEbits (c : Nat) : Nat := match c with | 9 => 5 | _ => 8

/-- The bits of +∞ in a floating format: the exponent field all ones. -/
def infBits (c : Nat) : Nat := (2 ^ fmtEbits c - 1) * 2 ^ (fmtP c - 1)
/-- The sign bit of a floating format. -/
def signBit (c : Nat) : Nat := 2 ^ (fmtBits c - 1)
/-- The default NaN (R67). -/
def nanBits (c : Nat) : Nat := infBits c + 2 ^ (fmtP c - 2)
/-- A pattern with a sign. -/
def withSign (c : Nat) (neg : Bool) (x : Nat) : Nat := if neg then x + signBit c else x

/-! ## Exact values -/

/-- An exact value: a number (-1)^neg · m · 2^e, with `st` when the magnitude lies strictly between m and m + 1 units
of 2^e; an infinity; or a NaN. -/
inductive Exact where
  | nan
  | inf (neg : Bool)
  | num (neg : Bool) (m : Nat) (e : Int) (st : Bool)
  deriving DecidableEq, Repr

/-- An integer as an exact value. -/
def Exact.ofInt (i : Int) : Exact := .num (decide (i < 0)) i.natAbs 0 false

/-- The value is a NaN. -/
def Exact.isNan : Exact → Bool
  | .nan => true
  | _ => false

/-- The value is zero. -/
def Exact.isZero : Exact → Bool
  | .num _ m _ st => m = 0 && !st
  | _ => false

/-- The sign. -/
def Exact.neg : Exact → Bool
  | .nan => false
  | .inf n => n
  | .num n _ _ _ => n

/-- The value with its sign changed. -/
def Exact.negate : Exact → Exact
  | .nan => .nan
  | .inf n => .inf (!n)
  | .num n m e st => .num (!n) m e st

/-- The value without its sign. -/
def Exact.abs : Exact → Exact
  | .nan => .nan
  | .inf _ => .inf false
  | .num _ m e st => .num false m e st

/-- The value times 2^s (R60). -/
def Exact.scale (s : Int) : Exact → Exact
  | .num n m e st => .num n m (e + s) st
  | x => x

/-- A signed pattern of `w` bits (R64). -/
def signedOf (w x : Nat) : Int := if x < 2 ^ (w - 1) then (x : Int) else (x : Int) - (2 ^ w : Nat)

/-- The low `w` bits of an integer. -/
def wrapBits (w : Nat) (i : Int) : Nat := (i % (2 ^ w : Nat)).toNat

/-- A floating pattern's value; FTZI reads a subnormal as zero (R67, R72). -/
def floatVal (ftzi : Bool) (c x : Nat) : Exact :=
  let neg := decide (signBit c ≤ x % 2 ^ fmtBits c)
  let mag := x % signBit c
  let fbits := fmtP c - 1
  let ef := mag / 2 ^ fbits
  let fr := mag % 2 ^ fbits
  if ef = 2 ^ fmtEbits c - 1 then (if fr = 0 then .inf neg else .nan)
  else if ef = 0 then (if ftzi then .num neg 0 0 false else .num neg fr (fmtEmin c - fbits) false)
  else .num neg (fr + 2 ^ fbits) (fmtEmin c - fbits + (ef - 1 : Nat)) false

/-- The value of an element of an integer or floating format. -/
def readExact (r : Rnd) (c x : Nat) : Exact :=
  match fmtClass c with
  | .int true => .ofInt (signedOf (fmtBits c) (x % 2 ^ fmtBits c))
  | .float => floatVal r.ftzi c x
  | _ => .ofInt (x % 2 ^ fmtBits c : Nat)

/-! ## RoundInt and RoundFloat -/

/-- RoundInt of R70: the magnitude m · 2^e as a multiple of 2^q, and whether the rounding was inexact. -/
def roundTo (rm : Nat) (neg : Bool) (m : Nat) (e : Int) (st : Bool) (q : Int) : Nat × Bool :=
  if q ≤ e then (m * 2 ^ (e - q).toNat, st)
  else
    let s := (q - e).toNat
    let k := m >>> s
    let r := m % 2 ^ s
    let half := 2 ^ (s - 1)
    let inexact := r != 0 || st
    let up := match rm with
      | 0 => half < r || (r = half && (st || k % 2 = 1))
      | 2 => neg && inexact
      | 3 => !neg && inexact
      | _ => false
    (if up then k + 1 else k, inexact)

/-- The largest finite pattern of a floating format (R67). -/
def maxFinite (c : Nat) : Nat := infBits c - 1

/-- OverflowValue (R70). -/
def overflowBits (r : Rnd) (c : Nat) (neg : Bool) : Nat :=
  if r.sat || r.rm = 1 || (r.rm = 2 && !neg) || (r.rm = 3 && neg) then withSign c neg (maxFinite c)
  else withSign c neg (infBits c)

/-- RoundFloat (R70), on a magnitude m · 2^e that is not zero. -/
def roundFloatNum (r : Rnd) (c : Nat) (neg : Bool) (m : Nat) (e : Int) (st : Bool) : Nat × Flags :=
  let p : Int := fmtP c
  let el : Int := e + (Nat.log2 m : Nat)
  let yu := (roundTo r.rm neg m e st (el - p + 1)).1
  if fmtEmax c < el || (el = fmtEmax c && yu = 2 ^ fmtP c) then (overflowBits r c neg, fOF ||| fNX)
  else
    let tiny := decide (el < fmtEmin c) && !(decide (el = fmtEmin c - 1) && yu = 2 ^ fmtP c)
    let q := max el (fmtEmin c) - p + 1
    let z := roundTo r.rm neg m e st q
    if tiny && r.ftzo then (withSign c neg 0, fUF ||| fNX)
    else
      let off := (q - (fmtEmin c - p + 1)).toNat
      (withSign c neg (off * 2 ^ (fmtP c - 1) + z.1), flagIf z.2 (fNX ||| flagIf tiny fUF))

/-- A floating result made from its exact value (R69, R70). -/
def toFloat (r : Rnd) (c : Nat) : Exact → Nat × Flags
  | .nan => (nanBits c, 0)
  | .inf neg => (withSign c neg (infBits c), 0)
  | .num neg m e st => if m = 0 && !st then (withSign c neg 0, 0) else roundFloatNum r c neg m e st

/-- Range of an integer format (R64). -/
def intMin (c : Nat) : Int := match fmtClass c with | .int true => -(2 ^ (fmtBits c - 1) : Nat) | _ => 0
/-- Range of an integer format (R64). -/
def intMax (c : Nat) : Int :=
  match fmtClass c with
  | .int true => (2 ^ (fmtBits c - 1) : Nat) - 1
  | _ => (2 ^ fmtBits c : Nat) - 1

/-- RoundInt to an integer under RM: the integer and whether it is inexact. -/
def toIntRound (r : Rnd) (neg : Bool) (m : Nat) (e : Int) (st : Bool) : Int × Bool :=
  let k := roundTo r.rm neg m e st 0
  (if neg then -(k.1 : Int) else k.1, k.2)

/-- An integer result wrapped or clamped into format `c` (R65). -/
def wrapOrClamp (r : Rnd) (c : Nat) (i : Int) : Nat × Flags :=
  if intMin c ≤ i && i ≤ intMax c then (wrapBits (fmtBits c) i, 0)
  else if r.sat then (wrapBits (fmtBits c) (if i < intMin c then intMin c else intMax c), fOF)
  else (wrapBits (fmtBits c) i, fOF)

/-- An integer result made from its exact value, already scaled (R65). -/
def toInt (r : Rnd) (c : Nat) : Exact → Nat × Flags
  | .num neg m e st =>
    let i := toIntRound r neg m e st
    let x := wrapOrClamp r c i.1
    (x.1, x.2 ||| flagIf i.2 fNX)
  | _ => (0, 0)

/-- Finish (R151): the exact value, already scaled, made into an integer or floating format with one rounding. -/
def finishExact (r : Rnd) (c : Nat) (x : Exact) : Nat × Flags :=
  match fmtClass c with
  | .float => toFloat r c x
  | _ => toInt r c x

/-- The pattern of a value that the format holds exactly: nothing is rounded or flushed, and no flag is raised. -/
def exactBits (c : Nat) (x : Exact) : Nat := (finishExact ⟨0, false, false, false⟩ c x).1

/-! ## Exact arithmetic (R68, R69) -/

/-- A signed multiple of a power of two as an exact value; an exact zero has the sign `zneg`. -/
def Exact.ofSigned (zneg : Bool) (i : Int) (e : Int) : Exact :=
  if i = 0 then .num zneg 0 0 false else .num (decide (i < 0)) i.natAbs e false

/-- The signed numerator at exponent `q`, for q at most e. -/
def signedAt (neg : Bool) (m : Nat) (e q : Int) : Int :=
  let k : Int := (m * 2 ^ (e - q).toNat : Nat)
  if neg then -k else k

/-- The exact sum. An exact zero is +0, or −0 under RDN, unless both operands are zeros of one sign. -/
def exAdd (r : Rnd) : Exact → Exact → Exact × Flags
  | .nan, _ => (.nan, 0)
  | _, .nan => (.nan, 0)
  | .inf a, .inf b => if a = b then (.inf a, 0) else (.nan, fNV)
  | .inf a, .num .. => (.inf a, 0)
  | .num .., .inf b => (.inf b, 0)
  | .num na ma ea _, .num nb mb eb _ =>
    if ma = 0 && mb = 0 then (.num (if na = nb then na else r.rm = 2) 0 0 false, 0)
    else if ma = 0 then (.num nb mb eb false, 0)
    else if mb = 0 then (.num na ma ea false, 0)
    else
      let q := min ea eb
      (.ofSigned (r.rm = 2) (signedAt na ma ea q + signedAt nb mb eb q) q, 0)

/-- The exact product. -/
def exMul : Exact → Exact → Exact × Flags
  | .nan, _ => (.nan, 0)
  | _, .nan => (.nan, 0)
  | .inf a, .inf b => (.inf (a != b), 0)
  | .inf a, .num b m _ _ => if m = 0 then (.nan, fNV) else (.inf (a != b), 0)
  | .num a m _ _, .inf b => if m = 0 then (.nan, fNV) else (.inf (a != b), 0)
  | .num na ma ea _, .num nb mb eb _ => (.num (na != nb) (ma * mb) (ea + eb) false, 0)

/-- a · b + c with one rounding to follow; 0 · ∞ raises NV even when c is a NaN (R98, R155). -/
def exFma (r : Rnd) (a b c : Exact) : Exact × Flags :=
  let p := exMul a b
  let s := exAdd r p.1 c
  (s.1, p.2 ||| s.2)

/-- The quotient of floating values to 64 fraction bits, and a sticky bit (R155). -/
def exDiv : Exact → Exact → Exact × Flags
  | .nan, _ => (.nan, 0)
  | _, .nan => (.nan, 0)
  | .inf _, .inf _ => (.nan, fNV)
  | .inf a, .num b .. => (.inf (a != b), 0)
  | .num a .., .inf b => (.num (a != b) 0 0 false, 0)
  | .num na ma ea _, .num nb mb eb _ =>
    if mb = 0 then (if ma = 0 then (.nan, fNV) else (.inf (na != nb), fDZ))
    else if ma = 0 then (.num (na != nb) 0 0 false, 0)
    else
      let n := ma * 2 ^ 64
      (.num (na != nb) (n / mb) (ea - eb - 64) (n % mb != 0), 0)

/-- The integer square root, one bit for each unit of fuel from the high bit down. -/
def isqrtFrom : Nat → Nat → Nat → Nat
  | 0, _, r => r
  | k + 1, n, r => isqrtFrom k n (if (r + 2 ^ k) * (r + 2 ^ k) ≤ n then r + 2 ^ k else r)

/-- The square root of a floating value (R155). -/
def exSqrt : Exact → Exact × Flags
  | .nan => (.nan, 0)
  | .inf neg => if neg then (.nan, fNV) else (.inf false, 0)
  | .num neg m e _ =>
    if m = 0 then (.num neg 0 0 false, 0)
    else if neg then (.nan, fNV)
    else
      let odd := decide (e % 2 = 1)
      let n := (if odd then 2 * m else m) * 2 ^ 64
      let r := isqrtFrom 48 n 0
      (.num false r ((if odd then e - 1 else e) / 2 - 32) (r * r != n), 0)

/-- ln 2 in units of 2^-400. -/
def ln2Fixed : Nat :=
  1789879222497203190815761498240779176894896805856420935579692301363062920687047601279850318367644315849030039181347319086

/-- The terms of the exponential series of y (in units of 2^-400) from term k on, given term k - 1. -/
def expSeries : Nat → Nat → Nat → Nat → Nat
  | 0, _, _, _ => 0
  | n + 1, k, y, t =>
    let t' := t * y / 2 ^ 400 / k
    t' + expSeries n (k + 1) y t'

/-- 2^f in units of 2^-400, for f in units of 2^-400 below one. -/
def exp2Fixed (f : Nat) : Nat := 2 ^ 400 + expSeries 100 1 (f * ln2Fixed / 2 ^ 400) (2 ^ 400)

/-- 2^a (R155): exact for an integer a; otherwise from 400 fraction bits, which the rounding then narrows (log entry
15). -/
def exExp2 : Exact → Exact × Flags
  | .nan => (.nan, 0)
  | .inf neg => (if neg then .num false 0 0 false else .inf false, 0)
  | .num neg m e _ =>
    if m = 0 then (.num false 1 0 false, 0)
    else if 11 ≤ e + (Nat.log2 m : Nat) then
      (.num false 1 (if neg then -3000 else 3000) false, 0)
    else
      let i : Int := signedAt neg m (e + 400) 0
      let n := i / (2 ^ 400 : Nat)
      let f := (i % (2 ^ 400 : Nat)).toNat
      if f = 0 then (.num false 1 n false, 0)
      else (.num false (exp2Fixed f) (n - 400) true, 0)

/-- a < b for numbers and infinities, with −0 below +0 (R73). -/
def exLtTotal : Exact → Exact → Bool
  | .inf a, .inf b => a && !b
  | .inf a, .num .. => a
  | .num .., .inf b => !b
  | .num na ma ea _, .num nb mb eb _ =>
    let q := min ea eb
    let x := signedAt na ma ea q
    let y := signedAt nb mb eb q
    decide (x < y) || (x = 0 && y = 0 && na && !nb)
  | _, _ => false

/-- a = b as values: zeros of both signs are equal. -/
def exEq : Exact → Exact → Bool
  | .inf a, .inf b => a = b
  | .num na ma ea _, .num nb mb eb _ =>
    let q := min ea eb
    signedAt na ma ea q = signedAt nb mb eb q
  | _, _ => false

/-- a < b as values. -/
def exLt (a b : Exact) : Bool := exLtTotal a b && !exEq a b

/-- minimumNumber and maximumNumber (R73). -/
def exMin (a b : Exact) : Exact :=
  if a.isNan then b else if b.isNan then a else if exLtTotal b a then b else a
/-- minimumNumber and maximumNumber (R73). -/
def exMax (a b : Exact) : Exact :=
  if a.isNan then b else if b.isNan then a else if exLtTotal a b then b else a

/-! ## Conditions (R26) -/

/-- The condition on integers, given their signed or unsigned values and their bits. -/
def condInts (cond : Nat) (a b : Int) (ua ub : Nat) : Bool :=
  match cond with
  | 0 => a = b
  | 1 => a ≠ b
  | 2 => decide (a < b)
  | 3 => decide (a ≤ b)
  | 4 => decide (b < a)
  | 5 => decide (b ≤ a)
  | 6 => decide (ua < ub)
  | 7 => decide (ua ≤ ub)
  | 8 => decide (ub < ua)
  | 9 => decide (ub ≤ ua)
  | _ => false

/-- The condition on floating values, and NV for an ordered comparison with a NaN (R69). -/
def condFloats (cond : Nat) (a b : Exact) : Bool × Flags :=
  let un := a.isNan || b.isNan
  match cond with
  | 0 => (!un && exEq a b, 0)
  | 1 => (un || !exEq a b, 0)
  | 2 => (!un && exLt a b, flagIf un fNV)
  | 3 => (!un && (exLt a b || exEq a b), flagIf un fNV)
  | 4 => (!un && exLt b a, flagIf un fNV)
  | 5 => (!un && (exLt b a || exEq a b), flagIf un fNV)
  | 10 => (un, 0)
  | 11 => (!un, 0)
  | _ => (false, 0)

/-- A floating value made an integer between two bounds (R74): clamped with NV outside them, 0 with NV for a NaN. A
rounding that discards bits raises NX whether or not the integer is then clamped (log entry 65). -/
def floatToInt (r : Rnd) (lo hi : Int) : Exact → Int × Flags
  | .nan => (0, fNV)
  | .inf neg => (if neg then lo else hi, fNV)
  | .num neg m e st =>
    let i := toIntRound r neg m e st
    let nx := flagIf i.2 fNX
    if i.1 < lo then (lo, fNV ||| nx) else if hi < i.1 then (hi, fNV ||| nx) else (i.1, nx)

/-! ## Residues (R76 to R83) -/

/-- The three canonical channels and UNSURE of an RNS32 word (R76, R77). -/
structure Rns where
  a : Nat
  b : Nat
  c : Nat
  unsure : Bool
  deriving DecidableEq, Repr

/-- A word's channels, reduced (R77). -/
def rnsOf (x : Nat) : Rns := ⟨x / 2 % 1024 % 1023, x / 2048 % 1024, x / 2097152 % 2048 % 1025, x % 2 = 1⟩

/-- The word of canonical channels (R76). -/
def Rns.word (r : Rns) : Nat := r.c * 2097152 + r.b * 2048 + r.a * 2 + (if r.unsure then 1 else 0)

/-- Channel arithmetic (R78). -/
def rnsAdd (x y : Rns) : Rns :=
  ⟨(x.a + y.a) % 1023, (x.b + y.b) % 1024, (x.c + y.c) % 1025, x.unsure || y.unsure⟩
/-- Channel arithmetic (R78). -/
def rnsSub (x y : Rns) : Rns :=
  ⟨(x.a + 1023 - y.a) % 1023, (x.b + 1024 - y.b) % 1024, (x.c + 1025 - y.c) % 1025, x.unsure || y.unsure⟩
/-- Channel arithmetic (R78). -/
def rnsMul (x y : Rns) : Rns :=
  ⟨x.a * y.a % 1023, x.b * y.b % 1024, x.c * y.c % 1025, x.unsure || y.unsure⟩
/-- Channel arithmetic (R78). -/
def rnsNeg (x : Rns) : Rns := ⟨(1023 - x.a) % 1023, (1024 - x.b) % 1024, (1025 - x.c) % 1025, x.unsure⟩

/-- An integer as residues (R79). -/
def rnsEnter (i : Int) : Rns := ⟨(i % 1023).toNat, (i % 1024).toNat, (i % 1025).toNat, false⟩

/-- Reconstruct (R81). -/
def reconstruct (x : Rns) : Int :=
  let d1 : Int := x.a
  let d2 : Int := ((x.b - d1) * 1023) % 1024
  let d3 : Int := ((((x.c - d1) * 512) % 1025 - d2) * 1024) % 1025
  let v := d1 + 1023 * d2 + 1047552 * d3
  if 536870400 ≤ v then v - 1073740800 else v

/-- An integer made RNS32: clamped into the signed range with NV and UNSURE (R74). -/
def rnsClamp (i : Int) : Rns × Flags :=
  if i < -536870400 then ({ rnsEnter (-536870400) with unsure := true }, fNV)
  else if 536870399 < i then ({ rnsEnter 536870399 with unsure := true }, fNV)
  else (rnsEnter i, 0)

/-! ## Ticks (R84 to R88) -/

/-- The tick limit Wt (R84). -/
def tickLimit (w : Nat) : Nat := min w 255

/-- A byte as a tick, or none for never-rises (R84). -/
def tickOf (w x : Nat) : Option Nat := if x % 256 < tickLimit w then some (x % 256) else none

/-- The canonical byte (R84). -/
def tickByte : Option Nat → Nat
  | some t => t
  | none => 255

/-- Addition of ticks (R85). -/
def tickAdd (w : Nat) : Option Nat → Option Nat → Option Nat
  | some a, some b => if a + b < tickLimit w then some (a + b) else none
  | _, _ => none

/-- The order of ticks, NR above every tick (R85). -/
def tickMin : Option Nat → Option Nat → Option Nat
  | some a, some b => some (min a b)
  | some a, none => some a
  | none, b => b
/-- The order of ticks, NR above every tick (R85). -/
def tickMax : Option Nat → Option Nat → Option Nat
  | some a, some b => some (max a b)
  | _, _ => none

/-- The canonical pattern of an element of a format that has one (R77, R84); other patterns stand as they are. -/
def canonElem (w c x : Nat) : Nat :=
  match fmtClass c with
  | .rns => (rnsOf x).word
  | .tick => tickByte (tickOf w x)
  | _ => x

/-- A number, already scaled, made a tick (R87). -/
def toTick (r : Rnd) (w : Nat) (desc : Bool) : Exact → Nat × Flags
  | .nan => (255, fNV)
  | .inf neg => if neg != desc then (0, fOF) else (255, 0)
  | .num neg m e st =>
    let u := toIntRound r neg m e st
    let t : Int := if desc then (w : Int) - 1 - u.1 else u.1
    if (tickLimit w : Int) ≤ t then (255, flagIf u.2 fNX)
    else if t < 0 then (0, fOF ||| flagIf u.2 fNX)
    else (t.toNat, flagIf u.2 fNX)

end Sys2Proof.Machine
end

