-- ==== Sys2Proof/Machine/Parts.lean ====
section
/-! DEFINITION. The parts of the machine that State holds: harts, lanes, cores, engines, translation units, launches,
queues. Every part is plain data. -/

namespace Sys2Proof.Machine

/-! ## Traps -/

/-- The causes of R133. -/
inductive Cause where
  | ill
  | hdr
  | page
  | prot
  | lease
  | uninit
  | empty
  | loopovf
  | stkflt
  | retempty
  | range
  | mchk
  | brk
  | trapi
  | peerdn
  | seal
  | atomhost
  deriving DecidableEq, Repr

/-- What faults: a cause, the access's kind (R133) and the value for TVAL. `abort` marks a fault that ends a rerunnable
BUFFERED task without a trap (R188, R190, R341). -/
structure AccFault where
  cause : Cause
  kind : Nat
  val : Word
  abort : Bool := false
  /-- the error is in a register slice, a tile or a task, not in memory (R382) -/
  inPlane : Bool := false
  /-- the walk of `val` has succeeded (R266), and the address from which earlier accesses of the same run have been made -/
  walked : Bool := false
  first : Option Word := none
  deriving DecidableEq, Repr

/-- The fault of a later access of a run that began at an address. -/
def AccFault.after (f : AccFault) (a : Word) : AccFault := { f with first := some a }

/-- A trap as R132 takes it: the fault, where TEPC and TBLK point, and the lane and done-mask of R261. -/
structure Trap where
  fault : AccFault
  epc : Word
  blk : Word
  lane : Nat := 16
  done : BitVec 2048 := 0
  /-- the trap keeps the append-resume record that its word has just made (R205) -/
  append : Bool := false
  /-- RETT has made it as it resumed: the block that the trap before it interrupted stays the one interrupted (R38, R39) -/
  resumed : Bool := false
  deriving DecidableEq, Repr

/-! ## The hart -/

/-- One lane slice of a vector register (R144, R148, R186): a wide register's slice has 1024 bits, a normal register's
slice is the low 256 of them. -/
structure Slice where
  bits : BitVec 1024 := 0
  full : Bool := true
  taint : Bool := false
  /-- 32-bit words of the slice that hold an uncorrectable error (R382) -/
  poison : BitVec 32 := 0
  deriving DecidableEq, Repr

/-- The register plane (R144): slices keyed by 16 times the register number plus the lane, and masks M1 to M7. -/
structure Vec where
  v : Table Slice := []
  m : Table (BitVec 2048) := []
  deriving DecidableEq, Repr

/-- The set-length grant (R141). -/
structure Grant where
  vtype : BitVec 32 := 2
  vl : Nat := 0
  deriving DecidableEq, Repr

/-- One entry of the loop stack (R117). -/
structure LoopEntry where
  idx : Word
  cnt : Word
  hdr : Word
  deriving DecidableEq, Repr

/-- One entry of the mask stack (R114). -/
structure MaskEntry where
  bits : BitVec 2048
  msel : MReg
  rc : Word
  deriving DecidableEq, Repr

/-- One entry of the deferral queue (R200): its count and its values. -/
structure DeferEntry where
  vals : List Word
  deriving DecidableEq, Repr

/-- What the sequencer holds and may undo (R250): the place in the program and the state that words ahead of the retire
point change. -/
structure Seq where
  /-- the address of the word at the dispatch point, or of the header about to be consumed -/
  pc : Word := 0
  /-- the header at `pc` is about to be consumed -/
  arriving : Bool := true
  /-- the hart stands at a loop-iteration boundary (R119) -/
  boundary : Bool := false
  /-- the header of the present block and its fields (R28) -/
  blk : Word := 0
  len : Nat := 0
  vhw : Nat := 0
  shw : Nat := 0
  reconv : BitVec 16 := 0
  /-- scalar registers S1 to S31 and their taint bits (R94, R95) -/
  s : Table Word := []
  sTaint : BitVec 32 := 0
  /-- results that scalar registers await (R94): the register, the token of the instruction that will produce the result,
  and whether a younger instruction has written the register meanwhile (log entry 30) -/
  late : List (Nat × Nat × Bool) := []
  /-- registers that the block has not written since its header made them dead (R31) -/
  deadS : BitVec 32 := 0
  deadV : BitVec 64 := 0
  /-- the loop stack, I0 first (R117) -/
  loops : List LoopEntry := []
  /-- the return store, newest first, and RSPILL (R110) -/
  rets : List Word := []
  rspill : Nat := 0
  /-- the mask stack, newest first, and MSPILL (R114) -/
  masks : List MaskEntry := []
  mspill : Nat := 0
  /-- F0 to F7 (R56) -/
  f : Table (BitVec 32) := []
  /-- TWINDOW (R84) -/
  twindow : Nat := 256
  /-- a write of the grant that the retire point has not passed (R251) -/
  ownGrant : Option Grant := none
  deriving DecidableEq, Repr

/-- How element addresses are formed (R181). -/
inductive Addressing where
  | unit
  | strided
  | indexed (vi : VOp) (scaled : Bool)
  deriving DecidableEq, Repr

/-- What an element access of a vector memory instruction does (R181, R193, R196). -/
inductive MemKind where
  | load (sx taint : Bool)
  | store
  | atomic (op : AmoOp) (posted : Bool)
  | prefetch (l2only : Bool)
  deriving DecidableEq, Repr

/-- The element-wise arithmetic of MAJ 21 (R152). -/
inductive Arith where
  | add | sub | mul | fma | fms | fnma | min | max | abs | neg | div | sqrt | exp2
  | and | or | xor | not | shl | shr | cvt | scale | clamp
  deriving DecidableEq, Repr

/-- The logic of VMAND, VMOR, VMXOR and VMNOT (R164). -/
inductive MaskLogic where
  | and | or | xor | not
  deriving DecidableEq, Repr

/-- The reductions of MAJ 23 (R168). -/
inductive Red where
  | sum | max | min
  deriving DecidableEq, Repr

/-- The work of a lane instruction, with the scalar operands that it read at dispatch (R180, R249). -/
inductive Job where
  | arith (op : Arith) (vd va vb vc : VOp)
  | cmp (cond : BitVec 4) (md : MReg) (va vb : VOp)
  | sel (vd va vb : VOp) (mk : MReg)
  | mov (vd va : VOp)
  | movMask (md ma : MReg)
  | movFromMask (vd : VOp) (ma : MReg)
  | movToMask (md : MReg) (va : VOp)
  | splat (vd : VOp) (x : Word)
  | setMask (md : MReg) (bits : BitVec 2048)
  | iota (vd : VOp) (ma : MReg)
  | popm (sd : SReg) (ma : MReg)
  | first (sd : SReg) (ma : MReg)
  | maskLogic (op : MaskLogic) (md ma mb : MReg)
  | extr (sd : SReg) (va : VOp) (x : Nat) (signed : Bool)
  | ins (vd : VOp) (val : Word) (x : Nat)
  | perm (vd va vb : VOp)
  | slide (up : Bool) (vd va : VOp) (n : Nat)
  | red (op : Red) (vd va vb : VOp)
  | scan (vd va vb : VOp)
  | compress (vd va : VOp)
  | vfe (full : Bool) (first n : Nat)
  | vfeTest (md : MReg) (reg : Nat)
  | mem (k : MemKind) (addr : Addressing) (vt : VOp) (mw : Nat) (base stride : Word)
  | spill (first n : Nat) (pol : Bool) (frame : Word)
  | fill (first n : Nat) (frame : Word)
  | append (vt : VOp) (sd : SReg) (mw : Nat) (base tail : Word)
  | defer (k : Nat) (md : MReg) (first : Nat) (pol : Bool) (sc : SReg)
  | drain (k first : Nat) (sc : SReg)
  | dqCount (sc : SReg)
  | dqFree (sc : SReg)
  | dqClear (sc : SReg)
  /-- a query of VLQ, or a VMODE that changes nothing: what it gives was known at dispatch (R142, R143, R248) -/
  | query (sd : SReg) (x : Word)
  deriving DecidableEq, Repr

/-- The append-resume record (R205): the place the tail add gave, the elements that were active, and the word. -/
structure AppendResume where
  t : Word
  set : BitVec 2048
  addr : Word
  deriving DecidableEq, Repr

/-- A lane instruction as it is broadcast (R249): its work and what it read at dispatch. -/
structure LaneInstr where
  job : Job
  addr : Word
  blk : Word
  word : Word
  vl : Nat
  vtype : BitVec 32
  fmt : BitVec 32
  mask : MReg
  window : Nat
  /-- the OR of the taint bits of its scalar operands (R186), and whether its addresses are tainted (R187) -/
  taint : Bool
  strm : BitVec 3
  /-- elements that a resumption skips (R191) -/
  skip : BitVec 2048
  /-- the append-resume record under which it resumes (R205) -/
  resume : Option AppendResume
  /-- dead registers that read as zero in it, and all dead registers (R31) -/
  deadZero : BitVec 64
  dead : BitVec 64
  deriving DecidableEq, Repr

/-- One change that a lane instruction makes to the register plane. -/
inductive VWrite where
  /-- element `e` of register `reg` at `8 * bytes` bits -/
  | elem (reg e bytes : Nat) (val : Nat) (taint : Bool)
  | maskBit (m e : Nat) (b : Bool)
  | fullBit (reg lane : Nat) (b : Bool)
  /-- a slice that a delivery has written: full, and its taint clear (R253) -/
  | fresh (reg lane : Nat)
  /-- every bit of mask register `m` -/
  | mask (m : Nat) (bits : BitVec 2048)
  deriving DecidableEq, Repr

/-- Where an access is performed (R312). -/
inductive Place where
  | pool (core off : Nat)
  | dev (pa : Nat)
  | host (a : Nat)
  | peer (win : Nat) (a : Nat)
  | cap (off : Nat)
  | map (off : Nat)
  | status (stack off : Nat)
  deriving DecidableEq, Repr

/-- A store-class element that a lane holds until the retire point (R185), with its address and its operands. -/
structure HeldStore where
  e : Nat
  addr : Word
  val : Nat
  val2 : Nat
  deriving DecidableEq, Repr

/-- What an entry of a warning ring says (R175, R239, R243). -/
inductive Warning where
  | uninit (a : Word)
  | remote (core bar : Nat)
  | parked (eng slot : Nat)
  deriving DecidableEq, Repr

/-- How far one lane has taken one lane instruction (R254, R256, R258, R260). -/
inductive LaneStage where
  /-- in the lane's queue -/
  | queued
  /-- issued, with element requests outstanding -/
  | issued
  /-- arrived at the rendezvous (R258) -/
  | arrived
  | finished
  | faulted (f : AccFault)
  deriving DecidableEq, Repr

/-- One lane's part of an instruction in flight: its result buffer entry (R252). -/
structure LaneRec where
  stage : LaneStage := .queued
  /-- active elements still to be accessed, and how many of them, from the first, have their request outstanding (R301) -/
  todo : List Nat := []
  sent : Nat := 0
  writes : List VWrite := []
  flags : BitVec 32 := 0
  held : List HeldStore := []
  done : BitVec 2048 := 0
  /-- entries for the warning ring that its loads make when the instruction retires (R175, R185) -/
  warns : List (Nat × Warning) := []
  deriving DecidableEq, Repr

/-- Where a command in a slot has got to. -/
inductive Stage where
  /-- parked by Q (R207) -/
  | parked
  /-- started, its descriptors still to be read (R215) -/
  | desc
  /-- waiting for the slew limiter to let it start (R302) -/
  | starting
  /-- doing its element accesses -/
  | run
  /-- in its k-steps (R283) -/
  | kstep
  /-- waiting for the limiter to let it stop (R282), with the fault that stopped it -/
  | stopping (f : Option AccFault)
  /-- a wave is racing (R349) -/
  | wave
  /-- all done but the arrival -/
  | done
  /-- stopped by a fault: the arrival will be an error arrival (R210) -/
  | failed (f : AccFault) (detail : Nat)
  /-- stopped by a cut, its record to travel in the context image (R291) -/
  | kept
  deriving DecidableEq, Repr

/-- The scale and zero point of one group of a Q4 operand, as read when the first element of the group was fetched (R287):
operand A or B, the row and the group. -/
structure QGroup where
  isB : Bool
  row : Nat
  group : Nat
  scale : Nat
  zero : Nat
  deriving DecidableEq, Repr

/-- A command in an engine slot: the word and the operands it read at dispatch (R206, R207), and its progress. -/
structure Command where
  instr : Instr
  va : Word
  vb : Word
  vc : Word
  fmt : BitVec 32
  vtype : BitVec 32
  vl : Nat
  window : Nat
  /-- the hart slot that issued it, its level and its context -/
  hart : Nat
  handler : Bool
  asid : BitVec 16
  ptroot : Word
  stage : Stage
  /-- the descriptors as read -/
  descA : List Byte := []
  descB : List Byte := []
  /-- the next element, row or k-step -/
  pos : Nat := 0
  /-- a value carried between elements, and its bytes -/
  carry : List Byte := []
  /-- column quarters that it asked the slew limiter to start (R302) -/
  quarters : Nat := 0
  /-- filler k-steps run so far (R283) -/
  filler : Nat := 0
  /-- it has begun its first pass in this run (R291) -/
  begun : Bool := false
  /-- a cut has asked it to stop (R291) -/
  cut : Bool := false
  /-- the token of its scalar result -/
  tok : Nat := 0
  /-- its result is undefined (R230): the counter that its free values are applied to -/
  free : Option Nat := none
  /-- the error record of the fire or pending bit that started it (R241, R295): FCODE and FADDR -/
  err : Option (BitVec 16 × Word) := none
  /-- the groups of its Q4 operands that have been read (R287) -/
  groups : List QGroup := []
  /-- a follow-on command (R232) -/
  follow : Bool := false
  /-- the word of the record that it came with, as it was read (R327) -/
  raw : Option Word := none
  deriving DecidableEq, Repr

/-- A follow-on command whose copy has completed (R232, R293): its record, and the hart that issued the copy. -/
structure Follow where
  bytes : List Byte
  hart : Nat
  handler : Bool
  asid : BitVec 16
  ptroot : Word
  deriving DecidableEq, Repr

/-- A scalar load ahead of the retire point that has not been bound (R101, R250). -/
structure LateLoad where
  sd : SReg
  addr : Word
  bytes : Nat
  signed : Bool
  taint : Bool
  strm : BitVec 3
  deriving DecidableEq, Repr

/-- The bytes of an access that a word in flight has still to make: the lane (16 the scalar lane, 17 none), the stream, the
first byte and their number (R184). -/
structure Touch where
  lane : Nat
  strm : BitVec 3
  addr : Word
  bytes : Nat
  deriving DecidableEq, Repr

/-- A word in flight that orders younger accesses after older ones (R124, R125, R317): a FENCE of kind FULL at a scope, one of
kind ACQ, an SBAR with its streams, or a BTEST, which may be an acquire. -/
inductive Order where
  | full (scope : Nat)
  | acq
  | sbar (mask : BitVec 8)
  | test
  deriving DecidableEq, Repr

/-- A word between the retire point and the dispatch point (R250, R257). -/
structure InFlight where
  /-- the lane instruction, or none for a word that the sequencer has executed -/
  li : Option LaneInstr
  /-- the lane sequence number (R248) -/
  num : BitVec 16 := 0
  lanes : List LaneRec := []
  /-- the rendezvous has completed (R258) -/
  met : Bool := false
  /-- the sequencer's state as it stood before this word -/
  before : Seq
  /-- a scalar load that has not been bound -/
  load : Option LateLoad := none
  /-- a word that the scalar lane's result buffer holds for the retire point, and the register of its late result (R250) -/
  held : Option (Instr × SReg) := none
  /-- the bytes that it will access there -/
  touch : Option Touch := none
  /-- a spill access that it makes there: the address and the bytes (R111, R250) -/
  spill : Option (Word × List Byte) := none
  /-- it is the mask restore of a header, and no word (R116) -/
  header : Bool := false
  /-- entries that it makes in the warning ring when it retires -/
  warns : List (Nat × Warning) := []
  /-- the flags that the word raised, held until it retires (R252) -/
  flags : BitVec 32 := 0
  /-- the grant that it writes, published when it retires (R251) -/
  publish : Option Grant := none
  /-- an engine command that is issued when the retire point reaches it (R206); to the lanes, a marker (R253) -/
  cmd : Option Command := none
  /-- the token of its late result -/
  tok : Nat := 0
  /-- its results are undefined, because another member of the gang has changed the mode (R143): the key that its free values
  are applied to (log entry 9) -/
  undef : Option Nat := none
  /-- how it orders the accesses of younger words -/
  order : Option Order := none
  deriving DecidableEq, Repr

/-- A posted atomic in the commit queue of a BUFFERED task (R106, R195). -/
structure QueuedAtomic where
  addr : Word
  bytes : Nat
  op : AmoOp
  val : Nat
  handler : Bool
  deriving DecidableEq, Repr

/-- What a hart waits for (R305, R306). -/
inductive Wait where
  /-- WFE (R127): the barriers, how many phases each had completed when the wait began, the deadline, and the destination with its
  taint -/
  | wfe (mask : Word) (phases : List Nat) (deadline : Option Nat) (sd : SReg) (taint : Bool)
  | gbar
  | bwait (bar : Nat) (parity : Bool)
  | slot (eng n : Nat)
  /-- a scalar register whose value an engine or a lane has not yet delivered (R94) -/
  | reg
  /-- a lane, a held access or the retire point: no documented wait -/
  | lanes
  | taskend
  | rett
  deriving DecidableEq, Repr

/-- Whether a hart runs. -/
inductive HartStatus where
  /-- no member of a gang -/
  | idle
  | running
  /-- has executed TASKEND (R243) -/
  | finished
  /-- stopped at a loop-iteration boundary under CUT (R263) -/
  | cut
  /-- stopped by a debug session (R411) -/
  | halted
  deriving DecidableEq, Repr

/-- A destination register of a follow-on MCONV.V (R232): its command's slot and barrier, the phases that the barrier had completed
before the command's arrival once that has been made, and whether the hart has used the register without acquiring that arrival. -/
structure Foreign where
  reg : Nat
  key : Nat
  bar : Nat
  phase : Option Nat := none
  touched : Bool := false
  deriving DecidableEq, Repr

/-- One hart (R94, R137). -/
structure Hart where
  status : HartStatus := .idle
  seq : Seq := {}
  vec : Vec := {}
  /-- VFLAGS (R62) -/
  vflags : BitVec 32 := 0
  tcause : Word := 0
  tepc : Word := 0
  tblk : Word := 0
  tval : Word := 0
  tlane : Nat := 16
  tdone : BitVec 2048 := 0
  tvec : Word := 0
  tstat : Word := 0
  tscr : Word := 0
  /-- the level: handler (R132) -/
  handler : Bool := false
  partw : BitVec 32 := 0x2002
  taskid : Word := 0
  corr : BitVec 32 := 0
  heatcl : BitVec 2 := 0
  asid : BitVec 16 := 0
  ptroot : Word := 0
  rspbase : Word := 0
  wcount : Word := 0
  defer : List DeferEntry := []
  appendResume : Option AppendResume := none
  /-- the elements that the word at `pc` skips, after RETT resumed at it (R191) -/
  skip : BitVec 2048 := 0
  /-- the append-resume record in force for the word at `pc` -/
  resume : Option AppendResume := none
  commitQ : List QueuedAtomic := []
  /-- the address that the last trap put into TEPC: a resumption there skips the elements of TDONE (R191) -/
  trapAt : Word := 0
  /-- the block that the last trap interrupted, with the registers that were dead in it (R31, R39) -/
  trapDead : Option (Word × BitVec 32 × BitVec 64) := none
  /-- for each scope of R25, when the hart last executed a FENCE of kind FULL at it or at a wider one, and when it last did so
  before a control transfer (R40) -/
  fenced : List Nat := [0, 0, 0, 0, 0, 0]
  synced : List Nat := [0, 0, 0, 0, 0, 0]
  /-- destination registers of follow-on commands whose arrival the hart has not acquired (R232) -/
  foreign : List Foreign := []
  /-- when the hart last ordered its earlier stores before its later commands: by a FENCE of kind REL or FULL, a GBAR or a word
  that releases or acquires at a barrier (R316, R317, log entry 75) -/
  released : Nat := 0
  /-- when its task was started or restored on the core -/
  began : Nat := 0
  /-- lane instructions go through the lane queues (log entry 7) -/
  slip : Bool := false
  window : List InFlight := []
  /-- the lane sequence counter (R248) -/
  laneSeq : BitVec 16 := 0
  /-- a fault that the sequencer has recorded and not yet taken (R260) -/
  recorded : Option Trap := none
  wait : Option Wait := none
  /-- lane issue gives way until this core cycle count has passed (R130) -/
  yield : Nat := 0
  /-- the reference time of the last retirement or hang report (R306) -/
  lastRetire : Nat := 0
  deriving DecidableEq, Repr

/-! ## The core -/

/-- The state word and fault address of a barrier (R236). -/
structure Barrier where
  fcode : BitVec 16 := 0
  err : Bool := false
  phase : Bool := false
  expect : Nat := 1
  arrived : Nat := 0
  faddr : Word := 0
  /-- the phases that it has passed: no state of the spec's, which tells one phase from the next (R240) -/
  epoch : Nat := 0
  deriving DecidableEq, Repr

/-- An accumulator tile (R219): elements keyed by 128 * row + column (default +0, or residues of 0), the tag, TB, and
the resume state RS of R288. -/
structure Tile where
  elems : Table (BitVec 32) := []
  rns : Bool := false
  tb : BitVec 32 := 0
  rstep : Nat := 0
  rk : Nat := 0
  rmode : Nat := 0
  rfmt : BitVec 32 := 0
  /-- elements that hold an uncorrectable error, keyed as the elements (R382) -/
  poison : Table Bool := []
  deriving DecidableEq, Repr

/-- The temporal array (R233 to R235): delays, enables, arrivals at rows, captured columns. -/
structure Temporal where
  /-- delay of cell (r, c), keyed 64 * r + c (default 255, open) -/
  d : Table Byte := []
  /-- row inputs (default 255, never rises) -/
  x : Table Byte := []
  ren : BitVec 64 := 0
  /-- column outputs (default 255) -/
  y : Table Byte := []
  deriving DecidableEq, Repr

/-- Where a task on a core has got to (R338 to R340, R326). -/
inductive TaskPhase where
  /-- staging input slots -/
  | staging
  /-- staged, waiting for lower iterations (R336) -/
  | ready
  | running
  /-- committing (R340) -/
  | commit
  /-- stage one of a cut: harts run to a boundary (R326) -/
  | cutting
  /-- stage two of a cut: engines stopped, image being written -/
  | imaging
  deriving DecidableEq, Repr

/-- The task that a core holds. -/
structure Task where
  launch : Nat
  n : Nat
  x : List Word
  record : Word
  gang : Nat
  buffered : Bool
  ppol : Nat
  phase : TaskPhase
  /-- the granules that the core held for it at readying, GT (R174) -/
  gt : Nat
  asid : BitVec 16
  ptroot : Word
  corr : BitVec 32
  partw : BitVec 32
  heat : BitVec 2
  /-- unrerunnable (R341) -/
  fixed : Bool := false
  /-- the outermost ORDER of which its iteration begins a new one (R344) -/
  lev : Nat := 6
  /-- pieces that its staging, or its commit, has moved so far (R338, R340) -/
  moved : Nat := 0
  /-- the core's barriers and temporal array as its harts started, and the arrivals from other cores since: barrier and count.
  An abort leaves the core with these alone (R322, R341) -/
  bars : Table Barrier := []
  temporal : Temporal := {}
  came : List (Nat × Nat) := []
  deriving DecidableEq, Repr

/-- The mode of an island (R299). -/
structure Island where
  /-- near-threshold clock -/
  near : Bool := false
  /-- when the mode change began that pauses the island for one reference period -/
  pause : Option Nat := none
  /-- the reference period of the last sample -/
  sampled : Option Nat := none
  /-- consecutive starved samples, up to 16, and consecutive samples that held ready work, up to 2 -/
  starved : Nat := 0
  held : Nat := 0
  /-- what answers a droop in progress (R300), and since when: the switch to the 1.0 V rail is closed, or the clock is
  stretched -/
  inject : Option Nat := none
  stretch : Option Nat := none
  /-- the first reference period of the present unbroken hold of its lanes, and that in which the hold ends at the latest (R307) -/
  since : Nat := 0
  until_ : Nat := 0
  /-- windows of 1 µs that have ended since the last injection, up to 16, and the number of the last one that is counted -/
  duty : Nat := 16
  window : Nat := 0
  deriving DecidableEq, Repr

/-- One core (R3, R4). -/
structure Core where
  /-- the complement of the FLAGS of its POOL record (R398): bit 0 absent, bit 1 no matrix, bit 2 no copy, bit 3 no
  temporal array -/
  lacks : BitVec 4 := 0
  /-- G and REGMAX of its POOL record (R398) -/
  live : Nat := 128
  regmax : Nat := 64
  /-- the gang's published grant (R141) -/
  grant : Grant := {}
  /-- bytes of the pool window, keyed by offset (R174), valid bits and poison marks of their 32-bit words (R175, R382) -/
  pool : Table Byte := []
  valid : Table Bool := []
  poolPoison : Table Bool := []
  /-- vestibule granules granted to its task from the north, east, south and west (R357 to R361) -/
  granted : List Nat := [0, 0, 0, 0]
  /-- directions whose grant a lender's reset has made void (R361) -/
  void : BitVec 4 := 0
  /-- granules that a neighbour's grant holds, by direction -/
  lent : List Nat := [0, 0, 0, 0]
  /-- of these, the granules lent since its present task was readied (R357) -/
  fresh : List Nat := [0, 0, 0, 0]
  tiles : Table Tile := []
  temporal : Temporal := {}
  bars : Table Barrier := []
  /-- BMASK (R327): the barriers that the task has named in an instruction, a command or a term -/
  used : Word := 0
  truss : Table Word := []
  /-- command slots keyed 16 * engine + slot: matrix, copy, temporal (R206) -/
  slots : Table (Option Command) := []
  /-- pending bits and their error records, keyed as the slots (R241) -/
  pending : Table (Option (Option (BitVec 16 × Word))) := []
  /-- started commands of the matrix engine and of the temporal array, oldest first (R208) -/
  morder : List Nat := []
  torder : List Nat := []
  /-- follow-on commands to be issued, oldest first (R293) -/
  follows : List Follow := []
  task : Option Task := none
  /-- reserved for a launch under COHORT (R280) -/
  reserved : Option Nat := none
  islands : Table Island := []
  /-- request caps of the lanes (R301) -/
  caps : Table Nat := []
  /-- for each lane and kind, slots in the order of their last issue, oldest first (R255) -/
  lastIssue : Table (List Nat) := []
  /-- counters of the series (R412), by their place in a sample, from 5 on -/
  counters : Table (BitVec 32) := []
  deriving DecidableEq, Repr

end Sys2Proof.Machine
end

