-- ==== Sys2Proof/Machine/State.lean ====
section
/-! DEFINITION. The state of the module, the state after reset, and the reasons a step can stop. -/

namespace Sys2Proof.Machine

/-- The last write of an 8-byte word of memory: the number of the step, counted from 1 (0: never), the agent that made it, what
the word held before, and the streams in which the agent has accessed it since, the write among them (R26, R40, R209, R316). -/
structure Written where
  at_ : Nat := 0
  agent : Nat := 0
  old : Nat := 0
  strms : BitVec 8 := 0
  deriving DecidableEq, Repr

/-- A translation that a unit caches (R270): the page's level, its leaf entry and where it came from. -/
structure Leaf where
  asid : BitVec 16
  /-- the virtual address of the page's first byte -/
  page : Nat
  lvl : Nat
  /-- where the entry lies, and the entry as last read or updated -/
  entry : Nat
  pte : Word
  /-- pinned by held ranges of launches (R276) -/
  pins : List Nat := []
  /-- G was set in the entry or in a pointer above it, which makes its whole subtree global (R264) -/
  glob : Bool := false
  deriving DecidableEq, Repr

/-- A pointer entry that a unit caches (R270): the table that the walk of `va` above level `lvl` reaches. -/
structure Pointer where
  asid : BitVec 16
  /-- the virtual address with the bits below the level's page dropped -/
  top : Nat
  lvl : Nat
  table : Nat
  /-- G was set in it or in a pointer above it -/
  glob : Bool := false
  deriving DecidableEq, Repr

/-- A walk in progress (R271): the request that began it and those that have joined it, oldest first. -/
structure XlatWalk where
  req : XlatReq
  joined : List XlatReq := []
  deriving DecidableEq, Repr

/-- An ATS translation of a host page that a unit caches (R390): the context and page that asked, and the host page. -/
structure AtsEntry where
  asid : BitVec 16
  va : Nat
  host : Nat
  deriving DecidableEq, Repr

/-- One translation unit (R270, R271, R279). -/
structure XlatUnit where
  leaves : List Leaf := []
  pointers : List Pointer := []
  /-- the walks in progress, one to a walker, oldest first -/
  walks : List XlatWalk := []
  /-- the wait list, in arrival order -/
  waits : List XlatReq := []
  /-- misses that the L2 slices hold while the wait list is full, in arrival order -/
  misses : List XlatReq := []
  /-- page requests outstanding: tag, page, asid, write, origin, corr -/
  requests : List (Nat × Word × BitVec 16 × Bool × Nat × BitVec 32) := []
  /-- a post to the fault ring that is held while the ring is full -/
  held : List (Nat × Word × BitVec 16 × Bool × Nat × BitVec 32) := []
  /-- the ATS translations that the unit caches, newest first (R390) -/
  ats : List AtsEntry := []
  nextTag : Nat := 0
  deriving DecidableEq, Repr

/-- A line that L2 holds (R269, R272): its post, its virtual tag, and the leaf that its walk found, with its permissions and
the state of D. The L1 caches of the listed cores hold the line too. -/
structure Line where
  post : Nat
  asid : BitVec 16
  va : Nat
  leaf : Leaf
  l1 : List Nat := []
  /-- it holds data that a core has written through it and that has not been written back (R382) -/
  dirty : Bool := false
  deriving DecidableEq, Repr

/-- A held range (R247, R276). -/
structure Range where
  base : Nat
  len : Nat
  write : Bool
  /-- obtained by LEASEX (R245), and by the task of which n -/
  extra : Bool
  task : Nat := 0
  deriving DecidableEq, Repr

/-- A context as the runtime's context table gives it (log entry 4): root of its tables, energy quota and count. -/
structure Context where
  ptroot : Word := 0
  equota : Word := 0
  ecount : Word := 0
  /-- suspended because ECOUNT reached EQUOTA (R304) -/
  stopped : Bool := false
  deriving DecidableEq, Repr

/-- A peer window PWINw (R392). -/
structure PeerWindow where
  base : Word := 0
  size : BitVec 32 := 0
  peer : BitVec 16 := 0
  pasid : BitVec 16 := 0
  ports : BitVec 32 := 0
  up : Bool := false
  roff : Word := 0
  deriving DecidableEq, Repr

/-- What the host completer answers for a host page (R390). -/
inductive HostAnswer where
  | data
  /-- Unsupported Request or Completer Abort -/
  | error
  | poison
  deriving DecidableEq, Repr

/-- What a peer's tables give for a page of a context (R392): the page's number in the peer's memory, and whether the entry
allows reads and writes and carries U. -/
structure PeerLeaf where
  frame : Nat
  r : Bool := true
  w : Bool := true
  u : Bool := true
  deriving DecidableEq, Repr

/-- What a peer answers for a page: a translation, or the cause of its fault. -/
inductive PeerAnswer where
  | leaf (l : PeerLeaf)
  | fault (c : Cause)
  deriving DecidableEq, Repr

/-- An entry of the remote translation cache (R392), tagged by window and by page of the peer's address. -/
structure RemoteEntry where
  win : Nat
  page : Nat
  leaf : PeerLeaf
  deriving DecidableEq, Repr

/-- A burst whose transfer over the vertical bus has mismatched (R365, R368). -/
structure Burst where
  paddr : Nat
  stack : Nat
  ch : Nat
  pch : Nat
  write : Bool
  corr : BitVec 32
  tries : Nat := 1
  beats : BitVec 8
  group : Nat
  reflo : Nat
  /-- the groups of the third transfer, whose lanes are to be walked -/
  walk : Option (List Nat) := none
  lane : Nat := 0x7F
  spare : Nat := 0xFF
  deriving DecidableEq, Repr

/-- What the host's read through BAR 4 is answered with (R389, R403). -/
inductive WindowAnswer where
  | data (bs : List Byte)
  /-- Completer Abort -/
  | abort
  /-- a poisoned completion -/
  | poisoned
  deriving DecidableEq, Repr

/-- An uncorrectable error that the codes of R382 find: in a 32-bit word of a core's pool window, of a lane slice or of an
accumulator tile, in the data of an L2 line, or in the tag or directory entry of one. -/
inductive Upset where
  | pool (core word : Nat)
  | slice (hart reg lane word : Nat)
  | tile (core acc elem : Nat)
  | line (k : Nat)
  | entry (k : Nat)
  deriving DecidableEq, Repr

/-- What level 3 reaches through the sill (R407): the pool of a core at an offset, or a page at a physical address. -/
inductive SillPlace where
  | pool (core off : Nat)
  | page (paddr : Nat)
  deriving DecidableEq, Repr

/-- A firmware image (R399): which it is, the SHA-256 of the key that signs it, whether its signature verifies, and its security
version. -/
structure Firmware where
  image : Nat := 0
  keyHash : List Byte := List.replicate 32 0
  signed : Bool := true
  version : Nat := 0
  deriving DecidableEq, Repr

/-- One choice of what moves next (log entry 5). -/
inductive Turn where
  /-- an event of the opcode table, with what the surroundings supply -/
  | event (i : Instr)
  /-- the hart of this core and slot -/
  | hart (core slot : Nat)
  /-- reference periods that pass -/
  | time (n : Nat)
  /-- a core's copy engine moves the next piece of the task that it stages or commits, or performs the next posted atomic of
  the hart in a slot (R322, R338, R340) -/
  | piece (core slot : Nat)
  /-- a cached translation that a unit drops of its own accord (R273) -/
  | evict (unit k : Nat)
  /-- what a peer's tables hold for a page from now on (R392), or an entry that the remote translation cache gives up -/
  | peerPage (key : Nat) (a : PeerAnswer)
  | dropRemote (k : Nat)
  /-- a line that L2 gives up, or that only L1 gives up, of its own accord (R269) -/
  | dropLine (k : Nat) (l1 : Bool)
  /-- an uncorrectable error outside the HBM stacks (R382) -/
  | upset (u : Upset)
  /-- the host enables PCIe features, and sets the exponent of BAR 4's size (R385) -/
  | hostEnable (pcie : BitVec 4) (bar4 : Nat)
  /-- the host's own store of 1, 2, 4 or 8 bytes to its memory (R390) -/
  | hostStore (a n v : Nat)
  /-- the host's access through the sill at debug level 3: a read of bytes, or a write (R407) -/
  | sill (place : SillPlace) (bytes : Nat) (write : Option Nat)
  /-- the host's request of the standard SPDM measurement exchange (R400) -/
  | spdm (request : List Byte)
  /-- a firmware update: the new image, and what it raises the fused minimum to, and a fuse that revokes a key hash (R399) -/
  | update (f : Firmware) (least : Nat)
  | revoke (key : Nat)
  deriving DecidableEq, Repr

/-- Why the stacks keep a request back (R368): the burst of 64 bytes that it needs is being transferred again, or the channel that
the burst lies in holds new requests. -/
inductive Holdup where
  | burst (k : Nat)
  | chan (c : Nat)
  deriving DecidableEq, Repr

/-- A trace session of a queue (R408 to R412), with the parts that the debug level granted. -/
structure Trace where
  base : Word
  log : Nat
  opt : Nat
  sk : Nat
  slog : Nat
  sbase : Word
  stseq : Word
  sthart : Nat
  stwc : Nat
  /-- records written, and samples latched -/
  count : Nat := 0
  samples : Nat := 0
  /-- the reference time of the last sample -/
  latched : Option Nat := none
  corr : BitVec 32
  deriving DecidableEq, Repr

/-- One work queue (R328). -/
structure Queue where
  base : Word := 0
  en : Bool := false
  asid : BitVec 16 := 0
  weight : BitVec 8 := 1
  prio : Nat := 0
  log2sz : Nat := 4
  head : BitVec 32 := 0
  tail : BitVec 32 := 0
  code : BitVec 8 := 0
  /-- the WAITMEM in force: address, threshold and CORR -/
  blocked : Option (Word × Word × BitVec 32) := none
  /-- pending SIGNALs: address, addend, CORR and the launches to wait for -/
  signals : List (Word × Word × BitVec 32 × List Nat) := []
  deficit : Nat := 0
  /-- when the head packet became eligible (R329) -/
  since : Option Nat := none
  trace : Option Trace := none
  deriving DecidableEq, Repr

/-- Where a launch has got to. -/
inductive LaunchPhase where
  /-- resolving its declared lease ranges (R276) -/
  | leases
  | walking
  /-- refused, or its leases failed: no task starts -/
  | ended
  /-- stopped by DRAIN: the cursor is written when its tasks end (R344) -/
  | draining
  | suspended
  deriving DecidableEq, Repr

/-- An iteration that waits for a core: n, X, the outermost ORDER of which it begins a new iteration (R344) and, for a
cut task, the address of its image. -/
structure Iteration where
  n : Nat
  x : List Word
  lev : Nat := 6
  image : Option Word := none
  since : Nat := 0
  deriving DecidableEq, Repr

/-- A launch in flight (R332 to R346). -/
structure Launch where
  queue : Nat
  asid : BitVec 16
  ptroot : Word
  corr : BitVec 32
  addr : Word
  /-- the 512 bytes of the record -/
  record : List Byte
  /-- the tile descriptors of the slots in use, IN0 to IN7 and OUT0 to OUT3, as read when the launch was taken -/
  slots : List (List Byte) := []
  phase : LaunchPhase := .leases
  /-- the declared ranges are held (R276) -/
  resolved : Bool := false
  /-- the walk's place: the entry of each level with its X, outermost first; none before the first iteration -/
  walk : Option (List (Nat × Word)) := none
  /-- the number of the next iteration -/
  next : Nat := 0
  walkDone : Bool := false
  waiting : List Iteration := []
  /-- the highest n that has started, plus one -/
  started : Nat := 0
  ntask : Nat := 0
  /-- the TCAUSE code of the first failure -/
  failure : Option Nat := none
  held : List Range := []
  /-- the lease slot and the page of it that are still to resolve -/
  pend : Nat := 0
  pendPage : Nat := 0
  /-- the answer to the page request that its resolution made, if one has come: resident or refused (R279) -/
  answer : Option Bool := none
  /-- first page and number of pages of the ranges that FORCE has removed while its ranges were still to resolve (R277) -/
  forced : List (Nat × Nat) := []
  /-- CN and CX of a RESUME that has not reached its place (R345) -/
  cursor : Option (Nat × List Word) := none
  /-- where a DRAIN has stopped the walker (R344) -/
  stop : Option (Nat × List Word) := none
  /-- the area of a DRAIN or CUT, and the bytes of it that images use -/
  area : Word := 0
  used : Nat := 0
  dlev : Nat := 0
  /-- its suspension is that of R304, which a quota grant lifts -/
  energy : Bool := false
  /-- LCODE of a launch that has ended before its tasks (R343) -/
  lcode : Nat := 1
  /-- an attested mark kernel (R404), and the physical pages of its code when it was measured -/
  attested : Bool := false
  code : List Nat := []
  /-- the walker that took it, 0 to 7 -/
  walker : Nat := 0
  deriving DecidableEq, Repr

/-- A LEASEX in progress (R245, R276). -/
structure LeaseReq where
  core : Nat
  bar : Nat
  launch : Nat
  n : Nat := 0
  base : Word
  len : Word
  write : Bool
  asid : BitVec 16
  ptroot : Word
  page : Nat := 0
  /-- the answer to its page request, if one has come -/
  answer : Option Bool := none
  /-- first page and number of pages of the ranges that FORCE has removed since it began (R277) -/
  forced : List (Nat × Nat) := []
  corr : BitVec 32
  deriving DecidableEq, Repr

/-- A STAMP in progress (R131, R405). -/
structure StampReq where
  core : Nat
  hart : Nat
  bar : Nat
  region : Word
  len : Word
  manifest : Word
  asid : BitVec 16
  ptroot : Word
  launch : Nat
  n : Word
  handler : Bool
  /-- CORR of its launch, and the key under which its lines are held -/
  corr : BitVec 32 := 0
  key : Nat := 64
  deriving DecidableEq, Repr

/-- An arrival on its way to another core (R239, R280): target, barrier, count, and who sends it. -/
structure Arrival where
  core : Nat
  bar : Nat
  count : Nat
  fromCore : Nat
  asid : BitVec 16
  launch : Option Nat
  /-- the slot of the hart that sends it, and n of its task -/
  slot : Nat := 0
  n : Nat := 0
  deriving DecidableEq, Repr

/-- A physical line that is held against others' accesses: the operand line that a command of the matrix engine pins
(R285), or, where the key is 64 or above, a line of a STAMP's region (R405). It stands with the virtual line by which it was met. -/
structure Held where
  core : Nat
  key : Nat
  asid : BitVec 16
  va : Nat
  /-- the line's number at its home (`lineAt`) -/
  pa : Nat
  deriving DecidableEq, Repr

/-- Who asked for an invalidation, and is told when it ends: the host's INVREQ, at its STADDR (R273); the answer to a page
request, for the page (R279); the host's ATS (R390). -/
inductive InvFrom where
  | host (status : Word)
  | answer (asid : BitVec 16) (page : Word)
  | ats
  deriving DecidableEq, Repr

/-- An invalidation that has begun (R273, R274): its range, the context, and bit 0 ALLASID, bit 1 FORCE, bit 2 GLOBAL. -/
structure Invalidation where
  base : Word
  pages : BitVec 32
  asid : BitVec 16
  flags : BitVec 8
  src : InvFrom
  deriving DecidableEq, Repr

/-- The module. -/
structure State where
  harts : Table Hart := []
  cores : Table Core := []
  mem : Table Byte := []
  /-- the last write of each 8-byte word of memory, keyed by its place (`Place.key`) -/
  wrote : Table Written := []
  /-- poisoned 8-byte words of device memory, keyed by address / 8 (R371) -/
  poison : Table Bool := []
  /-- poisoned words whose present uncorrectable read the base die has logged, and the access not yet met (R367) -/
  found : Table Bool := []
  /-- seal and stamp bits of device pages, keyed by address / 4096 (R402) -/
  sealed : Table Bool := []
  stamped : Table Bool := []
  hostMem : Table Byte := []
  /-- what the host completer answers, keyed by bus address / 4096 -/
  hostAns : Table HostAnswer := []
  /-- peer memory: keyed by module * 2^64 + address in the peer's memory -/
  peerMem : Table Byte := []
  /-- what the peers' tables hold, keyed by (module * 2^16 + PASID) * 2^52 + page: a peer translates no page that is not
  listed -/
  peerAns : Table PeerAnswer := []
  /-- the remote translation cache (R392), newest first -/
  remote : List RemoteEntry := []
  lines : List Line := []
  /-- lines that operands pin and that stamps own (R285, R405) -/
  held : List Held := []
  units : Table XlatUnit := []
  contexts : Table Context := []
  queues : Table Queue := []
  /-- Ptr[L] of the arbiter (R329) -/
  ptr : Table Nat := []
  launches : Table (Option Launch) := []
  nextLaunch : Nat := 0
  agep : BitVec 32 := 0
  heatctl : Word := 0x000040401E848000
  rotStart : Nat := 0
  pwrctl : Table Word := []
  ramp : Table (BitVec 32) := []
  /-- writes of PWRCTL and RAMP that wait for the post's next step boundary (R298), oldest first -/
  pwrWrites : List (Nat × Word) := []
  rampWrites : List (Nat × BitVec 32) := []
  /-- column quarters running in each post (R302) -/
  activity : Table Nat := []
  /-- for each post, one more than the reference period in which its caps last changed (R301) -/
  capTimes : Table Nat := []
  starts : List (Nat × Nat) := []
  stops : List (Nat × Nat) := []
  pstate : Nat := 0
  pstateReq : Option Nat := none
  rstBusy : Bool := true
  rstScope : Nat := 0
  /-- the reset in progress: scope and target (R394) -/
  rstPending : Option (Nat × Nat) := some (4, 0)
  /-- the invalidations that have not ended, oldest first (R274) -/
  inv : List Invalidation := []
  /-- ATS invalidations that have ended, and of which the host has been told (R390) -/
  atsDone : Nat := 0
  /-- the first 24 bytes of INVREQ -/
  invBytes : List Word := [0, 0, 0]
  frbase : Word := 0
  frsize : Nat := 4
  frhead : BitVec 32 := 0
  frtail : BitVec 32 := 0
  erbase : Word := 0
  ersize : Nat := 4
  erhead : BitVec 32 := 0
  ertail : BitVec 32 := 0
  erdropped : Nat := 0
  /-- MSI-X vectors raised, oldest first (R387, R388) -/
  msix : List Nat := []
  pwin : Table PeerWindow := []
  ports : BitVec 24 := 0xFFFFFF
  mapGen : Word := 0
  /-- banks that are not live, and of these the ones retired for heat, keyed by p * 32 + n (R375, R376) -/
  dead : Table Bool := []
  therm : Table Bool := []
  /-- the remapping step in progress: bank, return, thermal, and when its wait last made an event (R379) -/
  remap : Option (Nat × Bool × Bool × Nat) := none
  /-- counters, lane maps and logs of the stacks (R363 to R366) -/
  counters : Table Word := []
  laneMaps : Table (BitVec 16) := []
  arrayLog : Table Word := []
  busLog : Table Word := []
  /-- bursts whose transfer is being repeated (R368) -/
  bursts : List Burst := []
  /-- bursts whose transfers fail, keyed by address / 64: an access to one faults MCHK until a transfer of it succeeds
  (R368, log entry 29) -/
  badBursts : Table Bool := []
  /-- channels held for repair or a change of the clock ratio (R368, R381), and the ratio of the crossing FIFOs -/
  chanHold : Table Bool := []
  /-- the requests that channels hold, in arrival order: the turn that makes one, and the channel (R368) -/
  queued : List (Turn × Nat) := []
  /-- set only where a turn is tried, to learn whether it needs what the stacks keep back (R368) -/
  blocking : Option Holdup := none
  clockRatio : Nat := 0
  /-- the checkpoint requested: restore, and CKPTREQ as written (R397) -/
  ckpt : Option (Bool × Word) := none
  capbase : Word := 0x0000700000000000
  bankmapPa : Word := 0x0040000000000000
  statusPa : Word := 0x0040000001000000
  bankmapVa : Word := 0x0000700000100000
  moduleNo : BitVec 16 := 0
  pcie : BitVec 4 := 3
  /-- BAR 4's size, as its exponent, 32 to 39 (R385) -/
  bar4 : Nat := 39
  capGen : Word := 0
  refcnt : Nat := 0
  /-- the reference periods that have passed: what waits and periods are counted in, to whatever value REFCNT is set -/
  clock : Nat := 0
  /-- policies in force (R401) -/
  policies : List SealPolicy := []
  sseq : Word := 0
  stamps : List StampReq := []
  leasexs : List LeaseReq := []
  arrivals : List Arrival := []
  warnings : List (Nat × Warning) := []
  debugLevel : Nat := 0
  /-- answers to the host's reads of the memory window, oldest first (R389) -/
  windowReads : List WindowAnswer := []
  /-- answers to peers' requests, oldest first: the cause code, or 0 with the value read (R392) -/
  peerAnswers : List (Nat × Nat) := []
  /-- SPDM reports produced, oldest first (R400) -/
  reports : List (List Byte) := []
  /-- the sill's firmware image, the key hashes fused at manufacture, those that a fuse has revoked, and the fused minimum of the
  security version (R399) -/
  firmware : Firmware := {}
  keyHashes : List (List Byte) := [List.replicate 32 0, List.replicate 32 1]
  revoked : BitVec 2 := 0
  leastVersion : Nat := 0
  /-- the hart whose word a meaning runs (log entry 5) -/
  focus : Nat := 0
  turns : List Turn := []
  beat : Nat := 0
  /-- the steps taken so far, to which the free values are applied (log entry 6) -/
  freeCount : Nat := 0
  deriving DecidableEq, Repr

/-- The reasons the machine could stop with a fault: none. Every fault of the manual is a trap, an error arrival, an
abort, a status or an event record, after which the machine goes on. -/
inductive Fault where
  deriving DecidableEq, Repr

/-- The reasons a meaning could be refused. -/
inductive Refusal where
  /-- Raised by an arm of exec whose instruction has no meaning yet. Safe: nothing is claimed of it. -/
  | notModelled (mnemonic : String)
  deriving DecidableEq, Repr

/-- The module right after a module reset, its bring-up still to complete (R394, R396). -/
def State.reset : State := {}

end Sys2Proof.Machine
end

