-- ==== Sys2Proof/Machine/Operands.lean ====
section
/-! DEFINITION. Reading and writing registers: harts and cores of the state, scalar registers (R94, R95, R31), vector
slices, elements and masks (R20 to R22, R59, R144), and the format checks of R57 and R58. -/

namespace Sys2Proof.Machine

/-! ## Harts and cores -/

/-- The hart numbered 4 * core + slot. -/
def State.hart (s : State) (k : Nat) : Hart := Table.get {} s.harts k
/-- Replace a hart. -/
def State.setHart (s : State) (k : Nat) (h : Hart) : State := { s with harts := Table.set {} s.harts k h }
/-- The hart whose word runs. -/
def State.cur (s : State) : Hart := s.hart s.focus
/-- Replace the hart whose word runs. -/
def State.setCur (s : State) (h : Hart) : State := s.setHart s.focus h
/-- A core. -/
def State.core (s : State) (c : Nat) : Core := Table.get {} s.cores c
/-- Replace a core. -/
def State.setCore (s : State) (c : Nat) (x : Core) : State := { s with cores := Table.set {} s.cores c x }
/-- The number of the core of the hart whose word runs. -/
def State.curCoreNo (s : State) : Nat := s.focus / 4
/-- The core of the hart whose word runs. -/
def State.curCore (s : State) : Core := s.core s.curCoreNo
/-- Replace the core of the hart whose word runs. -/
def State.setCurCore (s : State) (x : Core) : State := s.setCore s.curCoreNo x

/-! ## Scalar registers -/

/-- A scalar register: S0 reads zero (R94), and a dead register reads its contents or zero (R31, log entry 8). -/
def Hart.getS (h : Hart) (free : Nat) (r : SReg) : Word :=
  if r = 0 then 0
  else if h.seq.deadS.getLsbD r.toNat && (Config.deadScalar free).getLsbD r.toNat then 0
  else Table.get 0 h.seq.s r.toNat

/-- The taint bit of a scalar register (R95). -/
def Hart.taintS (h : Hart) (r : SReg) : Bool := r ≠ 0 && h.seq.sTaint.getLsbD r.toNat

/-- The register set with one bit for register `r`. -/
def bitOf (w : Nat) (r : Nat) : BitVec w := BitVec.ofNat w (2 ^ r)

/-- A set with bit `r` set or cleared. -/
def setBit {w : Nat} (x : BitVec w) (r : Nat) (b : Bool) : BitVec w := if b then x ||| bitOf w r else x &&& ~~~ bitOf w r

/-- The results awaited, once register `r` is written by a younger instruction: those for `r` will be discarded. -/
def supersede (l : List (Nat × Nat × Bool)) (r : SReg) : List (Nat × Nat × Bool) :=
  l.map fun e => if e.1 = r.toNat then (e.1, e.2.1, true) else e

/-- Write a scalar register with its taint bit; a write to S0 is discarded (R94). The register is dead no longer. -/
def Seq.putS (q : Seq) (r : SReg) (v : Word) (taint : Bool) : Seq :=
  if r = 0 then q
  else { q with s := Table.set 0 q.s r.toNat v, sTaint := setBit q.sTaint r.toNat taint,
                deadS := setBit q.deadS r.toNat false, late := supersede q.late r }

/-- Write a scalar register of the hart. -/
def Hart.putS (h : Hart) (r : SReg) (v : Word) (taint : Bool) : Hart := { h with seq := h.seq.putS r v taint }

/-- A late result is bound (R94, R250): the register takes the value, unless a younger instruction has written it. -/
def Seq.bind (q : Seq) (tok : Nat) (r : SReg) (v : Word) (taint : Bool) : Seq :=
  let rest := q.late.filter fun e => e.2.1 ≠ tok
  if q.late.contains (r.toNat, tok, false) then { q.putS r v taint with late := rest } else { q with late := rest }

/-- Bind a late result in a hart and in the snapshots of its words in flight. -/
def Hart.bind (h : Hart) (tok : Nat) (r : SReg) (v : Word) (taint : Bool) : Hart :=
  { h with seq := h.seq.bind tok r v taint,
           window := h.window.map fun f => { f with before := f.before.bind tok r v taint } }

/-- A register will receive a late result; S0 discards it. -/
def Seq.await (q : Seq) (tok : Nat) (r : SReg) : Seq :=
  if r = 0 then q
  else { q with late := supersede q.late r ++ [(r.toNat, tok, false)], deadS := setBit q.deadS r.toNat false }

/-- The token of the late result of a word that is dispatched in this step. -/
def State.token (s : State) : Nat := 64 * s.freeCount + 63

/-- The register of the hart whose word runs. -/
def State.getS (s : State) (r : SReg) : Word := s.cur.getS s.freeCount r
/-- The taint bit of a register of the hart whose word runs. -/
def State.taintS (s : State) (r : SReg) : Bool := s.cur.taintS r
/-- Write a register of the hart whose word runs. -/
def State.putS (s : State) (r : SReg) (v : Word) (taint : Bool) : State := s.setCur (s.cur.putS r v taint)

/-! ## The grant and the partition -/

/-- The grant that the hart's next dispatch reads (R141, R251). -/
def State.grantOf (s : State) (k : Nat) : Grant := ((s.hart k).seq.ownGrant).getD (s.core (k / 4)).grant
/-- VTYPE as the hart reads it. -/
def State.vtype (s : State) : BitVec 32 := (s.grantOf s.focus).vtype
/-- VL as the hart reads it. -/
def State.vl (s : State) : Nat := (s.grantOf s.focus).vl

/-- The element width in bits of a VTYPE (R61). -/
def ewOf (vtype : BitVec 32) : Nat := 8 * 2 ^ (vtype.extractLsb' 0 2).toNat
/-- WIDE (R61). -/
def wideOf (vtype : BitVec 32) : Bool := vtype.getLsbD 2
/-- VLMAX (R139). -/
def vlmaxOf (ew : Nat) (wide : Bool) : Nat := (if wide then 16384 else 4096) / ew
/-- VLMAX under a VTYPE. -/
def vlmax (vtype : BitVec 32) : Nat := vlmaxOf (ewOf vtype) (wideOf vtype)

/-- PARTW.RGRAN (R310). -/
def rgran (p : BitVec 32) : Nat := (p.extractLsb' 0 7).toNat
/-- PARTW.AGRAN (R310). -/
def agran (p : BitVec 32) : Nat := (p.extractLsb' 8 7).toNat
/-- PARTW.LEND (R310). -/
def lendGran (p : BitVec 32) : Nat := (p.extractLsb' 16 8).toNat
/-- PARTW.UNINIT (R310). -/
def uninitZero (p : BitVec 32) : Bool := p.getLsbD 15

/-- The hart's vector register count (R145); after a restore on a repaired core REGMAX may bound it (R346). -/
def regCount (partw : BitVec 32) (regmax : Nat) (wide : Bool) : Nat :=
  let n := min (min 64 (32 * rgran partw)) regmax
  if wide then n / 4 else n

/-- The vector register count of the hart whose word runs. -/
def State.regs (s : State) : Nat := regCount s.cur.partw s.curCore.regmax (wideOf s.vtype)

/-! ## Slices, elements and masks -/

/-- A lane slice of a register. -/
def Vec.slice (x : Vec) (reg lane : Nat) : Slice := Table.get {} x.v (16 * reg + lane)
/-- Replace a lane slice. -/
def Vec.setSlice (x : Vec) (reg lane : Nat) (sl : Slice) : Vec := { x with v := Table.set {} x.v (16 * reg + lane) sl }

/-- Element `e` at width `w` within its slice (R59). -/
def Slice.elem (sl : Slice) (w e : Nat) : Nat := sl.bits.toNat / 2 ^ (w * (e / 16)) % 2 ^ w

/-- Replace element `e` at width `w` within its slice. -/
def Slice.setElem (sl : Slice) (w e : Nat) (v : Nat) : Slice :=
  let k := 2 ^ (w * (e / 16))
  { sl with bits := BitVec.ofNat 1024 (sl.bits.toNat - sl.elem w e * k + v % 2 ^ w * k) }

/-- A bit of a mask register: M0 reads all ones (R144). -/
def Vec.maskBit (x : Vec) (m e : Nat) : Bool := m = 0 || (Table.get 0 x.m m).getLsbD e

/-- The 2048 bits of a mask register. -/
def Vec.mask (x : Vec) (m : Nat) : BitVec 2048 := if m = 0 then BitVec.allOnes 2048 else Table.get 0 x.m m

/-- Write a mask register: a write to M0 is ignored (R144). -/
def Vec.setMask (x : Vec) (m : Nat) (b : BitVec 2048) : Vec := if m = 0 then x else { x with m := Table.set 0 x.m m b }

/-- The marks of uncorrectable words after a write of element `e` at width `w`: a word written whole loses its mark
(R382). -/
def clearPoison (p : BitVec 32) (w e : Nat) : BitVec 32 :=
  p &&& ~~~ (BitVec.ofNat 32 ((2 ^ (w / 32) - 1) * 2 ^ (w / 32 * (e / 16))))

/-- Write element `e` of register `reg`: the slice becomes full (R148) and takes the taint bit (R186). -/
def Vec.setElem (x : Vec) (reg e w v : Nat) (taint : Bool) : Vec :=
  let sl := x.slice reg (e % 16)
  x.setSlice reg (e % 16) { sl.setElem w e v with full := true, taint := taint, poison := clearPoison sl.poison w e }

/-- Carry out one change of a lane instruction. -/
def Vec.apply (x : Vec) : VWrite → Vec
  | .elem reg e bytes val taint => x.setElem reg e (8 * bytes) val taint
  | .maskBit m e b => x.setMask m (setBit (x.mask m) e b)
  | .fullBit reg lane b => x.setSlice reg lane { x.slice reg lane with full := b }
  | .fresh reg lane => x.setSlice reg lane { x.slice reg lane with full := true, taint := false }
  | .mask m bits => x.setMask m bits

/-- The elements that share a 32-bit word of their slice with element `e`, of `bytes` bytes each. -/
def wordMates (bytes e : Nat) : List Nat :=
  let per := 4 / bytes
  (List.range per).map fun j => 16 * (e / 16 / per * per + j) + e % 16

/-- A word that narrow elements of one instruction have written whole loses its mark (R382). -/
def Vec.cleanWord (ws : List VWrite) (x : Vec) : VWrite → Vec
  | .elem reg e bytes _ _ =>
    let sl := x.slice reg (e % 16)
    let wrote (f : Nat) : Bool := ws.any fun y => match y with
      | .elem r g b _ _ => r = reg && g = f && b = bytes
      | _ => false
    if bytes < 4 && sl.poison ≠ 0 && (wordMates bytes e).all wrote then
      x.setSlice reg (e % 16) { sl with poison := setBit sl.poison (e / 16 * bytes / 4) false }
    else x
  | _ => x

/-- Carry out changes in order. -/
def Vec.applyAll (x : Vec) (ws : List VWrite) : Vec := ws.foldl (Vec.cleanWord ws) (ws.foldl Vec.apply x)

/-- The contents of a register become undefined, with the free values of a key (R232). -/
def Vec.lose (x : Vec) (key reg : Nat) : Vec :=
  (List.range 16).foldl (fun x l => x.setSlice reg l { x.slice reg l with bits := Config.followSlice key reg l }) x

/-- What a lane instruction reads: the register plane with the results of older instructions, and the dead registers. -/
structure View where
  vec : Vec
  dead : BitVec 64
  deadZero : BitVec 64
  deriving DecidableEq, Repr

/-- Where element `e` of an operand lies: register and element (R21). -/
def opAt (o : VOp) (vlmax e : Nat) : Nat × Nat :=
  match o.dir with
  | .row => (o.idx.toNat, e)
  | .col => (e, o.idx.toNat)
  | .diag => (e, (o.idx.toNat + e) % vlmax)

/-- The slice that element `e` of an operand lies in: register and lane. -/
def opSliceAt (o : VOp) (vlmax e : Nat) : Nat × Nat := ((opAt o vlmax e).1, (opAt o vlmax e).2 % 16)

/-- Element `x` of register `reg` at width `w`, as a view reads it. -/
def View.elemAt (v : View) (reg x w : Nat) : Nat :=
  if v.dead.getLsbD reg && v.deadZero.getLsbD reg then 0 else (v.vec.slice reg (x % 16)).elem w x

/-- Element `e` of an operand at width `w`. -/
def View.src (v : View) (o : VOp) (vlmax e w : Nat) : Nat := v.elemAt (opAt o vlmax e).1 (opAt o vlmax e).2 w

/-- A slice is full; a dead register counts as full (R31, R149). -/
def View.full (v : View) (reg lane : Nat) : Bool := v.dead.getLsbD reg || (v.vec.slice reg lane).full

/-- The taint bit of the slice that element `e` of an operand lies in. -/
def View.taint (v : View) (o : VOp) (vlmax e : Nat) : Bool := (v.vec.slice (opSliceAt o vlmax e).1 (opSliceAt o vlmax e).2).taint

/-! ## Checks of operands at dispatch -/

/-- R22, for one operand. -/
def opOk (o : VOp) (regs vl : Nat) (vtype : BitVec 32) : Bool :=
  let wide := wideOf vtype
  match o.dir with
  | .row => o.idx.toNat < regs && !(wide && 15 < o.idx.toNat)
  | .col => vl ≤ (if wide then 16 else 64) && vl ≤ regs && o.idx.toNat < vlmax vtype
  | .diag => vl ≤ (if wide then 16 else 64) && vl ≤ regs

/-- The operand is a row. -/
def opIsRow (o : VOp) : Bool := o.dir = .row

/-- The fields of a format register (R56). -/
def fFA (f : BitVec 32) : Nat := (f.extractLsb' 28 4).toNat
/-- The fields of a format register (R56). -/
def fFB (f : BitVec 32) : Nat := (f.extractLsb' 24 4).toNat
/-- The fields of a format register (R56). -/
def fFD (f : BitVec 32) : Nat := (f.extractLsb' 20 4).toNat
/-- The fields of a format register (R56). -/
def fFC (f : BitVec 32) : Nat := (f.extractLsb' 16 4).toNat
/-- The fields of a format register (R56). -/
def fScale (f : BitVec 32) : Int := (f.extractLsb' 8 8).toInt
/-- The fields of a format register (R56). -/
def fDesc (f : BitVec 32) : Bool := f.getLsbD 2
/-- The fields of a format register (R56). -/
def fQG (f : BitVec 32) : Nat := (f.extractLsb' 0 2).toNat

/-- The value of a format register. -/
def Hart.getF (h : Hart) (r : FReg) : BitVec 32 := Table.get 0xAAAA0000 h.seq.f r.toNat
/-- The value of a format register of the hart whose word runs. -/
def State.getF (s : State) (r : FReg) : BitVec 32 := s.cur.getF r

/-- R57, rules 1, 3 and 4, for the format codes read and the destination's code (none for a mask or scalar). -/
def fmtReadOk (f : BitVec 32) (reads : List Nat) (dst : Option Nat) (isCvt : Bool) : Bool :=
  reads.all (fun c => c < 14) && (f.extractLsb' 3 5 = 0)
    && !(fScale f ≠ 0 && !isCvt && (dst = some 11 || dst = some 12))

/-- R57, rule 2: no vector instruction reads a field that names INT4 or Q4. -/
def fmtVectorOk (reads : List Nat) : Bool := reads.all (fun c => c ≠ 7 && c ≠ 13)

/-- R57 and R58 for a vector instruction all of whose formats must have width EW. -/
def fmtVec (f : BitVec 32) (reads : List Nat) (dst : Option Nat) (ew : Nat) : Bool :=
  fmtReadOk f reads dst false && fmtVectorOk reads && reads.all (fun c => fmtBits c = ew)

end Sys2Proof.Machine
end

