-- ==== Sys2Proof/Machine/Translation.lean ====
section
/-! DEFINITION. Physical memory, Sv57 walks, the translation units and the L2 tags (R264 to R275). -/

namespace Sys2Proof.Machine

/-! ## Physical addresses (R268, R377) -/

/-- LIVECAP: bytes of device memory that exist (R375). -/
def State.liveCap (s : State) : Nat := (16384 - s.dead.length) * Config.bankBytes

/-- Bit 55 selects host memory (R268). -/
def isHostPa (pa : Nat) : Bool := pa / 2 ^ 55 % 2 = 1

/-- The host bus address of a physical address. -/
def hostBus (pa : Nat) : Nat := pa % 2 ^ 55

/-- The 8-byte words that `n` bytes from `a` touch. -/
def wordsOf (a n : Nat) : List Nat := (List.range ((a + n - 1) / 8 - a / 8 + 1)).map (· + a / 8)

/-- Some word of the bytes is poisoned (R371). -/
def State.poisoned (s : State) (a n : Nat) : Bool := (wordsOf a n).any (fun k => Table.get false s.poison k)

/-- What the host answers for bytes of its memory (R390). -/
def State.hostAnswer (s : State) (a : Nat) : HostAnswer := Table.get .data s.hostAns (a / 4096)

/-- The key of a channel. -/
def chanKey (stack ch : Nat) : Nat := 32 * stack + ch

/-- The live bank that stands at place `j` among the live ones, keyed as `dead` (R375). -/
def State.liveBank (s : State) (j : Nat) : Nat :=
  (s.dead.map Prod.fst).foldl (fun j b => if b ≤ j then j + 1 else j) (j % (16384 - s.dead.length))

/-- Where word `k` of device memory lies in the stacks: in a live bank, fixed between remapping steps, and not architectural
(R377, log entry 76). -/
def State.wordPlace (s : State) (k : Nat) (corr : BitVec 32) : ArrayError :=
  let f (j : Nat) : Nat := Config.burstPlace s.mapGen.toNat (k / 8) j
  let b := s.liveBank (f 0)
  { paddr := k / 8 * 64, word := k % 8, bit := none, stack := b / 2048, ch := b / 64 % 32, pch := b / 32 % 2, bank := b % 32,
    row := f 4, col := f 5, corr := corr, writeFirst := false }

/-- PPN -/
def ptePpn (p : Word) : Nat := (p.field 10 44).toNat

/-- Bytes of a page of level `lvl` (R264). -/
def pageBytes (lvl : Nat) : Nat := 4096 * 512 ^ lvl

/-- The physical address of `va` in a leaf's page. -/
def leafPa (l : Leaf) (va : Nat) : Nat := ptePpn l.pte * 4096 + va % pageBytes l.lvl

/-- The bursts of 64 bytes that `n` bytes at a device address touch. -/
def burstsOf (a n : Nat) : List Nat := (List.range ((a + n - 1) / 64 - a / 64 + 1)).map (· + a / 64)

/-- The stacks keep back a request for bytes of device memory, as it is tried (R368). -/
def State.heldUp (s : State) (a n : Nat) : Bool :=
  match s.blocking with
  | none => false
  | some (.burst b) => (burstsOf a n).contains b
  | some (.chan c) => (burstsOf a n).any fun k => let p := s.wordPlace (8 * k) 0; chanKey p.stack p.ch = c

/-- A line that L2 of a post holds serves without the stacks (R368). -/
def State.past (s : State) (post pa : Nat) : State :=
  if s.blocking.isSome && s.lines.any fun x => x.post = post && leafPa x.leaf (128 * x.va) / 128 = pa / 128 then
    { s with blocking := none }
  else s

/-- Read `n` bytes of device or host memory at a physical address, or the cause that prevents it. -/
def State.physRead (s : State) (pa n : Nat) : Except Cause Nat :=
  if isHostPa pa then
    match s.hostAnswer (hostBus pa) with
    | .data => .ok (Memory.load s.hostMem (hostBus pa) n)
    | .error => .error .prot
    | .poison => .error .mchk
  else if s.liveCap < pa + n then .error .prot
  else if s.poisoned pa n || Table.get false s.badBursts (pa / 64) || s.heldUp pa n then .error .mchk
  else .ok (Memory.load s.mem pa n)

/-- Clear the poison of words that a write covers whole, and that a read of theirs has been logged (R367, R371). -/
def State.unpoison (s : State) (a n : Nat) : State :=
  let clear (t : Table Bool) (k : Nat) := if a ≤ 8 * k && 8 * k + 8 ≤ a + n then Table.set false t k false else t
  { s with poison := (wordsOf a n).foldl clear s.poison, found := (wordsOf a n).foldl clear s.found }

/-- Write `n` bytes of device memory: a stamped page loses its stamp (R405). -/
def State.devWrite (s : State) (a n v : Nat) : State :=
  let s := s.unpoison a n
  { s with mem := Memory.store s.mem a n v, stamped := Table.set false s.stamped (a / 4096) false }

/-- Write `n` bytes of device or host memory at a physical address. -/
def State.physWrite (s : State) (pa n v : Nat) : State :=
  if isHostPa pa then { s with hostMem := Memory.store s.hostMem (hostBus pa) n v } else s.devWrite pa n v

/-! ## Page-table entries (R265) -/

/-- V -/
def pteV (p : Word) : Bool := p.getLsbD 0
/-- R -/
def pteR (p : Word) : Bool := p.getLsbD 1
/-- W -/
def pteW (p : Word) : Bool := p.getLsbD 2
/-- X -/
def pteX (p : Word) : Bool := p.getLsbD 3
/-- U -/
def pteU (p : Word) : Bool := p.getLsbD 4
/-- G -/
def pteG (p : Word) : Bool := p.getLsbD 5
/-- A -/
def pteA (p : Word) : Bool := p.getLsbD 6
/-- D -/
def pteD (p : Word) : Bool := p.getLsbD 7

/-- A canonical Sv57 address: bits 63:57 equal bit 56 (R264). -/
def canonical (va : Word) : Bool := va.field 57 7 = (if va.getLsbD 56 then BitVec.allOnes 7 else 0)

/-- The index into the table of level `lvl` (R264). -/
def vpn (va lvl : Nat) : Nat := va / 2 ^ (12 + 9 * lvl) % 512

/-- The access kinds of TCAUSE.KIND: 0 fetch, 1 read, 2 write, 3 atomic. -/
def pteAllows (p : Word) (kind : Nat) : Bool :=
  match kind with
  | 0 => pteX p
  | 1 => pteR p
  | 2 => pteW p
  | _ => pteR p && pteW p

/-- The access stores. -/
def kindStores (kind : Nat) : Bool := 2 ≤ kind

/-- The entry of the walk at level `lvl` (the fuel less one) of table `t` and below, `g` telling whether a pointer above
had G: the leaf's level, where its entry lies, the entry, whether it is global, and the pointers met (R264, R266). -/
def walkFrom (s : State) (asid : BitVec 16) (va : Nat) : Nat → Nat → Bool → List Pointer →
    Except Cause (Nat × Nat × Word × Bool × List Pointer)
  | 0, _, _, _ => .error .page
  | lvl + 1, t, g, ptrs =>
    match s.physRead (t + 8 * vpn va lvl) 8 with
    | .error c => .error c
    | .ok x =>
      let pte : Word := BitVec.ofNat 64 x
      if !pteV pte || pte.field 54 10 ≠ 0 || (pteW pte && !pteR pte) then .error .page
      else if !pteR pte && !pteW pte && !pteX pte then
        if lvl = 0 || pteD pte || pteA pte || pteU pte then .error .page
        else
          let p : Pointer := ⟨asid, va / pageBytes lvl, lvl, ptePpn pte * 4096, g || pteG pte⟩
          walkFrom s asid va lvl p.table p.glob (p :: ptrs)
      else if ptePpn pte % 512 ^ lvl ≠ 0 then .error .page
      else .ok (lvl, t + 8 * vpn va lvl, pte, g || pteG pte, ptrs)

/-! ## Caches -/

/-- The unit that serves an address, of those on `post` (R270). -/
def unitOf (post va : Nat) : Nat := 8 * post + (vpn va 0 ^^^ vpn va 1) % 8

/-- A translation unit. -/
def State.unit (s : State) (u : Nat) : XlatUnit := Table.get {} s.units u
/-- Replace a translation unit. -/
def State.setUnit (s : State) (u : Nat) (x : XlatUnit) : State := { s with units := Table.set {} s.units u x }

/-- The leaf holds the translation of an address in an ASID; a global one holds in every ASID (R264, R265). -/
def leafFor (asid : BitVec 16) (va : Nat) (l : Leaf) : Bool :=
  (l.glob || l.asid = asid) && va / pageBytes l.lvl * pageBytes l.lvl = l.page

/-- The pointer entry serves an address. -/
def pointerFor (asid : BitVec 16) (va : Nat) (p : Pointer) : Bool :=
  p.asid = asid && va / pageBytes p.lvl = p.top

/-- Where a walk starts: the level, the table and whether the subtree is global. -/
abbrev WalkStart := Nat × Nat × Bool

/-- A walk from the root. -/
def rootStart (ptroot : Word) : WalkStart := (5, ptroot.toNat, false)

/-- Where a walk starts: the deepest cached pointer, or the root. -/
def walkStart (x : XlatUnit) (asid : BitVec 16) (ptroot : Word) (va : Nat) : WalkStart :=
  x.pointers.foldl (fun b p => if pointerFor asid va p && p.lvl < b.1 then (p.lvl, p.table, p.glob) else b)
    (rootStart ptroot)

/-- Install a leaf in a unit, dropping the oldest that is not pinned beyond the unit's size. -/
def XlatUnit.install (x : XlatUnit) (l : Leaf) : XlatUnit :=
  let pins := ((x.leaves.find? (fun k => k.asid = l.asid && k.page = l.page && k.lvl = l.lvl)).map Leaf.pins).getD []
  let rest := x.leaves.filter (fun k => !(k.asid = l.asid && k.page = l.page && k.lvl = l.lvl))
  let kept := if rest.length < Config.leafCap then rest else (rest.reverse.eraseP fun k => k.pins.isEmpty).reverse
  { x with leaves := { l with pins := pins ++ l.pins } :: kept }

/-- Install the pointers that a walk met. -/
def XlatUnit.installPointers (x : XlatUnit) (ps : List Pointer) : XlatUnit :=
  { x with pointers := (ps.filter (fun p => !x.pointers.contains p) ++ x.pointers).take Config.pointerCap }

/-- UpdateAD (R267): the state with A, and for a store D, set in the leaf's entry, and the entry; or PAGE where the
entry lies in host memory and no AtomicOps completer serves 64 bits. -/
def updateAD (s : State) (entry : Nat) (pte : Word) (kind : Nat) : Except Cause (State × Word) :=
  let new := pte ||| 0x40 ||| (if kindStores kind then 0x80 else 0)
  if new = pte then .ok (s, pte)
  else if isHostPa entry && !s.pcie.getLsbD 1 then .error .page
  else .ok (s.physWrite entry 8 new.toNat, new)

/-- With ATS enabled, a unit asks for the translations of the host pages that the access of an address comes to, and caches those
that it has not, where the host answers (R390). -/
def State.keepAts (s : State) (u : Nat) (asid : BitVec 16) (va : Nat) (pas : List Nat) : State :=
  if !s.pcie.getLsbD 2 then s
  else
    let x := s.unit u
    let pages := ((pas.filter isHostPa).map hostBus).filter fun a => s.hostAnswer a ≠ .error
    let new := (pages.map fun a => (⟨asid, va / 4096, a / 4096⟩ : AtsEntry)).eraseDups.filter fun e => !x.ats.contains e
    s.setUnit u { x with ats := new ++ x.ats }

/-- A walk of the tables as they stand from a given place, which installs what it finds (R266, R271), its tables in host memory
among them (R390). -/
def walkBy (s : State) (post : Nat) (asid : BitVec 16) (from_ : WalkStart) (va kind : Nat) (handler : Bool) :
    Except Cause (State × Leaf) :=
  let u := unitOf post va
  match walkFrom s asid va from_.1 from_.2.1 from_.2.2 [] with
  | .error c => .error c
  | .ok (lvl, entry, pte, glob, ptrs) =>
    if !pteU pte && !handler then .error .prot
    else if !pteAllows pte kind then .error .prot
    else match updateAD s entry pte kind with
      | .error c => .error c
      | .ok (s, pte) =>
        let l : Leaf := { asid := asid, page := va / pageBytes lvl * pageBytes lvl, lvl := lvl, entry := entry, pte := pte,
                          glob := glob }
        let s := s.setUnit u (((s.unit u).install l).installPointers ptrs)
        .ok (s.keepAts u asid va (from_.2.1 :: ptrs.map Pointer.table), l)

/-- A walk from the deepest pointer that the unit caches (R266, R270). -/
def walk (s : State) (post : Nat) (asid : BitVec 16) (ptroot : Word) (va kind : Nat) (handler : Bool) :
    Except Cause (State × Leaf) :=
  walkBy s post asid (walkStart (s.unit (unitOf post va)) asid ptroot va) va kind handler

/-- The leaf that a translation unit gives for an access: cached, or walked (R270). A store to a page whose cached D is
clear updates the entry where it stands unchanged, and walks again from the root where it has changed (R267, R269). -/
def translateUnit (s : State) (post : Nat) (asid : BitVec 16) (ptroot : Word) (va kind : Nat) (handler : Bool) :
    Except Cause (State × Leaf) :=
  let u := unitOf post va
  match (s.unit u).leaves.find? (leafFor asid va) with
  | none => walk s post asid ptroot va kind handler
  | some l =>
    if !pteU l.pte && !handler then .error .prot
    else if !pteAllows l.pte kind then .error .prot
    else if kindStores kind && !pteD l.pte then
      match s.physRead l.entry 8 with
      | .error c => .error c
      | .ok x =>
        if BitVec.ofNat 64 x = l.pte then
          match updateAD s l.entry l.pte kind with
          | .error c => .error c
          | .ok (s, pte) => .ok (s.setUnit u ((s.unit u).install { l with pte := pte, pins := [] }), { l with pte := pte })
        else walkBy s post asid (rootStart ptroot) va kind handler
    else .ok (s, l)

/-! ## The lines of L1 and L2 (R269, R272) -/

/-- Lines that L2 holds in one post: 768 MiB of 128 bytes (R5). -/
def lineCap : Nat := 6291456

/-- The line stands in L2 under a post, a context and a virtual tag. -/
def Line.is (x : Line) (post : Nat) (asid : BitVec 16) (va : Nat) : Bool := x.post = post && x.asid = asid && x.va = va / 128

/-- The line's number at its physical home. -/
def Line.home (x : Line) : Nat := leafPa x.leaf (128 * x.va) / 128

/-- The directory's back-pointers to the L2 copies of the line at a home, the newest first: the slice, counted over both posts,
the virtual tag and the ASID (R272). -/
def State.backPointers (s : State) (home : Nat) : List (Nat × Nat × BitVec 16) :=
  (s.lines.filter fun x => x.home = home).map fun x => (64 * x.post + Config.lineSlice x.asid.toNat x.va, x.va, x.asid)

/-- Erase the last element that a test names. -/
def eraseLast {α : Type} (p : α → Bool) (l : List α) : List α := (l.reverse.eraseP p).reverse

/-- A line comes into L2, and into L1 of a core: the directory recalls the oldest of four copies of its physical line,
and L2 gives up its oldest line where it is full (R272); a pinned line does not go (R285). The lines stand newest first. -/
def keepLine (pinned : Line → Bool) (lines : List Line) (post : Nat) (asid : BitVec 16) (va : Nat) (leaf : Leaf)
    (l1 : Option Nat) : List Line :=
  let leaf := { leaf with pins := [] }
  match lines.find? fun x => x.is post asid va with
  | some x =>
    let y := { x with leaf := leaf, l1 := x.l1 ++ l1.toList.filter fun c => !x.l1.contains c }
    if x = y then lines else lines.map fun z => if z = x then y else z
  | none =>
    let x : Line := { post := post, asid := asid, va := va / 128, leaf := leaf, l1 := l1.toList }
    let copies := lines.filter fun y => y.home = x.home
    let ls := if copies.length < 4 then lines else eraseLast (fun y => y.home = x.home && !pinned y) lines
    let mine := ls.filter fun y => y.post = post
    x :: (if mine.length < lineCap then ls else eraseLast (fun y => y.post = post && !pinned y) ls)

/-- A command pins the line (R285). -/
def State.pinsLine (s : State) (x : Line) : Bool := s.held.any fun h => h.key < 64 && h.asid = x.asid && h.va = x.va

/-- A line of device memory that an access has brought in; no other memory is cached (R312). -/
def State.keep (s : State) (post : Nat) (asid : BitVec 16) (va : Nat) (leaf : Leaf) (l1 : Option Nat) : State :=
  if isHostPa (leafPa leaf va) then s else { s with lines := keepLine s.pinsLine s.lines post asid va leaf l1 }

/-- A write or atomic at `pa` through a virtual address recalls every other copy of the line before it is performed, those
that other cores hold in L1 among them (R272, R313). -/
def State.recallCopies (s : State) (post : Nat) (asid : BitVec 16) (va pa : Nat) (l1 : Option Nat) : State :=
  { s with lines := (s.lines.filter fun x => x.is post asid va || x.home ≠ pa / 128).map fun x =>
      if x.is post asid va then { x with l1 := x.l1.filter fun c => l1 = some c, dirty := true } else x }

/-- The leaf for an access: a line that L2 holds serves without a unit where it carries the permission and, for a
store, D (R269). -/
def translate (s : State) (post : Nat) (asid : BitVec 16) (ptroot : Word) (va kind : Nat) (handler : Bool) :
    Except Cause (State × Leaf) :=
  match s.lines.find? (fun l => l.post = post && l.va = va / 128 && (l.leaf.glob || l.asid = asid)) with
  | some l =>
    if (handler || pteU l.leaf.pte) && pteAllows l.leaf.pte kind && (!kindStores kind || pteD l.leaf.pte) then
      .ok (s, l.leaf)
    else translateUnit s post asid ptroot va kind handler
  | none => translateUnit s post asid ptroot va kind handler

end Sys2Proof.Machine
end

