-- ==== Sys2Proof/Machine/Capability.lean ====
section
/-! DEFINITION. The uncached read-only regions: the capability list (R398), the bank-availability map (R375) and the
status windows of the stacks (R362). -/

namespace Sys2Proof.Machine

/-- A number as `n` little-endian bytes. -/
def leBytes : Nat → Nat → List Byte
  | 0, _ => []
  | n + 1, v => BitVec.ofNat 8 v :: leBytes n (v / 256)

/-- The number in little-endian bytes. -/
def ofLeBytes : List Byte → Nat
  | [] => 0
  | b :: t => b.toNat + 256 * ofLeBytes t

/-- `n` bytes of a list from byte `k`, as a little-endian number; bytes beyond the list are zero. -/
def leAt (bs : List Byte) (k n : Nat) : Nat := ofLeBytes ((bs.drop k).take n)

/-- One record: its header and its body, padded to a multiple of 8 bytes; `next` says whether another follows. -/
def capRecord (off id : Nat) (last : Bool) (body : List Byte) : List Byte :=
  let pad := body ++ List.replicate ((8 - body.length % 8) % 8) 0
  let len := 8 + pad.length
  leBytes 2 id ++ [1, 0] ++ leBytes 2 len ++ leBytes 2 (if last then 0 else off + len) ++ pad

/-- The POOL entry of a core. -/
def poolEntry (c : Core) : List Byte :=
  [BitVec.ofNat 8 c.live, BitVec.ofNat 8 c.regmax, (~~~c.lacks).setWidth 8, 0]

/-- The 160 bytes of a seal policy that the sill has accepted (R401). -/
def policyBytes (p : SealPolicy) : List Byte :=
  leBytes 8 p.asid.toNat ++ leBytes 8 p.mcode.toNat ++ leBytes 8 p.mlen.toNat ++ p.mmeas ++ p.model ++
    List.replicate 72 0

/-- The bodies of the records, by ID from 0x0000 (R398). -/
def State.capBodies (s : State) : List (List Byte) :=
  [ leBytes 8 s.capGen.toNat ++ leBytes 2 s.moduleNo.toNat,
    leBytes 2 128 ++ [16, 4, 4],
    (List.range 128).flatMap (fun c => poolEntry (s.core c)),
    leBytes 2 0x2381 ++ [32, 128],
    leBytes 2 1023 ++ leBytes 2 1024 ++ leBytes 2 1025 ++ [0, 0] ++ leBytes 4 536870400,
    [64, 64] ++ leBytes 2 256,
    leBytes 2 120 ++ leBytes 4 0x00800000,
    [3, s.heatctl.field 32 8, s.heatctl.field 40 8],
    leBytes 8 s.bankmapVa.toNat ++ (List.range 8).flatMap (fun k => leBytes 8 (s.statusPa.toNat + 65536 * k)),
    leBytes 4 s.ports.toNat ++ [16],
    [s.pcie.setWidth 8],
    ((s.policies.map (fun p => sha256 (policyBytes p))).headD (List.replicate 32 0)) ++ leBytes 2 7856,
    [BitVec.ofNat 8 s.debugLevel],
    [32, 4, 20],
    [31, 7] ]

/-- The records laid out one after another. -/
def capLayout : Nat → Nat → List (List Byte) → List Byte
  | _, _, [] => []
  | off, id, b :: t =>
    let r := capRecord off id t.isEmpty b
    r ++ capLayout (off + r.length) (id + 1) t

/-- The capability list (R398): the records in ascending ID, each at the end of the one before (log entry 3). -/
def State.capList (s : State) : List Byte := capLayout 0 0 s.capBodies

/-- The bytes of the capability list's region. -/
def capBytes : Nat := 856

/-- The bits of a table of marks, from key `k0` on. -/
def markBits (t : Table Bool) (k0 n : Nat) (dflt : Bool) : Nat :=
  (List.range n).foldl (fun acc i => if (Table.get false t (k0 + i)) != dflt then acc + 2 ^ i else acc) 0

/-- One byte of the bank-availability map (R375, R376). -/
def State.mapByte (s : State) (o : Nat) : Byte :=
  if o < 8 then s.mapGen.field (8 * o) 8
  else if o < 16 then (BitVec.ofNat 64 s.liveCap).extractLsb' (8 * (o - 8)) 8
  else if o < 20 then (BitVec.ofNat 64 (16384 - s.dead.length)).extractLsb' (8 * (o - 16)) 8
  else if o < 64 then 0
  else
    let p := (o - 64) / 8
    let b := (o - 64) % 8
    if b < 4 then BitVec.ofNat 8 (markBits s.dead (32 * p + 8 * b) 8 true)
    else BitVec.ofNat 8 (markBits s.therm (32 * p + 8 * (b - 4)) 8 false)

/-- One byte of the status window of stack `k` (R362 to R366). -/
def State.statusByte (s : State) (k o : Nat) : Byte :=
  if o < 0x38 then (Table.get 0 s.counters (8 * k + o / 8)).field (8 * (o % 8)) 8
  else if 0x100 ≤ o && o < 0x140 then
    (Table.get 0x7F7F s.laneMaps (32 * k + (o - 0x100) / 2)).extractLsb' (8 * (o % 2)) 8
  else if 0x1000 ≤ o && o < 0x3000 then (Table.get 0 s.arrayLog (1024 * k + (o - 0x1000) / 8)).field (8 * (o % 8)) 8
  else if 0x3000 ≤ o && o < 0x5000 then (Table.get 0 s.busLog (1024 * k + (o - 0x3000) / 8)).field (8 * (o % 8)) 8
  else 0

end Sys2Proof.Machine
end

