-- ==== Sys2Proof/Machine/Memory.lean ====
section
/-! DEFINITION. Data accesses: the order of checks of R188, leases (R247, R278), seals (R403), the pool window (R174,
R175), and reading, writing and atomic operations at an access's home (R312). -/

namespace Sys2Proof.Machine

/-- On whose behalf an access is made: the core whose pool window it uses, the context, the level, and the launch whose
leases bind it. -/
structure Who where
  core : Nat
  asid : BitVec 16
  ptroot : Word
  handler : Bool
  /-- the launch whose held ranges are checked, none for an access that no lease binds -/
  launch : Option Nat := none
  /-- the agent: a hart by its number, 512 and a core's number for its engines, 640 the module itself, 641 the host or a
  peer -/
  agent : Nat := 640
  /-- the stream of the access (R26) -/
  strm : Nat := 0
  deriving DecidableEq, Repr

/-- The same, for an access in a stream. -/
def Who.on (w : Who) (strm : BitVec 3) : Who := { w with strm := strm.toNat }

/-- The post of a core (R2). -/
def postOf (core : Nat) : Nat := core / 64

/-- A task can still abort: it is BUFFERED and rerunnable, and has not begun its commit, which runs to completion once it has
started (R322, R341). -/
def Task.canAbort (t : Task) : Bool := t.buffered && !t.fixed && t.phase ≠ .commit

/-- The task of the access's core can still abort, so that an abort condition aborts it. -/
def State.aborts (s : State) (core : Nat) : Bool :=
  match (s.core core).task with
  | some t => t.canAbort
  | none => false

/-- A fault of an access of the kind. -/
def accFault (c : Cause) (kind : Nat) (va : Word) : AccFault := { cause := c, kind := kind, val := va }
/-- A fault that aborts a rerunnable BUFFERED task (R188, R190, R383): an access of the module itself aborts none. -/
def accAbort (s : State) (w : Who) (c : Cause) (kind : Nat) (va : Word) : AccFault :=
  { cause := c, kind := kind, val := va, abort := w.launch.isSome && s.aborts w.core }

/-! ## The pool window -/

/-- SPB (R174): the bytes of the local scratchpad. -/
def Core.spb (c : Core) (partw : BitVec 32) : Nat :=
  let gt := match c.task with | some t => t.gt | none => c.live
  65536 * (gt - rgran partw - agran partw - lendGran partw)

/-- PARTW in force on a core. -/
def Core.partw (c : Core) : BitVec 32 := match c.task with | some t => t.partw | none => 0x2002

/-- The bytes granted in a direction: 0 north, 1 east, 2 south, 3 west. -/
def Core.grantBytes (c : Core) (d : Nat) : Nat := 65536 * c.granted.getD d 0

/-- An offset lies in the local scratchpad or in a granted vestibule window (R174). -/
def Core.poolOk (c : Core) (o : Nat) : Bool :=
  o < c.spb c.partw ||
    (0x800000 ≤ o && o < 0x2800000 && o % 0x800000 < c.grantBytes (o / 0x800000 - 1))

/-- The vestibule window of an offset is void (R361). -/
def Core.poolVoid (c : Core) (o : Nat) : Bool := 0x800000 ≤ o && c.void.getLsbD (o / 0x800000 - 1)

/-- The 32-bit pool words that `n` bytes at an offset touch. -/
def poolWords (o n : Nat) : List Nat := (List.range ((o + n - 1) / 4 - o / 4 + 1)).map (· + o / 4)

/-- Every word is valid (R175). -/
def Core.poolValid (c : Core) (o n : Nat) : Bool := (poolWords o n).all (fun k => Table.get false c.valid k)

/-- Some word is poisoned (R382). -/
def Core.poolBad (c : Core) (o n : Nat) : Bool := (poolWords o n).any (fun k => Table.get false c.poolPoison k)

/-- Read `n` bytes of the pool: a byte of a word whose valid bit is clear reads as zero (R175). -/
def Core.poolRead (c : Core) (o : Nat) : Nat → Nat
  | 0 => 0
  | n + 1 => (if Table.get false c.valid (o / 4) then (Memory.byte c.pool o).toNat else 0) + 256 * c.poolRead (o + 1) n

/-- Make the touched words of a write valid, their other bytes zero where they were not (R175). -/
def Core.poolClaim (c : Core) (o n : Nat) : Core :=
  (poolWords o n).foldl (fun c k =>
    if Table.get false c.valid k then c
    else { c with valid := Table.set false c.valid k true, pool := Memory.store c.pool (4 * k) 4 0 }) c

/-- Write `n` bytes of the pool (R175); a word written whole is poisoned no longer (R382). -/
def Core.poolWrite (c : Core) (o n v : Nat) : Core :=
  let c := c.poolClaim o n
  let clean := (poolWords o n).foldl (fun t k => if o ≤ 4 * k && 4 * k + 4 ≤ o + n then Table.set false t k false else t)
    c.poolPoison
  { c with pool := Memory.store c.pool o n v, poolPoison := clean }

/-! ## Contexts, leases and seals -/

/-- A context has a seal policy (R402). -/
def State.sealedCtx (s : State) (asid : BitVec 16) : Bool := s.policies.any (fun p => p.asid = asid)

/-- A page of device memory is sealed (R402). -/
def State.pageSealed (s : State) (pa : Nat) : Bool := Table.get false s.sealed (pa / 4096)

/-- The held ranges of a launch (R247). -/
def State.heldBy (s : State) (l : Option Nat) : List Range :=
  match l with
  | none => []
  | some k => match Table.get none s.launches k with
    | some x => x.held
    | none => []

/-- The range contains the bytes. -/
def Range.has (r : Range) (va n : Nat) : Bool := r.base ≤ va && va + n ≤ r.base + r.len

/-- The lease row of R278 for `n` bytes at `va`: an access lies in a held range that holds all its bytes (log entry 93). -/
def leaseCheck (s : State) (w : Who) (kind : Nat) (va : Word) (n : Nat) : Except AccFault Unit :=
  let rs := s.heldBy w.launch
  if rs.isEmpty then .ok ()
  else if rs.any (fun r => r.has va.toNat n && (r.write || !kindStores kind)) then .ok ()
  else if rs.any (fun r => r.has va.toNat n) then .error (accFault .prot kind va)
  else .error (accAbort s w .lease kind va)

/-- The page at a physical address, host memory by its own numbers (R268), holds code of an attested mark kernel, so that a
write to it by any agent and through any address faults PROT (R404). -/
def State.markCode (s : State) (pa : Nat) : Bool :=
  s.launches.any fun e => match e.2 with
    | some l => l.attested && l.code.contains (pa / 4096)
    | none => false

/-- A write meets the code of an attested mark kernel. -/
def Place.isMarkCode (s : State) : Place → Bool
  | .dev pa => s.markCode pa
  | .host a => s.markCode (2 ^ 55 + a)
  | _ => false

/-- The access is one that a hart or an engine makes, of this module or of a peer: not one of the module itself. -/
def Who.unit (w : Who) : Bool := w.agent ≠ 640

/-- The seal row of R403: a hart or engine that acts for an unsealed context at a sealed page, and a hart of a sealed context
that stores to host or peer memory. A copy's source is checked by the copy (`copyElem`). -/
def sealCheck (s : State) (w : Who) (kind : Nat) (va : Word) (p : Place) : Except AccFault Unit :=
  match p with
  | .dev pa =>
    if w.unit && s.pageSealed pa && !s.sealedCtx w.asid then .error (accFault .seal kind va) else .ok ()
  | .host _ | .peer _ _ =>
    if w.agent < 512 && kindStores kind && s.sealedCtx w.asid then .error (accFault .seal kind va) else .ok ()
  | _ => .ok ()

/-- An address lies in a window. -/
def PeerWindow.has (w : PeerWindow) (va : Nat) : Bool :=
  w.base.toNat ≤ va && va < w.base.toNat + w.size.toNat * 2 ^ 32

/-- The peer window that an address lies in (R392); which of two that overlap is left open (log entry 28). -/
def State.windowOf (s : State) (va : Nat) : Option (Nat × PeerWindow) :=
  match s.pwin.filter (fun e => e.2.has va) with
  | [] => none
  | [w] => some w
  | w :: t => some ((w :: t).getD (Config.windowPick s.freeCount % (t.length + 1)) w)

/-- The address on the peer of an address in a window (R392). -/
def PeerWindow.onPeer (w : PeerWindow) (va : Nat) : Nat := (va - w.base.toNat + w.roff.toNat) % 2 ^ 64

/-- What the peer's tables give for an address on it, in the window's PASID. -/
def State.peerTables (s : State) (w : PeerWindow) (addr : Nat) : PeerAnswer :=
  Table.get (.fault .page) s.peerAns ((w.peer.toNat * 2 ^ 16 + w.pasid.toNat) * 2 ^ 52 + addr / 4096)

/-- Entries of the remote translation cache (R392). -/
def remoteCap : Nat := 4096

/-- The translation of an address on the peer of window `k`: as the remote translation cache holds it, or as the peer gives it,
which is then cached. A fault is not. -/
def State.remoteLeaf (s : State) (k : Nat) (w : PeerWindow) (addr : Nat) : Except Cause (State × PeerLeaf) :=
  match s.remote.find? fun e => e.win = k && e.page = addr / 4096 with
  | some e => .ok (s, e.leaf)
  | none => match s.peerTables w addr with
    | .fault c => .error c
    | .leaf l => .ok ({ s with remote := (⟨k, addr / 4096, l⟩ :: s.remote).take remoteCap }, l)

/-- A peer's entry allows an access of a kind at a level (R392). -/
def PeerLeaf.allows (l : PeerLeaf) (kind : Nat) (handler : Bool) : Bool :=
  (handler || l.u) && (match kind with
    | 1 => l.r
    | 2 => l.w
    | _ => l.r && l.w)

/-- The key in `peerMem` of an address on a peer that has been translated. -/
def peerKey (w : PeerWindow) (l : PeerLeaf) (addr : Nat) : Nat := w.peer.toNat * 2 ^ 64 + l.frame * 4096 + addr % 4096

/-- Where an access to window `k` is performed: at the peer's home, once the peer has translated the address (R392). A window
that is down asks nothing of its peer. -/
def peerPlace (s : State) (k : Nat) (win : PeerWindow) (kind : Nat) (va : Word) (handler : Bool) :
    Except AccFault (State × Place) :=
  let addr := win.onPeer va.toNat
  if !win.up then .ok (s, .peer k 0)
  else match s.remoteLeaf k win addr with
    | .error c => .error (accFault c kind va)
    | .ok (s, l) =>
      if l.allows kind handler then .ok (s, .peer k (peerKey win l addr)) else .error (accFault .prot kind va)

/-! ## The checks of an access, in the order of R188 -/

/-- Row 6: an atomic to host memory that R105 cannot send. -/
def atomHostBad (s : State) (op : AmoOp) (n : Nat) : Bool :=
  !(op = .add || op = .swap || op = .cas) || !s.pcie.getLsbD (if n = 8 then 1 else 0)

/-- What an access leaves in the caches (R196, R269, R272): a hart's brings its line into L2 and into L1 of its core, and an
engine's read into L2; a write recalls every other copy. What the module itself reads it does not keep. -/
def State.cacheLine (s : State) (w : Who) (kind : Nat) (va : Word) (l : Leaf) : State :=
  let l1 := if w.agent < 512 then some w.core else none
  let s := if w.agent < 512 || (w.agent < 640 && !kindStores kind) then s.keep (postOf w.core) w.asid va.toNat l l1 else s
  if kindStores kind then s.recallCopies (postOf w.core) w.asid va.toNat (leafPa l va.toNat) l1 else s

/-- Where a translated access to device or host memory is performed; PROT outside the live capacity (R266). -/
def placeOf (s : State) (kind : Nat) (va : Word) (n pa : Nat) : Except AccFault Place :=
  if isHostPa pa then .ok (.host (hostBus pa))
  else if pa + n ≤ s.liveCap then .ok (.dev pa)
  else if s.bankmapPa.toNat ≤ pa && pa + n ≤ s.bankmapPa.toNat + 4160 then
    (if kindStores kind then .error (accFault .prot kind va) else .ok (.map (pa - s.bankmapPa.toNat)))
  else if s.statusPa.toNat ≤ pa && pa + n ≤ s.statusPa.toNat + 8 * 65536 then
    (if kindStores kind then .error (accFault .prot kind va)
     else .ok (.status ((pa - s.statusPa.toNat) / 65536) ((pa - s.statusPa.toNat) % 65536)))
  else .error (accFault .prot kind va)

/-- Data of the place is kept in the caches: not that of the read-only regions. -/
def Place.cached : Place → Bool
  | .cap _ | .map _ | .status _ _ => false
  | _ => true

/-- Rows 8 to 10 of R188, once the place is known. -/
def dataCheck (s : State) (w : Who) (kind : Nat) (va : Word) (n : Nat) (p : Place) : Except AccFault Unit :=
  let reads := kind ≠ 2
  match p with
  | .pool c o =>
    let x := s.core c
    if x.poolVoid o then .error (accAbort s w .mchk kind va)
    else if reads && !x.poolValid o n && !uninitZero x.partw then .error (accFault .uninit kind va)
    else if reads && x.poolBad o n then .error (accAbort s w .mchk kind va)
    else .ok ()
  | .dev pa =>
    let failing := (burstsOf pa n).any fun k => Table.get false s.badBursts k
    let partialWrite := (wordsOf pa n).any fun k => Table.get false s.poison k && !(pa ≤ 8 * k && 8 * k + 8 ≤ pa + n)
    if failing || s.heldUp pa n || (reads && s.poisoned pa n) || partialWrite then .error (accFault .mchk kind va) else .ok ()
  | .host a =>
    match s.hostAnswer a with
    | .data => .ok ()
    | .error => .error (accFault .prot kind va)
    | .poison => if reads then .error (accFault .mchk kind va) else .ok ()
  | .peer win _ =>
    if (Table.get {} s.pwin win).up then .ok () else .error (accAbort s w .peerdn kind va)
  | _ => .ok ()

/-- A unit caches the ATS translation of the host page that an address of a context comes to (R390). -/
def State.atsHas (s : State) (u : Nat) (asid : BitVec 16) (va a : Nat) : Bool :=
  (s.unit u).ats.contains ⟨asid, va / 4096, a / 4096⟩

/-- With ATS enabled, the unit that translates an address asks for the translation of its host page and caches it, where the host
answers (R390). -/
def State.askAts (s : State) (w : Who) (va a : Nat) : State :=
  s.keepAts (unitOf (postOf w.core) va) w.asid va [2 ^ 55 + a]

/-- The same, for the place of an access. -/
def State.askFor (s : State) (w : Who) (va : Nat) : Place → State
  | .host a => s.askAts w va a
  | _ => s

/-- Rows 5 to 10 of R188 for `n` bytes at a place outside the pool window. -/
def rowsCheck (s : State) (w : Who) (kind : Nat) (va : Word) (n : Nat) (op : Option AmoOp) (p : Place) :
    Except AccFault Unit :=
  let lease : Except AccFault Unit := match p with
    | .map _ | .status _ _ => .ok ()
    | _ => if kindStores kind && p.isMarkCode s then .error (accFault .prot kind va)
           else leaseCheck s w kind va n
  match lease with
  | .error f => .error f
  | .ok _ =>
    let atom := match p, op with
      | .host _, some o => atomHostBad s o n
      | _, _ => false
    if atom then .error (accFault .atomhost kind va)
    else match sealCheck s w kind va p with
      | .error f => .error f
      | .ok _ => dataCheck s w kind va n p

/-- Rows 4 to 10 of R188 for `n` bytes at a canonical address outside the pool window. A status window is uncached (R362). -/
def memCheck (s : State) (w : Who) (kind : Nat) (va : Word) (n : Nat) (op : Option AmoOp) :
    Except AccFault (State × Place) :=
  if s.capbase.toNat ≤ va.toNat && va.toNat + n ≤ s.capbase.toNat + capBytes then
    (if kindStores kind then .error (accFault .prot kind va) else .ok (s, .cap (va.toNat - s.capbase.toNat)))
  else
    let found : Except AccFault (State × Place) :=
      match s.windowOf va.toNat with
      | some (k, win) => peerPlace s k win kind va w.handler
      | none =>
        match translate s (postOf w.core) w.asid w.ptroot va.toNat kind w.handler with
        | .error c => .error (accFault c kind va)
        | .ok (s, l) =>
          match placeOf s kind va n (leafPa l va.toNat) with
          | .error f => .error { f with walked := true }
          | .ok p => .ok ((if p.cached then s.cacheLine w kind va l else s).askFor w va.toNat p, p)
    match found with
    | .error f => .error f
    | .ok (s1, p) =>
      let seen := match p with
        | .dev pa => if s.blocking ≠ (s.past (postOf w.core) pa).blocking then { s1 with blocking := none } else s1
        | _ => s1
      match rowsCheck seen w kind va n op p with
      | .error f => .error { f with walked := true }
      | .ok _ => .ok (s1, p)

/-- An address lies in the pool window (R173). -/
def inPool (va : Word) : Bool := Config.pwBase ≤ va.toNat && va.toNat < Config.pwBase + Config.pwSize

/-- CheckElement (R188) for an aligned access of `n` bytes: the state with the page-table updates that the access's
walk makes, and the place. A pool-window address is never translated, and reaches the pool of the core whose hart or engine
gives it; the module itself has no pool (R323). -/
def checkAccess (s : State) (w : Who) (kind : Nat) (va : Word) (n : Nat) (op : Option AmoOp) :
    Except AccFault (State × Place) :=
  if !canonical va then .error (accFault .page kind va)
  else if va.toNat % n ≠ 0 then .error (accFault .prot kind va)
  else if inPool va then
    let o := va.toNat - Config.pwBase
    if w.agent = 640 || !(s.core w.core).poolOk o then .error (accFault .prot kind va)
    else match dataCheck s w kind va n (.pool w.core o) with
      | .error f => .error f
      | .ok _ => .ok (s, .pool w.core o)
  else memCheck s w kind va n op

/-! ## Performing an access -/

/-- Read `n` bytes at a place. A pool byte that is not valid reads zero. -/
def readPlace (s : State) (p : Place) (n : Nat) : Nat :=
  match p with
  | .pool c o => (s.core c).poolRead o n
  | .dev pa => Memory.load s.mem pa n
  | .host a => Memory.load s.hostMem a n
  | .peer _ a => Memory.load s.peerMem a n
  | .cap o => leAt s.capList o n
  | .map o => ofLeBytes ((List.range n).map fun k => s.mapByte (o + k))
  | .status k o => ofLeBytes ((List.range n).map fun i => s.statusByte k (o + i))

/-- The key in `wrote` of the 8-byte word at a place: device words by address, and host, pool and peer words from 2^60, 2^61 and
2^80 on. -/
def Place.key : Place → Option Nat
  | .dev a => some (a / 8)
  | .host a => some (2 ^ 60 + a / 8)
  | .pool c o => some (2 ^ 61 + c * 2 ^ 24 + o / 8)
  | .peer _ a => some (2 ^ 80 + a / 8)
  | _ => none

/-- The place of the 8-byte word that a place lies in, and the bytes before it there. -/
def Place.word : Place → Place × Nat
  | .dev a => (.dev (a / 8 * 8), a % 8)
  | .host a => (.host (a / 8 * 8), a % 8)
  | .pool c o => (.pool c (o / 8 * 8), o % 8)
  | .peer k a => (.peer k (a / 8 * 8), a % 8)
  | p => (p, 0)

/-- The last write of the word at a place. -/
def State.lastWrite (s : State) (p : Place) : Written :=
  match p.key with
  | some k => Table.get {} s.wrote k
  | none => {}

/-- An agent is about to write, in streams, the word at a place (R40, R209): a pool word that nothing has written before cannot be
missed. -/
def State.noteWrite (s : State) (agent : Nat) (strms : BitVec 8) (p : Place) : State :=
  let fresh := match p.word.1 with
    | .pool c o => !(s.core c).poolValid o 8
    | _ => false
  let x : Written := ⟨s.freeCount + 1, agent, readPlace s p.word.1 8, if fresh then 255 else strms⟩
  match p.key with
  | some k => { s with wrote := Table.set {} s.wrote k x }
  | none => s

/-- An agent has read the word at a place in a stream: the read follows the agent's own write of the word (R316). -/
def State.noteRead (s : State) (agent strm : Nat) (p : Place) : State :=
  match p.key with
  | some k =>
    let x := Table.get {} s.wrote k
    let y := { x with strms := x.strms ||| bitOf 8 strm }
    if x.at_ ≠ 0 && x.agent = agent then { s with wrote := Table.set {} s.wrote k y } else s
  | none => s

/-- Write `n` bytes at a place on behalf of `w`: a hart's or an engine's write for a sealed context seals the page (R402). -/
def writePlace (s0 : State) (w : Who) (p : Place) (n v : Nat) : State :=
  let s := s0.noteWrite w.agent (bitOf 8 w.strm) p
  match p with
  | .pool c o => s.setCore c ((s.core c).poolWrite o n v)
  | .dev pa =>
    let s := s.devWrite pa n v
    if w.unit && s.sealedCtx w.asid then { s with sealed := Table.set false s.sealed (pa / 4096) true } else s
  | .host a => { s with hostMem := Memory.store s.hostMem a n v }
  | .peer _ a => { s with peerMem := Memory.store s.peerMem a n v }
  | _ => s

/-- The place lies outside the pool window. -/
def Place.outside : Place → Bool
  | .pool _ _ => false
  | _ => true

/-- The place lies in host or peer memory, so that its access waits for the retire point (R185). -/
def Place.far : Place → Bool
  | .host _ | .peer _ _ => true
  | _ => false

/-- A task performs something that makes it unrerunnable (R341). -/
def State.fix (s : State) (core : Nat) : State :=
  match (s.core core).task with
  | some t => if t.canAbort then s.setCore core { s.core core with task := some { t with fixed := true } } else s
  | none => s

/-- A write of `w` at a place outside the pool window makes its task unrerunnable (R341); one of the module itself makes
none so. -/
def State.fixFor (s : State) (w : Who) (p : Place) : State := if p.outside && w.launch.isSome then s.fix w.core else s

/-- Log a read of an unwritten word under UNINIT 1 (R175). -/
def warnUninit (s : State) (w : Who) (va : Word) (p : Place) (n : Nat) : State :=
  match p with
  | .pool c o =>
    if (s.core c).poolValid o n then s else { s with warnings := s.warnings ++ [(w.core, .uninit va)] }
  | _ => s

/-- A load of `n` bytes at an aligned address: the state and the value (R188, R312). -/
def loadAt (s : State) (w : Who) (va : Word) (n : Nat) : Except AccFault (State × Nat) :=
  match checkAccess s w 1 va n none with
  | .error f => .error f
  | .ok (s, p) => .ok ((warnUninit s w va p n).noteRead w.agent w.strm p, readPlace s p n)

/-- A store of `n` bytes at an aligned address. A direct store of a BUFFERED task makes it unrerunnable (R102). -/
def storeAt (s : State) (w : Who) (va : Word) (n v : Nat) : Except AccFault State :=
  match checkAccess s w 2 va n none with
  | .error f => .error f
  | .ok (s, p) =>
    let s := writePlace s w p n v
    .ok (s.fixFor w p)

/-- The new value of an atomic (R103, R193): `m` the old value, `v` and `v2` the operands, at `8 * n` bits. -/
def amoNew (op : AmoOp) (n m v v2 : Nat) : Nat :=
  let w := 8 * n
  let v := v % 2 ^ w
  match op with
  | .add => (m + v) % 2 ^ w
  | .swap => v
  | .cas => if m = v then v2 % 2 ^ w else m
  | .min => if signedOf w m ≤ signedOf w v then m else v
  | .max => if signedOf w m ≤ signedOf w v then v else m
  | .and => m &&& v
  | .or => m ||| v
  | .xor => m ^^^ v

/-- An immediate atomic of `n` bytes: the state and the old value (R103 to R106). -/
def atomicAt (s : State) (w : Who) (op : AmoOp) (va : Word) (n v v2 : Nat) : Except AccFault (State × Nat) :=
  match checkAccess s w 3 va n (some op) with
  | .error f => .error f
  | .ok (s, p) =>
    let m := readPlace s p n
    let s := warnUninit s w va p n
    let s := writePlace s w p n (amoNew op n m v v2)
    .ok (s.fixFor w p, m)

/-- The check of a posted atomic that the commit queue is to perform later (R106, R195): the state and whether the place
lies outside the pool window. -/
def atomicCheck (s : State) (w : Who) (op : AmoOp) (va : Word) (n : Nat) : Except AccFault (State × Bool) :=
  match checkAccess s w 3 va n (some op) with
  | .error f => .error f
  | .ok (s, p) => .ok (s, p.outside)

/-- Read `n` bytes one at a time from an address, little-endian; the first faulting byte in address order faults (R100). -/
def loadBytesAt (s : State) (w : Who) (va : Word) : Nat → Except AccFault (State × Nat)
  | 0 => .ok (s, 0)
  | n + 1 =>
    match loadAt s w va 1 with
    | .error f => .error f
    | .ok (s, b) =>
      match loadBytesAt s w (va + 1) n with
      | .error f => .error (f.after va)
      | .ok (s, v) => .ok (s, b + 256 * v)

/-- Write `n` bytes one at a time: the state after the bytes below the first faulting one, and that byte's fault (R100). -/
def storeBytesAt (s : State) (w : Who) (va : Word) : Nat → Nat → State × Option AccFault
  | 0, _ => (s, none)
  | n + 1, v =>
    match storeAt s w va 1 (v % 256) with
    | .error f => (s, some f)
    | .ok s => storeBytesAt s w (va + 1) n (v / 256)

/-- A scalar load of `n` bytes: whole where it is aligned, otherwise as its bytes (R100). -/
def scalarLoad (s : State) (w : Who) (va : Word) (n : Nat) : Except AccFault (State × Nat) :=
  if va.toNat % n = 0 then loadAt s w va n else loadBytesAt s w va n

/-- A scalar store of `n` bytes: whole where it is aligned, otherwise as its bytes (R100). -/
def scalarStore (s : State) (w : Who) (va : Word) (n v : Nat) : State × Option AccFault :=
  if va.toNat % n = 0 then
    match storeAt s w va n v with
    | .ok s => (s, none)
    | .error f => (s, some f)
  else storeBytesAt s w va n v

/-- A run of `n` bytes from an address that the module reads as a whole for its own use (a descriptor, a packet, a record):
in aligned groups of `g` bytes. -/
def readRun (s : State) (w : Who) (va : Word) (g : Nat) : Nat → Except AccFault (State × List Byte)
  | 0 => .ok (s, [])
  | k + 1 =>
    match loadAt s w va g with
    | .error f => .error f
    | .ok (s, v) =>
      match readRun s w (va + BitVec.ofNat 64 g) g k with
      | .error f => .error (f.after va)
      | .ok (s, bs) => .ok (s, leBytes g v ++ bs)

/-- Write a run of bytes in aligned groups of `g`. -/
def writeRun (s : State) (w : Who) (va : Word) (g : Nat) : Nat → List Byte → State × Option AccFault
  | 0, _ => (s, none)
  | k + 1, bs =>
    match storeAt s w va g (leAt bs 0 g) with
    | .error f => (s, some f)
    | .ok s => writeRun s w (va + BitVec.ofNat 64 g) g k (bs.drop g)

/-- Who the hart numbered `k` is, for its own accesses. -/
def State.whoHart (s : State) (k : Nat) : Who :=
  let h := s.hart k
  { core := k / 4, asid := h.asid, ptroot := h.ptroot, handler := h.handler,
    launch := ((s.core (k / 4)).task).map Task.launch, agent := k }

/-- Who the hart whose word runs is. -/
def State.who (s : State) : Who := s.whoHart s.focus

/-- The module itself, for a context and bound by no lease: the arbiter, a walker, instruction fetch. -/
def whoCtx (core : Nat) (asid : BitVec 16) (ptroot : Word) (handler : Bool) : Who :=
  { core := core, asid := asid, ptroot := ptroot, handler := handler }

end Sys2Proof.Machine
end

