-- ==== Sys2Proof/Machine/ArrayLog.lean ====
section
/-! DEFINITION. The counters and the array error log of the stacks (R363, R364), and what an access that reads an uncorrectable
word leaves in them (R367, R369, R371). -/

namespace Sys2Proof.Machine

/-! ## Counters and logs (R363 to R365) -/

/-- Add one to a counter of a stack: 0 CECNT, 1 UECNT, 2 VRETRY, 3 VSWAP, 4 VFAIL, 5 AHEAD, 6 VHEAD. -/
def State.stackCount (s : State) (stack k : Nat) : State :=
  { s with counters := Table.set 0 s.counters (8 * stack + k) (Table.get 0 s.counters (8 * stack + k) + 1) }

/-- Four words of 8 bytes as an entry of a log, at the place that its head gives. -/
def logEntry (log : Table Word) (stack : Nat) (head : Word) (ws : List Nat) : Table Word :=
  let at_ := 1024 * stack + 4 * (head.toNat % 256)
  ws.zipIdx.foldl (fun t p => Table.set 0 t (at_ + p.2) (BitVec.ofNat 64 p.1)) log

/-- REFCNT bits 31:0 -/
def State.reflo (s : State) : Nat := s.refcnt % 2 ^ 32

/-- Write an array log entry (R364): whole, and then its head advances. -/
def logArray (s : State) (e : ArrayError) (corr : Nat) (kind bit : Nat) (wb : Bool) : State :=
  let w1 := e.pch % 2 * 2 ^ 40 + e.bank % 256 * 2 ^ 48 + kind * 2 ^ 56 + e.ch % 256 * 2 ^ 32 + s.reflo
  let w2 := e.row % 2 ^ 32 + e.col % 2 ^ 16 * 2 ^ 32 + e.word % 8 * 2 ^ 48 + bit % 256 * 2 ^ 56
  let w3 := (if wb then 1 else 0) + corr * 2 ^ 32
  let head := Table.get 0 s.counters (8 * e.stack + 5)
  { s with arrayLog := logEntry s.arrayLog e.stack head [e.paddr / 64 * 64, w1, w2, w3] }.stackCount e.stack 5

/-- The array word of an error: poisoned or good. -/
def markWord (s : State) (e : ArrayError) (bad : Bool) : State :=
  { s with poison := Table.set false s.poison (e.paddr / 64 * 8 + e.word % 8) bad }

/-! ## Uncorrectable reads (R367, R369, R371) -/

/-- An array error stands where its word lies (R377). -/
def placedError (e : ArrayError) (s : State) : ArrayError :=
  { s.wordPlace (e.paddr / 64 * 8 + e.word % 8) e.corr with bit := e.bit, writeFirst := e.writeFirst }

/-- The uncorrectable word `k` has been read: an entry of KIND 2 and UECNT, unless the base die has logged this read already
(HBM_ARRAY_READ). -/
def State.readBad (s : State) (corr : BitVec 32) (k : Nat) : State :=
  if Table.get false s.found k then { s with found := Table.set false s.found k false }
  else
    let e := s.wordPlace k corr
    (logArray s e corr.toNat 2 0xFF false).stackCount e.stack 1

/-- The uncorrectable page-table entry at which the walk of an address stops, if one does: its word. -/
def State.badEntry (s : State) (va : Nat) : Nat → Nat → List Nat
  | 0, _ => []
  | lvl + 1, t =>
    let a := t + 8 * vpn va lvl
    if !isHostPa a && s.poisoned a 8 then [a / 8]
    else match s.physRead a 8 with
      | .error _ => []
      | .ok x =>
        let pte : Word := BitVec.ofNat 64 x
        if pteV pte && !pteR pte && !pteW pte && !pteX pte then s.badEntry va lvl (ptePpn pte * 4096) else []

/-- The uncorrectable words of device memory that a read by `w` of the 8-byte word at `va` meets: in the walk, or there. -/
def State.badAt (s : State) (w : Who) (kind va : Nat) : List Nat :=
  match translate s (postOf w.core) w.asid w.ptroot va kind true with
  | .ok (_, l) =>
    let pa := leafPa l va
    if !isHostPa pa && Table.get false s.poison (pa / 8) then [pa / 8] else []
  | .error _ =>
    let f := walkStart (s.unit (unitOf (postOf w.core) va)) w.asid w.ptroot va
    s.badEntry va f.1 f.2.1

/-- An access by `w` of `n` bytes at `va` has met uncorrectable words: each is logged and counted, with the CORR of the command,
before its fault is reported (R369). -/
def State.logBad (s : State) (w : Who) (kind : Nat) (va : Word) (n : Nat) (corr : BitVec 32) : State :=
  if s.poison.isEmpty || inPool va then s
  else ((List.range ((va.toNat % 8 + n + 7) / 8)).flatMap fun i => s.badAt w kind (va.toNat / 8 * 8 + 8 * i)).foldl
    (State.readBad · corr) s

/-- The walk of an address for `w`, where it succeeds, with the updates of A and D that it makes (R266, R267). -/
def State.walkPage (s : State) (w : Who) (kind : Nat) (va : Word) : State :=
  if inPool va || (s.windowOf va.toNat).isSome then s
  else match translate s (postOf w.core) w.asid w.ptroot va.toNat kind w.handler with
    | .ok (t, _) => t
    | .error _ => s

/-- What the accesses of a faulting run have left in the page tables: the walks of the pages before the fault, and that of the
faulting address where it succeeded (R266, R267). -/
def State.keepWalks (s : State) (w : Who) (f : AccFault) : State :=
  let s1 := match f.first with
    | none => s
    | some a => (List.range (f.val.toNat / 4096 - a.toNat / 4096)).foldl (fun s k =>
        s.walkPage w f.kind (a + BitVec.ofNat 64 (4096 * k))) s
  if f.walked then s1.walkPage w f.kind f.val else s1

/-- What a fault of an access by `w` leaves: the walks that were made, and in the logs, where it is MCHK, the word at its
address. -/
def State.logFault (s : State) (w : Who) (f : AccFault) (corr : BitVec 32) : State :=
  let s := s.keepWalks w f
  if f.cause = .mchk && !f.inPlane then s.logBad w f.kind f.val 1 corr else s

/-! ## Lines that are lost (R382, R394) -/

/-- The 16 words of a line's home are poisoned. -/
def poisonHome (s : State) (x : Line) : State :=
  { s with poison := (List.range 16).foldl (fun t j => Table.set false t (16 * x.home + j) true) s.poison }

/-- The lines that a test names leave L2, where they stand alone or must: the dirty data of one that cannot be recovered, or
written back, is poisoned at its home (log entry 77). -/
def dropLines (s : State) (p : Line → Bool) : State :=
  let lost (x : Line) : Bool := p x && x.dirty && Config.lostLine s.freeCount x.home
  let s1 := (s.lines.filter lost).foldl poisonHome s
  { s1 with lines := s.lines.filter fun x => !p x, freeCount := s.freeCount + 1 }

/-- An uncorrectable error stands where the codes of R382 find it. The data of a clean line is dropped, that of a dirty one goes
home poisoned; a bad tag or directory entry recalls every copy of its line; another word is poisoned in place. -/
def upset (s : State) : Upset → State
  | .pool core word => s.setCore core { s.core core with poolPoison := Table.set false (s.core core).poolPoison word true }
  | .slice hart reg lane word =>
    let h := s.hart hart
    let k := 16 * reg + lane
    let x := Table.get {} h.vec.v k
    let y := { x with poison := x.poison ||| BitVec.ofNat 32 (2 ^ (word % 32)) }
    s.setHart hart { h with vec := { h.vec with v := Table.set {} h.vec.v k y } }
  | .tile core acc elem =>
    let c := s.core core
    let t := Table.get {} c.tiles acc
    s.setCore core { c with tiles := Table.set {} c.tiles acc { t with poison := Table.set false t.poison elem true } }
  | .line k => match s.lines[k]? with
    | none => s
    | some x => { (if x.dirty then poisonHome s x else s) with lines := s.lines.eraseIdx k }
  | .entry k => match s.lines[k]? with
    | none => s
    | some x => dropLines s fun y => y.home = x.home

/-- CORR of the task that a core runs. -/
def State.corrOf (s : State) (core : Nat) : BitVec 32 := ((s.core core).task.map Task.corr).getD 0

end Sys2Proof.Machine
end

