-- ==== Sys2Proof/Machine/Trace.lean ====
section
/-! DEFINITION. Records that the module writes for the host: the event ring (R387, R388) and trace sessions (R408 to
R410). -/

namespace Sys2Proof.Machine

/-- A context (log entry 4). -/
def State.context (s : State) (asid : BitVec 16) : Context := Table.get {} s.contexts asid.toNat

/-- A queue. -/
def State.queue (s : State) (q : Nat) : Queue := Table.get {} s.queues q
/-- Replace a queue. -/
def State.setQueue (s : State) (q : Nat) (x : Queue) : State := { s with queues := Table.set {} s.queues q x }
/-- A launch in flight. -/
def State.launch (s : State) (l : Nat) : Option Launch := Table.get none s.launches l
/-- Replace a launch; none removes it. -/
def State.setLaunch (s : State) (l : Nat) (x : Option Launch) : State := { s with launches := Table.set none s.launches l x }

/-- REFCNT as a 64-bit value. -/
def State.ref (s : State) : Word := BitVec.ofNat 64 s.refcnt

/-- The codes of R133. -/
def Cause.code : Cause → Nat
  | .ill => 0x01
  | .hdr => 0x02
  | .page => 0x03
  | .prot => 0x04
  | .lease => 0x05
  | .uninit => 0x06
  | .empty => 0x07
  | .loopovf => 0x08
  | .stkflt => 0x09
  | .retempty => 0x0A
  | .range => 0x0B
  | .mchk => 0x0C
  | .brk => 0x0D
  | .trapi => 0x0E
  | .peerdn => 0x0F
  | .seal => 0x10
  | .atomhost => 0x11

/-- Write one record to the event ring (R387): dropped and counted while the ring is full or disabled. -/
def postEvent (s : State) (kind : Nat) (corr : BitVec 32) (b16 b24 : Nat) : State :=
  if s.erbase = 0 || 2 ^ s.ersize ≤ (s.erhead - s.ertail).toNat then { s with erdropped := s.erdropped + 1 }
  else
    let at_ := s.erbase.toNat + 32 * (s.erhead.toNat % 2 ^ s.ersize)
    let bytes := leBytes 1 kind ++ leBytes 1 (min s.erdropped 255) ++ [0, 0] ++ leBytes 4 corr.toNat ++
      leBytes 8 s.refcnt ++ leBytes 8 b16 ++ leBytes 8 b24
    { s with hostMem := Memory.storeBytes s.hostMem at_ bytes, erhead := s.erhead + 1, erdropped := 0,
             msix := s.msix ++ [0] }

/-- The source codes of R409. -/
inductive TraceSrc where
  | hart (slot : Nat)
  | matrix
  | copy
  | temporal
  | sill
  deriving DecidableEq, Repr

/-- The byte SRCH (R409). -/
def TraceSrc.byte : TraceSrc → Nat
  | .hart k => 64 * k
  | .matrix => 1
  | .copy => 2
  | .temporal => 3
  | .sill => 4

/-- Write a record to the session of queue `q` (R409); for a sealed context its payload is zero, and nothing is written where the
context's address faults (R407). -/
def traceRecord (s : State) (q kind : Nat) (src : TraceSrc) (core : Nat) (corr : BitVec 32) (p0 p1 : Nat) : State :=
  match (s.queue q).trace with
  | none => s
  | some t =>
    let x := s.queue q
    let hide := s.sealedCtx x.asid
    let bytes := [BitVec.ofNat 8 kind, BitVec.ofNat 8 src.byte] ++ leBytes 2 core ++ leBytes 4 corr.toNat ++
      leBytes 8 s.refcnt ++ leBytes 8 (if hide then 0 else p0) ++ leBytes 8 (if hide then 0 else p1)
    let va := t.base + BitVec.ofNat 64 (32 * (t.count % 2 ^ t.log))
    let s := s.setQueue q { x with trace := some { t with count := t.count + 1 } }
    (writeRun s (whoCtx core x.asid (s.context x.asid).ptroot true) va 8 4 bytes).1

/-- A record of an event: in D1 and D2 none is produced (R407). -/
def traceWrite (s : State) (q kind : Nat) (src : TraceSrc) (core : Nat) (corr : BitVec 32) (p0 p1 : Nat) : State :=
  if 2 ≤ s.pstate then s else traceRecord s q kind src core corr p0 p1

/-- The session option bits of TOPT (R408): 0 MARK, 1 engines, 2 tasks and traps, 3 CLAIM, 4 STOP. -/
def traceOpt (s : State) (q bit : Nat) : Bool :=
  match (s.queue q).trace with
  | some t => t.opt / 2 ^ bit % 2 = 1 && 1 ≤ s.debugLevel
  | none => false

/-- Close the session of a queue (R410): the closing record carries the records written before it, the reason and
TRUNCATED. It is written in every power state from which a session can close: D1 and D2 stop the records of events alone. -/
def closeTrace (s : State) (q reason : Nat) (truncated : Bool) (corr : BitVec 32) : State :=
  match (s.queue q).trace with
  | none => s
  | some t =>
    let s1 := traceRecord s q 11 .sill 0 corr t.count (256 * reason + if truncated then 1 else 0)
    s1.setQueue q { s1.queue q with trace := none }

/-- The launch of the task that a core holds. -/
def State.coreLaunch (s : State) (core : Nat) : Option Launch :=
  match (s.core core).task with
  | some t => s.launch t.launch
  | none => none

/-- Write a record for a core's task where its queue's session has the option. -/
def traceTask (s : State) (core bit kind : Nat) (src : TraceSrc) (p0 p1 : Nat) : State :=
  match s.coreLaunch core with
  | some l => if traceOpt s l.queue bit then traceWrite s l.queue kind src core l.corr p0 p1 else s
  | none => s

end Sys2Proof.Machine
end

