-- ==== Sys2Proof/Machine/Owned.lean ====
section
/-! DEFINITION. The lines that engines own and pin (R209, R217, R285, R320, R405): the reads of an engine, the descriptors of
tiles and copies (R216, R229), and the bytes that a started command is still to write. -/

namespace Sys2Proof.Machine

/-! ## Engine accesses -/

/-- Who a command accesses memory as. -/
def State.whoCmd (s : State) (core : Nat) (x : Command) : Who :=
  { core := core, asid := x.asid, ptroot := x.ptroot, handler := x.handler,
    launch := ((s.core core).task).map Task.launch, agent := 512 + core }

/-- The next naturally aligned piece of `n` bytes at an address: 8, 4, 2 or 1 bytes. -/
def pieceOf (va : Word) (n : Nat) : Nat :=
  if va.toNat % 8 = 0 && 8 ≤ n then 8 else if va.toNat % 4 = 0 && 4 ≤ n then 4
  else if va.toNat % 2 = 0 && 2 ≤ n then 2 else 1

/-- Read a piece of `k` bytes byte by byte, so that a fault names the first faulting byte (R289). -/
def readPiece (s : State) (w : Who) (va : Word) (k : Nat) : Except AccFault (State × Nat) :=
  match loadAt s w va k with
  | .ok r => .ok r
  | .error f => if k = 1 then .error f else match loadBytesAt s w va k with
    | .error g => .error g
    | .ok _ => .error f

/-- Read `n` bytes from an address, whatever its alignment. -/
def engineRead (s : State) (w : Who) : Nat → Word → Nat → Except AccFault (State × List Byte)
  | 0, _, _ => .ok (s, [])
  | fuel + 1, va, n =>
    if n = 0 then .ok (s, [])
    else
      let k := pieceOf va n
      match readPiece s w va k with
      | .error f => .error f
      | .ok (s, v) =>
        match engineRead s w fuel (va + BitVec.ofNat 64 k) (n - k) with
        | .error f => .error (f.after va)
        | .ok (s, bs) => .ok (s, leBytes k v ++ bs)

/-- Read a run of `n` bytes. -/
def readBytes (s : State) (w : Who) (va : Word) (n : Nat) : Except AccFault (State × List Byte) := engineRead s w n va n

/-! ## Tile descriptors (R216, R217) -/

/-- A tile descriptor (R216). -/
structure TileDesc where
  base : Word
  coef : List Int
  rows : Nat
  cols : Nat
  rstride : Int
  fmt : Nat
  loc : Bool
  gsz : Nat
  spdest : Nat
  qscale : Word
  qzero : Word
  deriving DecidableEq, Repr

/-- A signed 32-bit field at a byte of a structure. -/
def i32At (bs : List Byte) (k : Nat) : Int := signedOf 32 (leAt bs k 4)

/-- A 64-bit field at a byte of a structure. -/
def w64At (bs : List Byte) (k : Nat) : Word := BitVec.ofNat 64 (leAt bs k 8)

/-- The fields of 64 bytes. -/
def tileDesc (bs : List Byte) : TileDesc :=
  { base := w64At bs 0, coef := (List.range 6).map fun j => i32At bs (8 + 4 * j), rows := leAt bs 32 2, cols := leAt bs 34 2,
    rstride := i32At bs 36, fmt := leAt bs 40 1 % 16, loc := leAt bs 40 1 / 16 % 2 = 1, gsz := leAt bs 41 1 % 4,
    spdest := leAt bs 44 4, qscale := w64At bs 48, qzero := w64At bs 56 }

/-- A descriptor is well formed: reserved fields zero, a format of R54, and the Q4 fields zero unless FMT is Q4 (R216,
R218). -/
def tileDescOk (bs : List Byte) : Bool :=
  let d := tileDesc bs
  leAt bs 40 1 / 32 = 0 && leAt bs 41 1 / 4 = 0 && leAt bs 42 2 = 0 && d.fmt < 14
    && (if d.fmt = 7 then d.qscale.toNat % 2 = 0 else d.qscale = 0 && d.qzero = 0 && d.gsz = 0)

/-- Where a tile starts (R217): in the scratchpad, or at BASE and the loop indices of task start. -/
def TileDesc.start (d : TileDesc) (x : List Word) : Word :=
  if d.loc then BitVec.ofNat 64 (Config.pwBase + d.spdest)
  else (List.range 6).foldl (fun a j => a + BitVec.ofInt 64 (d.coef.getD j 0) * x.getD j 0) d.base

/-- The first byte of row `i`. -/
def TileDesc.row (d : TileDesc) (x : List Word) (i : Nat) : Word := d.start x + BitVec.ofInt 64 (d.rstride * i)

/-- Bytes of a row. -/
def TileDesc.rowBytes (d : TileDesc) : Nat := (d.cols * fmtBits d.fmt + 7) / 8

/-- The loop indices that a core's task received at its start. -/
def State.indices (s : State) (core : Nat) : List Word := ((s.core core).task.map Task.x).getD []

/-! ## Copy descriptors (R229, R231) -/

/-- A copy descriptor. -/
structure CopyDesc where
  src : Word
  dst : Word
  xaddr : Word
  maddr : Word
  n0 : Nat
  n1 : Nat
  n2 : Nat
  ss1 : Int
  ss2 : Int
  ds1 : Int
  ds2 : Int
  fmt : Nat
  red : Nat
  digest : Bool
  follow : Bool
  nopre : Bool
  dl2 : Bool
  smask : Nat
  deriving DecidableEq, Repr

/-- The fields of 64 bytes. -/
def copyDesc (bs : List Byte) : CopyDesc :=
  let opt := leAt bs 57 1
  { src := w64At bs 0, dst := w64At bs 8, xaddr := w64At bs 16, maddr := w64At bs 24, n0 := leAt bs 32 4, n1 := leAt bs 36 2,
    n2 := leAt bs 38 2, ss1 := i32At bs 40, ss2 := i32At bs 44, ds1 := i32At bs 48, ds2 := i32At bs 52,
    fmt := leAt bs 56 1 % 16, red := opt % 4, digest := opt / 4 % 2 = 1, follow := opt / 8 % 2 = 1,
    nopre := opt / 16 % 2 = 1, dl2 := opt / 32 % 2 = 1, smask := leAt bs 58 1 }

/-- The copy is an index copy: CPYG or CPYS. -/
def isIndexed : Instr → Bool
  | .cpyg .. | .cpys .. => true
  | _ => false

/-- A descriptor is well formed (R231). -/
def copyDescOk (i : Instr) (bs : List Byte) : Bool :=
  let d := copyDesc bs
  1 ≤ d.n0 && d.n0 ≤ 2 ^ 24 && d.n1 ≠ 0 && d.n2 ≠ 0 && leAt bs 56 1 < 14 && d.fmt ≠ 7 && d.fmt ≠ 13
    && leAt bs 57 1 < 64 && leAt bs 59 5 = 0 && d.red ≠ 3
    && (d.red ≠ 1 || d.fmt = 10 || d.fmt = 8) && (d.red ≠ 2 || d.fmt = 11)
    && (match i with | .cfill .. => d.red = 0 | _ => true) && (!isIndexed i || d.n2 = 1)
    && (if d.digest then d.xaddr.toNat % 32 = 0 else d.xaddr = 0)
    && (if d.follow then d.maddr.toNat % 64 = 0 else d.maddr = 0)

/-- Entry `r` of the index list. -/
def copyIndex (x : Command) (r : Nat) : Int := i32At x.descB (4 * r)

/-- The first source byte of row `r` of plane `p`. -/
def copySource (x : Command) (d : CopyDesc) (p r : Nat) : Word :=
  let k : Int := match x.instr with | .cpyg .. => copyIndex x r | _ => r
  d.src + BitVec.ofInt 64 (p * d.ss2 + k * d.ss1)

/-- The first destination byte of row `r` of plane `p`. -/
def copyDest (x : Command) (d : CopyDesc) (p r : Nat) : Word :=
  let k : Int := match x.instr with | .cpys .. => copyIndex x r | _ => r
  d.dst + BitVec.ofInt 64 (p * d.ds2 + k * d.ds1)

/-- Bytes of a row. -/
def CopyDesc.rowBytes (d : CopyDesc) : Nat := d.n0 * (fmtBits d.fmt / 8)

/-- The rows of a copy, plane by plane. -/
def CopyDesc.rows (d : CopyDesc) : List (Nat × Nat) :=
  (List.range d.n2).flatMap fun p => (List.range d.n1).map fun r => (p, r)

/-! ## Lines that are still to be written (R320) -/

/-- The bytes that a copy is still to write, from element `pos` on: the rest of its row, the later rows, and its digest. A
reduce copy owns none (R281). -/
def copySpans (x : Command) (d : CopyDesc) : List (Word × Nat) :=
  if d.red ≠ 0 then []
  else
    let n := fmtBits d.fmt / 8
    let skip := x.pos % d.n0 * n
    let rows := (d.rows.drop (x.pos / d.n0)).map fun a => (copyDest x d a.1 a.2, d.rowBytes)
    let rest := match rows with
      | [] => []
      | r :: t => (r.1 + BitVec.ofNat 64 skip, r.2 - skip) :: t
    rest ++ (if d.digest && x.pos ≤ d.n0 * d.n1 * d.n2 then [(d.xaddr, 32)] else [])

/-- The bytes that a started command is still to write: a command that has not read its descriptor yet is to write where
the descriptor, as it stands, says. -/
def Command.spans (s : State) (core : Nat) (x : Command) : List (Word × Nat) :=
  let w := s.whoCmd core x
  let desc : Option (List Byte) :=
    if x.stage = .run then some x.descA else match readBytes s w x.va 64 with
      | .ok r => some r.2
      | .error _ => none
  if !(x.stage = .desc || x.stage = .run) then []
  else match x.instr with
    | .cpy .. | .cpyg .. | .cpys .. | .cfill .. => match desc with
      | some bs =>
        let list := if x.stage = .run || !isIndexed x.instr then .ok (s, x.descB)
          else readBytes s w x.vb (4 * (copyDesc bs).n1)
        match list with
        | .ok (_, l) => if copyDescOk x.instr bs then copySpans { x with descB := l } (copyDesc bs) else []
        | .error _ => []
      | none => []
    | .mconv .. => match desc with
      | some bs =>
        let d := tileDesc bs
        let done := x.pos % d.cols * fmtBits d.fmt / 8
        let row (i skip : Nat) : Word × Nat := (d.row (s.indices core) i + BitVec.ofNat 64 skip, d.rowBytes - skip)
        (List.range (d.rows - x.pos / d.cols)).map fun k => row (x.pos / d.cols + k) (if k = 0 then done else 0)
      | none => []
    | .aspill .. =>
      if x.pos = 0 then [(x.va, 64 + 256 * 512)]
      else [(x.va + BitVec.ofNat 64 (64 + 4 * (x.pos - 1)), 4 * (32769 - x.pos))]
    | _ => []

/-- The numbers of the lines that `n` bytes at `va` touch. -/
def linesOf (va n : Nat) : List Nat := (List.range ((va + n - 1) / 128 - va / 128 + 1)).map (· + va / 128)

/-- The number at its home of the line of an address: device and host lines by their physical address, and a peer's line
from 2^73 on. The pool window has no lines, and an address that an access of the kind cannot reach has none. -/
def State.lineAt (s : State) (w : Who) (kind : Nat) (va : Word) : Option Nat :=
  if inPool va || !canonical va then none
  else match s.windowOf va.toNat with
    | some (k, win) => match peerPlace s k win kind va w.handler with
      | .ok (_, .peer _ a) => some (2 ^ 73 + a / 128)
      | _ => none
    | none => match translate s (postOf w.core) w.asid w.ptroot va.toNat kind w.handler with
      | .ok (_, l) => some (leafPa l va.toNat / 128)
      | .error _ => none

/-- The lines of some bytes, each with its virtual number. -/
def State.linesAt (s : State) (w : Who) (kind : Nat) (va : Word) (n : Nat) : List (Nat × Nat) :=
  if n = 0 then []
  else (linesOf va.toNat n).filterMap fun k => (s.lineAt w kind (BitVec.ofNat 64 (128 * k))).map fun p => (k, p)

/-- The command owns the line at home number `p`. -/
def Command.owns (s : State) (core : Nat) (x : Command) (p : Nat) : Bool :=
  (x.spans s core).any fun r => (s.linesAt (s.whoCmd core x) 2 r.1 r.2).any fun k => k.2 = p

/-- Some engine owns the line. -/
def State.engineOwns (s : State) (p : Nat) : Bool :=
  s.cores.any fun c => c.2.slots.any fun e => match e.2 with
    | some x => x.owns s c.1 p
    | none => false

/-- Transfers go as they should: no access waits at the stacks. -/
def State.busClear (s : State) : Bool := s.bursts.isEmpty && s.chanHold.isEmpty && s.queued.isEmpty

/-- An access of `n` bytes at `va` needs a line that no L2 of its post holds, and a burst of it whose transfer is being repeated or
whose channel holds new requests (R368). -/
def State.busWaits (s : State) (w : Who) (kind : Nat) (va : Word) (n : Nat) : Bool :=
  if s.busClear then false
  else (s.linesAt w kind va n).any fun k =>
    !isHostPa (128 * k.2) && k.2 < 2 ^ 73 && !(s.lines.any fun x => x.post = postOf w.core && x.home = k.2)
      && (List.range 2).any fun j =>
        let place := s.wordPlace (8 * (2 * k.2 + j)) 0
        va.toNat / 64 ≤ 2 * k.1 + j && 2 * k.1 + j ≤ (va.toNat + n - 1) / 64
          && (s.bursts.any (fun b => b.paddr / 64 = 2 * k.2 + j) || Table.get false s.chanHold (chanKey place.stack place.ch))

/-- No line of the module is held against an access. -/
def State.nothingHeld (s : State) : Bool := s.held.isEmpty && s.cores.all fun c => c.2.slots.isEmpty

/-- Some line of the module may be held. -/
def State.anyHeld (s : State) : Bool :=
  !s.held.isEmpty || s.cores.any fun c => c.2.slots.any fun e => match e.2 with
    | some x => !(x.spans s c.1).isEmpty
    | none => false

/-- An access of a hart or a peer waits: an engine owns a line of its bytes (R320), a STAMP owns one (R405), or it would
write one that operands pin (R285). Lines are told apart by where they lie, whatever the address they are met by. -/
def State.recalled (s : State) (w : Who) (kind : Nat) (va : Word) (n : Nat) : Bool :=
  if s.nothingHeld then false
  else (s.linesAt w kind va n).any fun k =>
    s.engineOwns k.2 || s.held.any fun h => h.pa = k.2 && (64 ≤ h.key || kindStores kind)

/-- A command, or a stamp, holds lines no more. -/
def State.release (s : State) (core key : Nat) : State :=
  { s with held := s.held.filter fun h => !(h.core = core && h.key = key) }

/-- The bytes of a line at its home. -/
def State.lineBytes (s : State) (p : Nat) : Nat :=
  if 2 ^ 73 ≤ p then Memory.load s.peerMem (128 * (p - 2 ^ 73)) 128
  else if isHostPa (128 * p) then Memory.load s.hostMem (hostBus (128 * p)) 128
  else Memory.load s.mem (128 * p) 128

/-- The places of the 16 words of a line at its home. -/
def lineWords (p : Nat) : List Place :=
  (List.range 16).map fun j =>
    if 2 ^ 73 ≤ p then .peer 0 (128 * (p - 2 ^ 73) + 8 * j)
    else if isHostPa (128 * p) then .host (hostBus (128 * p) + 8 * j) else .dev (128 * p + 8 * j)

/-- No line that stays held has been written, with other bytes or with the same: what would write one waits (R285, R405). -/
def State.keepsHeld (s t : State) : Bool :=
  s.held.all fun h => !t.held.contains h || (s.lineBytes h.pa = t.lineBytes h.pa &&
    (lineWords h.pa).all fun p => (s.lastWrite p).at_ = (t.lastWrite p).at_)

end Sys2Proof.Machine
end

