-- ==== Sys2Proof/Machine/Window.lean ====
section
/-! DEFINITION. The words between the retire point and the dispatch point of a hart: what a lane instruction reads and writes,
the register plane with the results in flight (R253), and the bytes that words in flight may still access (R184, R316). -/

namespace Sys2Proof.Machine

/-! ## The instruction as dispatched -/

/-- The element width of the instruction. -/
def LaneInstr.ew (i : LaneInstr) : Nat := ewOf i.vtype

/-- VLMAX under the instruction's VTYPE. -/
def LaneInstr.vlm (i : LaneInstr) : Nat := vlmax i.vtype

/-- The rounding of the instruction. -/
def LaneInstr.rnd (i : LaneInstr) : Rnd := rndOf i.vtype

/-- Element `e` is active (R146) and not skipped (R191). -/
def LaneInstr.active (i : LaneInstr) (v : View) (e : Nat) : Bool :=
  e < i.vl && v.vec.maskBit i.mask.toNat e && !i.skip.getLsbD e

/-- The active elements, ascending. -/
def LaneInstr.actives (i : LaneInstr) (v : View) : List Nat := (List.range i.vl).filter (i.active v)

/-! ## What a lane instruction reads and writes -/

/-- The register sources of an instruction that works element by element. -/
def elemSources : Job → List VOp
  | .arith op _ va vb vc => match op with
    | .abs | .neg | .sqrt | .exp2 | .not | .cvt => [va]
    | .fma | .fms | .fnma | .clamp => [va, vb, vc]
    | _ => [va, vb]
  | .cmp _ _ va vb => [va, vb]
  | .sel _ va vb _ => [va, vb]
  | .mov _ va => [va]
  | .movToMask _ va => [va]
  | _ => []

/-- The operands of an instruction, sources and destinations. -/
def operands : Job → List VOp
  | .arith op vd va vb vc => vd :: elemSources (.arith op vd va vb vc)
  | .cmp _ _ va vb => [va, vb]
  | .sel vd va vb _ => [vd, va, vb]
  | .mov vd va => [vd, va]
  | .movFromMask vd _ => [vd]
  | .movToMask _ va => [va]
  | .splat vd _ => [vd]
  | .iota vd _ => [vd]
  | .extr _ va _ _ => [va]
  | .ins vd _ _ => [vd]
  | .perm vd va vb => [vd, va, vb]
  | .slide _ vd va _ => [vd, va]
  | .red _ vd va vb | .scan vd va vb => [vd, va, vb]
  | .compress vd va => [vd, va]
  | .mem k ad vt _ _ _ =>
    (match k with | .prefetch _ => [] | _ => [vt]) ++ (match ad with | .indexed vi _ => [vi] | _ => [])
  | .append vt _ _ _ _ => [vt]
  | _ => []

/-- A rendezvous point (R147, R179): carried out as a whole when every lane has arrived. -/
def isRendezvous (j : Job) : Bool :=
  match j with
  | .iota .. | .popm .. | .first .. | .perm .. | .slide .. | .red .. | .scan .. | .compress .. | .spill .. | .fill ..
  | .append .. | .defer .. | .drain .. => true
  | j => (operands j).any fun o => o.dir ≠ .row

/-- The vector destination of a job that names one operand. -/
def jobDest : Job → Option VOp
  | .arith _ vd _ _ _ | .sel vd _ _ _ | .mov vd _ | .movFromMask vd _ | .splat vd _ | .iota vd _ | .ins vd _ _
  | .perm vd _ _ | .slide _ vd _ _ | .red _ vd _ _ | .scan vd _ _ | .compress vd _ => some vd
  | .mem (.load _ _) _ vt _ _ _ | .mem (.atomic _ false) _ vt _ _ _ => some vt
  | _ => none

/-- The registers that an operand names in a vector of `vl` elements: its row, or the rows that a column or diagonal crosses. -/
def opRegs (o : VOp) (vl : Nat) : List Nat := if o.dir = .row then [o.idx.toNat] else List.range vl

/-- The registers that an instruction writes, and so makes alive (R31): VFE.EMPTY and VFE.FULL count as writes (log entry 89). -/
def jobRegs (j : Job) (vl : Nat) : List Nat :=
  match j with
  | .fill first n _ => (List.range n).map (first + ·)
  | .drain k first _ => (List.range k).map (first + ·)
  | .vfe _ first n => (List.range n).map (first + ·)
  | j => match jobDest j with
    | some o => opRegs o vl
    | none => []

/-- The mask register that an instruction writes. -/
def jobMask : Job → Option MReg
  | .cmp _ md _ _ | .movMask md _ | .movToMask md _ | .setMask md _ | .maskLogic _ md _ _ | .vfeTest md _
  | .defer _ md _ _ _ => some md
  | _ => none

/-- The mask registers that an instruction reads besides its governing mask. -/
def jobMaskSources : Job → List MReg
  | .sel _ _ _ mk => [mk]
  | .movMask _ ma | .movFromMask _ ma | .iota _ ma | .popm _ ma | .first _ ma => [ma]
  | .maskLogic _ _ ma mb => [ma, mb]
  | _ => []

/-- The instruction accesses memory element by element. -/
def isMem : Job → Bool
  | .mem .. => true
  | _ => false

/-- The instruction acts as a whole on memory or on the deferral queue, when every older word has retired. -/
def isWhole : Job → Bool
  | .spill .. | .fill .. | .append .. | .defer .. | .drain .. | .dqCount _ | .dqFree _ | .dqClear _ => true
  | _ => false

/-- Its lanes hold its accesses for the retire point (R185). -/
def isStoreClass : Job → Bool
  | .mem .store _ _ _ _ _ | .mem (.atomic _ _) _ _ _ _ _ => true
  | _ => false

/-- A result that is known only at the retire point: an immediate vector atomic's (R185). -/
def isLateResult : Job → Bool
  | .mem (.atomic _ false) _ _ _ _ _ => true
  | _ => false

/-- The vector registers that a command writes (R211, R225, R235). -/
def Command.regs (x : Command) : List Nat :=
  match x.instr with
  | .mconvV _ _ _ vo _ _ => (List.range x.vc.toNat).map (vo.idx.toNat + ·)
  | .tcapt vo _ | .tcaptFirstk _ vo _ => [vo.idx.toNat]
  | _ => []

/-- A word that goes to the lanes: a lane instruction, or the marker of a command that names a vector destination (R248). -/
def InFlight.broadcast (f : InFlight) : Bool :=
  f.li.isSome || match f.cmd with
    | some x => !x.regs.isEmpty
    | none => false

/-- The words between the retire point and the dispatch point, headers excluded (R250). -/
def Hart.inWindow (h : Hart) : Nat := (h.window.filter fun f => !f.header).length

/-! ## Destinations of follow-on commands (R232) -/

/-- The hart uses registers: the contents of those whose follow-on command it has not acquired are undefined, and so is what
that command is still to deliver. -/
def Hart.meet (h : Hart) (key : Nat) (regs : List Nat) : Hart :=
  if h.foreign.any fun f => regs.contains f.reg then
    { h with
      foreign := h.foreign.map fun f => if regs.contains f.reg then { f with touched := true } else f
      vec := (h.foreign.filter fun f => regs.contains f.reg).foldl (fun v f => v.lose key f.reg) h.vec }
  else h

/-- The hart acquires barrier `bar`, which has completed so many phases: the follow-on commands whose arrivals came in one of
them are acquired, and a register that was used before stays undefined. -/
def Hart.acquire (h : Hart) (key bar phases : Nat) : Hart :=
  let mine (f : Foreign) : Bool := f.bar = bar && f.phase.any fun p => p < phases
  { h with
    foreign := h.foreign.filter fun f => !mine f
    vec := (h.foreign.filter fun f => mine f && f.touched).foldl (fun v f => v.lose key f.reg) h.vec }

/-- A follow-on command in a slot has arrived on its barrier: the phase of its arrival is noted, and of a register that the hart
has used the delivery is undefined. -/
def Hart.arrived (h : Hart) (key slot phase : Nat) : Hart :=
  let mine (f : Foreign) : Bool := f.key = slot && f.phase.isNone
  { h with
    foreign := h.foreign.map fun f => if mine f then { f with phase := some phase } else f
    vec := (h.foreign.filter fun f => mine f && f.touched).foldl (fun v f => v.lose key f.reg) h.vec }

/-! ## Results in flight -/

/-- A change that is undefined, with the free values of a key (R143, log entry 9). -/
def freeWrite (key : Nat) : VWrite → VWrite
  | .elem reg e bytes _ t => .elem reg e bytes ((Config.modeResult key (2048 * reg + e)).toNat % 2 ^ (8 * bytes)) t
  | .maskBit m e _ => .maskBit m e ((Config.modeResult key (2 ^ 17 + 2048 * m + e)).getLsbD 0)
  | .fullBit reg lane _ => .fullBit reg lane ((Config.modeResult key (2 ^ 18 + 16 * reg + lane)).getLsbD 0)
  | .fresh reg lane => .fresh reg lane
  | .mask m _ => .mask m (BitVec.ofNat 2048 ((Config.modeResult key (2 ^ 22 + 2 * m)).toNat * 2 ^ 1024
      + (Config.modeResult key (2 ^ 22 + 2 * m + 1)).toNat))

/-- The changes that a word in flight makes, where `ws` is what it has computed. -/
def InFlight.results (f : InFlight) (ws : List VWrite) : List VWrite :=
  match f.undef with
  | none => ws
  | some key => ws.map (freeWrite key)

/-- The register plane with the results that the first `n` words of the window hold (R253). -/
def Hart.planeAt (h : Hart) (n : Nat) : Vec :=
  (h.window.take n).foldl (fun v f => f.lanes.foldl (fun v r => v.applyAll (f.results r.writes)) v) h.vec

/-- What the lane instruction at place `n` reads. -/
def Hart.viewAt (h : Hart) (n : Nat) (i : LaneInstr) : View := ⟨h.planeAt n, i.dead, i.deadZero⟩

/-- One lane's record. -/
def InFlight.lane (f : InFlight) (l : Nat) : LaneRec := f.lanes.getD l { stage := .finished }

/-- The lane has finished the instruction (R256). -/
def InFlight.laneDone (f : InFlight) (l : Nat) : Bool := (f.lane l).stage = .finished

/-- A stage at which the lane has stopped with a fault. -/
def LaneStage.bad : LaneStage → Option AccFault
  | .faulted f => some f
  | _ => none

/-- The elements of a lane among the active ones. -/
def laneElems (i : LaneInstr) (v : View) (l : Nat) : List Nat := (i.actives v).filter fun e => e % 16 = l

/-- A lane that has not produced what it will write (R253). -/
def InFlight.unsettled (f : InFlight) (l : Option Nat) : Bool :=
  match f.li with
  | none => true
  | some i =>
    isLateResult i.job || f.lanes.isEmpty ||
      (match l with
       | some l => if isRendezvous i.job then (List.range 16).any fun l => !f.laneDone l else !f.laneDone l
       | none => (List.range 16).any fun l => !f.laneDone l)

/-- An older word leaves a register or mask unsettled that a younger one needs in lane `l`, or in some lane (R253). -/
def InFlight.blocks (f : InFlight) (regs : List Nat) (masks : List MReg) (l : Option Nat) : Bool :=
  let mine := match f.li, f.cmd with
    | some i, _ => (jobRegs i.job i.vl).any regs.contains || (jobMask i.job).any masks.contains
    | none, some c => c.regs.any regs.contains
    | none, none => false
  mine && f.unsettled l

/-! ## The bytes that a word in flight may still access -/

/-- The address of element `e` (R181, R193, R196). -/
def elemAddr (i : LaneInstr) (v : View) (e : Nat) : Word :=
  match i.job with
  | .mem _ ad _ mw base stride =>
    match ad with
    | .unit => base + BitVec.ofNat 64 (e * mw)
    | .strided => base + BitVec.ofNat 64 e * stride
    | .indexed vi scaled =>
      base + BitVec.ofInt 64 (signedOf i.ew (v.src vi i.vlm e i.ew)) * (if scaled then BitVec.ofNat 64 mw else 1)
  | _ => 0

/-- The bytes of one register's record in a spill frame (R197). -/
def LaneInstr.recordBytes (i : LaneInstr) : Nat := (i.vl * i.ew + 511) / 512 * 64

/-- The registers that hold an instruction's element indices (R181). -/
def indexRegs (i : LaneInstr) : List Nat :=
  match i.job with
  | .mem _ (.indexed vi _) _ _ _ _ => if vi.dir = .row then [vi.idx.toNat] else List.range i.vl
  | _ => []

/-- No older word may still change the mask bit of an element in lane `l` of the instruction at place `n`. -/
def Hart.maskKnown (h : Hart) (n l : Nat) (i : LaneInstr) : Bool :=
  (h.window.take n).all fun f => !f.blocks [] [i.mask] (some l)

/-- No older word may still change the address of an element in lane `l` of the instruction at place `n`. -/
def Hart.addrKnown (h : Hart) (n l : Nat) (i : LaneInstr) : Bool :=
  (h.window.take n).all fun f => !f.blocks (indexRegs i) [] (if (indexRegs i).length = 1 then some l else none)

/-- Element `e` of a memory instruction has still to be accessed: a load element until its lane has read it, a store-class
element until it retires (R185). -/
def InFlight.owes (f : InFlight) (i : LaneInstr) (e : Nat) : Bool :=
  let r := f.lane (e % 16)
  isStoreClass i.job || f.lanes.isEmpty || r.stage = .queued || r.stage = .arrived || r.todo.contains e

/-- The elements of the memory instruction at place `n` that may still be accessed: those that are active, and those of which that
is not known yet. -/
def Hart.mayTouch (h : Hart) (n : Nat) (f : InFlight) (i : LaneInstr) : List Nat :=
  let v := h.viewAt n i
  let open_ := (List.range 16).map fun l => !h.maskKnown n l i
  (List.range i.vl).filter fun e =>
    f.owes i e && (i.active v e || (open_.getD (e % 16) true && !i.skip.getLsbD e))

/-- The bytes that the word at place `n` may still access; none where they are not known yet: an index has not been computed, or
the tail of a VAPPEND not been advanced. -/
def Hart.touches (h : Hart) (n : Nat) (f : InFlight) : Option (List Touch) :=
  match f.li with
  | none =>
    some ((f.load.map fun x => ⟨16, x.strm, x.addr, x.bytes⟩).toList ++ f.touch.toList
      ++ (f.spill.map fun x => ⟨17, 0, x.1, x.2.length⟩).toList)
  | some i =>
    let allDone := f.lanes.length = 16 && f.lanes.all fun r => r.stage = .finished
    match i.job with
    | .mem (.prefetch _) .. => some []
    | .mem _ _ _ mw _ _ =>
      if allDone && !isStoreClass i.job then some []
      else
        let es := h.mayTouch n f i
        if es.any fun e => !h.addrKnown n (e % 16) i then none
        else some (es.map fun e => ⟨e % 16, i.strm, elemAddr i (h.viewAt n i) e, mw⟩)
    | .spill _ k _ a | .fill _ k a => if allDone then some [] else some [⟨17, i.strm, a, 64 + k * i.recordBytes⟩]
    | .append .. => if allDone then some [] else none
    | _ => some []

/-- Two runs of bytes share one. -/
def overlaps (a : Word) (m : Nat) (b : Word) (n : Nat) : Bool := a.toNat < b.toNat + n && b.toNat < a.toNat + m

/-- The byte at its home of an address: in memory by its line there, and in the pool window from 2^81 on. -/
def State.homeByte (s : State) (w : Who) (va : Word) : Option Nat :=
  let at_ (p : Nat) : Nat := 128 * p + va.toNat % 128
  if inPool va then some (2 ^ 81 + va.toNat)
  else match s.lineAt w 1 va with
    | some p => some (at_ p)
    | none => (s.lineAt w 2 va).map at_

/-- The runs of bytes at their homes of `n` bytes at an address, page by page. -/
def State.homeRuns (s : State) (w : Who) (a : Word) (n : Nat) : List (Nat × Nat) :=
  (List.range ((a.toNat % 4096 + n + 4095) / 4096)).filterMap fun k =>
    let lo := if k = 0 then a.toNat else (a.toNat / 4096 + k) * 4096
    let hi := min (a.toNat + n) ((a.toNat / 4096 + k + 1) * 4096)
    (s.homeByte w (BitVec.ofNat 64 lo)).map fun p => (p, hi - lo)

/-- Two runs of bytes share one, by the same addresses or by others that are mapped to it (R272, R316). -/
def State.shares (s : State) (w : Who) (a : Word) (m : Nat) (b : Word) (n : Nat) : Bool :=
  let onePage := a.toNat / 4096 = b.toNat / 4096 && a.toNat % 4096 + m ≤ 4096 && b.toNat % 4096 + n ≤ 4096
  overlaps a m b n || (!onePage && (s.homeRuns w a m).any fun p => (s.homeRuns w b n).any fun q =>
    p.1 < q.1 + q.2 && q.1 < p.1 + p.2)

/-- The stream of the accesses of a word in flight. -/
def InFlight.strm (f : InFlight) : BitVec 3 :=
  match f.li, f.load, f.touch with
  | some i, _, _ => i.strm
  | _, some x, _ => x.strm
  | _, _, some t => t.strm
  | _, _, _ => 0

/-- A word in flight with a load or an immediate atomic, whose value is still to be bound (R124). -/
def InFlight.binds (f : InFlight) : Bool :=
  match f.li, f.held with
  | some i, _ => match i.job with
    | .mem .store _ _ _ _ _ | .mem (.atomic _ true) _ _ _ _ _ | .spill .. => false
    | _ => true
  | none, some (.st .., _) | none, some (.amoP .., _) => false
  | none, some _ => true
  | none, none => f.load.isSome

/-- Some word older than place `n`, of those that `p` tells, has still to make an access. -/
def Hart.owing (h : Hart) (n : Nat) (p : InFlight → Bool) : Bool :=
  (h.window.take n).zipIdx.any fun x => p x.1 && h.touches x.2 x.1 ≠ some []

/-- The word at place `n` orders a younger access in a stream after older accesses that have still to be made (R124, R125,
R317). -/
def Hart.bars (h : Hart) (n : Nat) (f : InFlight) (strm : BitVec 3) : Bool :=
  match f.order with
  | none => false
  | some (.full _) => h.owing n fun _ => true
  | some .acq => h.owing n InFlight.binds
  | some (.sbar m) => m.getLsbD strm.toNat && h.owing n fun g => m.getLsbD g.strm.toNat
  | some .test => true

/-- The per-location order of R184, the order of one lane and stream, and that of the fences in flight let an access of hart `k`
be performed ahead of the words older than place `n`. -/
def State.mayAccess (s : State) (k n lane : Nat) (strm : BitVec 3) (a : Word) (bytes : Nat) : Bool :=
  let h := s.hart k
  (h.window.take n).zipIdx.all fun p => !h.bars p.2 p.1 strm && match h.touches p.2 p.1 with
    | none => false
    | some ts => ts.all fun t => !(t.lane = lane && t.strm = strm) && !s.shares (s.whoHart k) t.addr t.bytes a bytes

/-- Some word in flight leaves mask register `m` unsettled. -/
def Hart.maskOpen (h : Hart) (m : MReg) : Bool := m ≠ 0 && h.window.any fun f => f.blocks [] [m] none

/-- The access kind, width and operation of an element access. -/
def elemKind (j : Job) : Nat × Nat × Option AmoOp :=
  match j with
  | .mem (.load _ _) _ _ mw _ _ => (1, mw, none)
  | .mem .store _ _ mw _ _ => (2, mw, none)
  | .mem (.atomic op _) _ _ mw _ _ => (3, mw, some op)
  | _ => (1, 1, none)

end Sys2Proof.Machine
end

