-- ==== Sys2Proof/Machine/Ops.lean ====
section
/-! DEFINITION. The operations that the meanings share: leaving a word, retiring it, control transfers and their checks
(R27 to R40), taking a trap (R132) and returning from one (R135, R38), ending a task (R340 to R342), the return store
(R110), and the mask stack (R114 to R116). -/

namespace Sys2Proof.Machine

/-! ## Barriers (R236) -/

/-- A barrier of a core. -/
def Core.barAt (c : Core) (n : Nat) : Barrier := Table.get {} c.bars n
/-- Replace a barrier. -/
def Core.setBar (c : Core) (n : Nat) (b : Barrier) : Core := { c with bars := Table.set {} c.bars n b }

/-- The state word of a barrier (R236). -/
def Barrier.word (b : Barrier) : Word :=
  BitVec.ofNat 64 (b.fcode.toNat * 2 ^ 48 + (if b.err then 2 ^ 33 else 0) + (if b.phase then 2 ^ 32 else 0)
    + b.expect * 2 ^ 16 + b.arrived)

/-- The barriers of a mask that have changed phase since they had completed `phases` or show an error (R127). -/
def wfeEvents (c : Core) (mask : Word) (phases : List Nat) : Word :=
  (List.range 64).foldl (fun acc n =>
    if mask.getLsbD n && ((c.barAt n).epoch ≠ phases.getD n 0 || (c.barAt n).err) then acc ||| bitOf 64 n else acc) 0

/-! ## The end of a task -/

/-- The edge neighbour of a core in a direction: 0 north, 1 east, 2 south, 3 west (R2). -/
def neighbour (c d : Nat) : Option Nat :=
  match d with
  | 0 => if 8 ≤ c then some (c - 8) else none
  | 1 => if c % 8 < 7 then some (c + 1) else none
  | 2 => if c < 120 then some (c + 8) else none
  | _ => if 0 < c % 8 then some (c - 1) else none

/-- The direction from the neighbour back. -/
def opposite (d : Nat) : Nat := (d + 2) % 4

/-- Set one place of a list. -/
def setAt (l : List Nat) (k v : Nat) : List Nat := l.set k v

/-- End the grants that a core's task holds: the granules return to their lenders (R359). -/
def endGrants (s : State) (core : Nat) : State :=
  (List.range 4).foldl (fun s d =>
    match neighbour core d with
    | some n =>
      let x := s.core n
      s.setCore n { x with lent := setAt x.lent (opposite d) 0, fresh := setAt x.fresh (opposite d) 0 }
    | none => s) s

/-- Discard the commands in a core's slots; a parked one leaves an entry in the warning ring (R243). A running MTILE asks
the slew limiter for its stop (R302), and no line stays pinned by one. -/
def dropCommands (s : State) (core : Nat) : State :=
  let c := s.core core
  let warn := c.slots.filterMap fun e => match e.2 with
    | some x => if x.stage = .parked then some (core, Warning.parked (e.1 / 16) (e.1 % 16)) else none
    | none => none
  let ends (st : Stage) := c.slots.filterMap fun e => match e.2 with
    | some x => if x.stage = st then some (core, x.quarters) else none
    | none => none
  { s.setCore core { c with slots := [], morder := [], torder := [], follows := [] } with
    warnings := s.warnings ++ warn, starts := (ends .starting).foldl List.erase s.starts, stops := s.stops ++ ends .kstep,
    held := s.held.filter fun o => o.core ≠ core || 64 ≤ o.key }

/-- The task names a barrier (R327). -/
def Core.use (c : Core) (bar : Nat) : Core := { c with used := setBit c.used bar true }
/-- The task names the barriers of a mask. -/
def Core.useAll (c : Core) (mask : Word) : Core := { c with used := c.used ||| mask }

/-- Release a core: its harts, its grants and its pool (step 4 of R340). -/
def releaseCore (s : State) (core : Nat) : State :=
  let s := dropCommands s core
  let s := endGrants s core
  let s := (List.range 4).foldl (fun s k => s.setHart (4 * core + k) { s.hart (4 * core + k) with
    status := .idle, window := [], recorded := none, wait := none, commitQ := [],
    seq := { (s.hart (4 * core + k)).seq with late := [] } }) s
  s.setCore core { s.core core with task := none, granted := [0, 0, 0, 0], void := 0, valid := [], pool := [] }

/-- The cores that hold a task of a launch. -/
def State.coresOf (s : State) (l : Nat) : List Nat :=
  (List.range 128).filter fun c => ((s.core c).task.map Task.launch) = some l

/-- A task that has been readied and has not started (R344). -/
def Task.waits (t : Task) : Bool := t.phase = .staging || t.phase = .ready

/-- Note the first failure of a launch: the walker starts no further task (R342, R343). -/
def failLaunch (s : State) (l code : Nat) : State :=
  match s.launch l with
  | some x =>
    let s := s.setLaunch l (some { x with failure := some (x.failure.getD code), walkDone := true })
    (s.coresOf l).foldl (fun s c => match (s.core c).task with
      | some t => if t.waits then releaseCore s c else s
      | none => s) s
  | none => s

/-- Put an iteration back into a launch's queue, in ascending n. -/
def requeue (s : State) (l : Nat) (it : Iteration) : State :=
  match s.launch l with
  | some x =>
    let lo := x.waiting.filter (fun j => j.n < it.n)
    let hi := x.waiting.filter (fun j => it.n < j.n)
    s.setLaunch l (some { x with waiting := lo ++ it :: hi })
  | none => s

/-- A core's task ends faulted (R342): the event, the launch's first failure, and the core's release. -/
def endFaulted (s : State) (core hart code : Nat) : State :=
  match (s.core core).task with
  | some t =>
    let s := traceTask s core 2 5 (.hart (hart % 4)) t.n (s.hart hart).wcount.toNat
    let s := postEvent s 2 t.corr hart t.n
    releaseCore (failLaunch s t.launch code) core
  | none => s.setHart hart { s.hart hart with status := .idle, window := [], recorded := none, wait := none }

/-- One normal arrival, as far as the barrier itself goes (R237). -/
def Barrier.arrive (b : Barrier) : Barrier :=
  if b.arrived + 1 = b.expect then { b with arrived := 0, phase := !b.phase, epoch := b.epoch + 1 } else { b with arrived := b.arrived + 1 }

/-- Several normal arrivals at a barrier of a core, of which no term takes notice. -/
def Core.arrive (c : Core) (bar : Nat) : Nat → Core
  | 0 => c
  | k + 1 => (c.setBar bar (c.barAt bar).arrive).arrive bar k

/-- A core without what a task on it has done since its harts started: its barriers hold what they held then and what other
cores' arrivals have made of them, and the temporal array is as it was (R322, R341). -/
def Core.without (c : Core) (t : Task) : Core :=
  t.came.foldl (fun c a => c.arrive a.1 a.2)
    { c with bars := t.bars, temporal := t.temporal, tiles := [], truss := [], pending := [] }

/-- A task's arrivals on their way, its LEASEX requests and the ranges that LEASEX has given it are gone. -/
def forgetTask (s : State) (t : Task) : State :=
  let s1 := match s.launch t.launch with
    | some l => s.setLaunch t.launch (some { l with held := l.held.filter fun r => !(r.extra && r.task = t.n) })
    | none => s
  { s1 with leasexs := s1.leasexs.filter fun r => !(r.launch = t.launch && r.n = t.n),
            arrivals := s1.arrivals.filter fun a => !(a.launch = some t.launch && a.n = t.n) }

/-- A rerunnable BUFFERED task aborts: every effect is discarded and its iteration is requeued (R341). -/
def abortTask (s : State) (core : Nat) : State :=
  match (s.core core).task with
  | some t =>
    let s1 := releaseCore s core
    let s2 := if t.waits then s1 else
      (List.range 4).foldl (fun s k => s.setHart (4 * core + k) {}) (s1.setCore core ((s1.core core).without t))
    requeue (forgetTask s2 t) t.launch { n := t.n, x := t.x, lev := t.lev, since := s.clock }
  | none => s

/-! ## Headers and targets -/

/-- A block header (R28). -/
def isHeader (w : Word) : Bool := w.field 58 6 = 63

/-- LEN -/
def hLen (w : Word) : Nat := (w.field 50 8).toNat
/-- VHW -/
def hVhw (w : Word) : Nat := (w.field 44 6).toNat
/-- SHW -/
def hShw (w : Word) : Nat := (w.field 39 5).toNat
/-- RECONV -/
def hReconv (w : Word) : BitVec 16 := w.field 23 16

/-- The checks of R30 on a header word. -/
def headerOk (regs : Nat) (wide : Bool) (w : Word) : Bool :=
  hLen w ≠ 0 && w.field 0 5 = 0 && (2 ≤ (w.field 21 2).toNat || w.field 5 16 = 0)
    && (hVhw w < regs || (regs = 0 && hVhw w = 0)) && (!wide || hVhw w ≤ 15) && hShw w ≠ 0

/-- Who a hart is as a fetcher of words: bound by no lease (R247). -/
def State.fetcher (s : State) (k : Nat) : Who := { s.whoHart k with launch := none }

/-- The narrowest scope of R25 whose observers, counted from hart `k`, include an agent (R314). -/
def scopeOf (k agent : Nat) : Nat :=
  if agent = k then 0
  else if agent < 512 && agent / 4 = k / 4 then 1
  else if agent = 512 + k / 4 then 2
  else if agent < 640 then
    (if postOf (if agent < 512 then agent / 4 else agent - 512) = postOf (k / 4) then 3 else 4)
  else agent - 636

/-- The word at a physical address has been written, and hart `k` has not gone through R40's sequence since (log entry
49). -/
def State.staleAt (s : State) (k pa : Nat) : Bool :=
  let x := s.lastWrite (if isHostPa pa then .host (hostBus pa) else .dev pa)
  (s.hart k).synced.getD (scopeOf k x.agent) 0 < x.at_

/-- Fetch the 8 bytes at an address for execution (R15, R35, R37): PAGE where it is not canonical, and then HDR where it is
misaligned (log entry 91); a page without X, the pool window, a peer window and the read-only regions give PROT; a sealed page
gives an unsealed context PROT. The line comes into L2. -/
def fetchAt (s : State) (k : Nat) (a : Word) : Except AccFault (State × Word) :=
  let w := s.fetcher k
  if !canonical a then .error (accFault .page 0 a)
  else if a.toNat % 8 ≠ 0 then .error (accFault .hdr 0 a)
  else if inPool a || (s.windowOf a.toNat).isSome || (s.capbase.toNat ≤ a.toNat && a.toNat < s.capbase.toNat + capBytes) then
    .error (accFault .prot 0 a)
  else match translate s (postOf w.core) w.asid w.ptroot a.toNat 0 w.handler with
    | .error c => .error (accFault c 0 a)
    | .ok (s, l) =>
      let pa := leafPa l a.toNat
      if !isHostPa pa && s.pageSealed pa && !s.sealedCtx w.asid then .error { accFault .prot 0 a with walked := true }
      else match (s.past (postOf w.core) pa).physRead pa 8 with
        | .error c => .error { accFault c 0 a with walked := true }
        | .ok x =>
          let s1 := (if isHostPa pa then s.askAts w a.toNat (hostBus pa) else s).keep (postOf w.core) w.asid a.toNat l none
          .ok (s1, if s.staleAt k pa then Config.staleCode s.freeCount pa else BitVec.ofNat 64 x)

/-- The hart's vector register count in its present mode. -/
def State.regsOf (s : State) (k : Nat) : Nat :=
  regCount (s.hart k).partw (s.core (k / 4)).regmax (wideOf (s.grantOf k).vtype)

/-- A header word passes R30 for a hart. -/
def State.headerOk (s : State) (k : Nat) (w : Word) : Bool :=
  Sys2Proof.Machine.headerOk (s.regsOf k) (wideOf (s.grantOf k).vtype) w

/-! ## Stopping, waiting and retiring -/

/-- Why a word does not complete: a trap, or a wait. -/
inductive Stop where
  | trap (t : Trap)
  | wait (w : Wait)
  deriving DecidableEq, Repr

/-- What a word does: a state in which it has completed, or a stop with the state it leaves. -/
abbrev Out := Except (Stop × State) State

/-- A trap precise on the word at the dispatch point (R42). -/
def State.trapHere (s : State) (f : AccFault) : Trap := { fault := f, epc := s.cur.seq.pc, blk := s.cur.seq.blk }

/-- The word stops with a fault of its own. -/
def fail (s : State) (f : AccFault) : Out := .error (.trap (s.trapHere f), s)

/-- The word at the dispatch point, read again for TVAL (R42). -/
def State.word (s : State) : Word :=
  match fetchAt s s.focus s.cur.seq.pc with
  | .ok (_, w) => w
  | .error _ => 0

/-- ILL on the word: TVAL is the word (R42). -/
def ill (s : State) : Out := fail s { cause := .ill, kind := 0, val := s.word }
/-- PROT at rank 3: TVAL is the word (R42). -/
def privileged (s : State) : Out := fail s { cause := .prot, kind := 0, val := s.word }

/-- The hart waits; it tries the word again later. -/
def State.hold (s : State) (w : Wait) : State := s.setCur { s.cur with wait := some w }

/-- Some of the registers await a late result (R94). -/
def State.busy (s : State) (rs : List SReg) : Bool :=
  let q := s.cur.seq
  rs.any fun r => !q.deadS.getLsbD r.toNat && q.late.any fun e => e.1 = r.toNat

/-- The sequencer's state at the word after this one: the next word of the block, or the header at the fall-through. -/
def Seq.next (q : Seq) : Seq :=
  if q.pc = q.blk + BitVec.ofNat 64 (8 * q.len) then { q with pc := q.pc + 8, arriving := true }
  else { q with pc := q.pc + 8 }

/-- The fall-through address of the present block (R29). -/
def Seq.fallThrough (q : Seq) : Word := q.blk + BitVec.ofNat 64 (8 * (q.len + 1))

/-- The dispatch point moves past the word. -/
def State.pass (s : State) : State := s.setCur { s.cur with seq := s.cur.seq.next }

/-- The dispatch point moves to the header at `t`. -/
def State.goto (s : State) (t : Word) : State := s.setCur { s.cur with seq := { s.cur.seq with pc := t, arriving := true } }

/-- The hart has synchronised: its earlier stores are ordered before its later commands (R316, R317). -/
def State.sync (s : State) : State := s.setCur { s.cur with released := s.freeCount }

/-- A control transfer to the header at `t`: what was written before the hart's last FENCE is fetched from there on (R40). -/
def State.jump (s : State) (t : Word) : State :=
  let h := (s.goto t).cur
  s.setCur { h with synced := h.fenced }

/-- The grant that hart `k` publishes takes its place in the order of R141 (R251); the hart reads its own later write,
if one is still to retire. -/
def publishGrant (s : State) (k : Nat) (g : Option Grant) : State :=
  match g with
  | some g => s.setCore (k / 4) { s.core (k / 4) with grant := g }
  | none => s

/-- The retire point passes a word of hart `k`: WCOUNT counts it (R257). -/
def retireCount (s : State) (k : Nat) : State :=
  s.setHart k { s.hart k with wcount := (s.hart k).wcount + 1, lastRetire := s.clock }

/-- The word that ran from `s0` has been executed, leaving `s`: it retires, publishing the grant `g` if it wrote one, or
waits for older lane work, with the spill access `spill` held for the retire point (R250, R257). -/
def finish (s0 s : State) (g : Option Grant := none) (spill : Option (Word × List Byte) := none) : State :=
  let h := s.cur
  let k := s.focus
  let h1 := { h with wait := none, skip := 0, resume := none }
  if s0.cur.window.isEmpty then
    publishGrant (retireCount (s.setHart k { h1 with seq := { h1.seq with ownGrant := none } }) k) k g
  else
    let f : InFlight := { li := none, before := s0.cur.seq, flags := h.vflags, publish := g, spill := spill,
                          warns := s.warnings.drop s0.warnings.length }
    { s with warnings := s0.warnings }.setHart k { h1 with vflags := s0.cur.vflags, window := h.window ++ [f] }

/-- A word of a hart with older work in flight whose effect waits for the retire point: the scalar lane's result buffer holds
it, with the access that it will make, the register that it will write, and how it orders younger accesses (R185, R250). -/
def later (s : State) (i : Instr) (sd : SReg) (touch : Option Touch) (order : Option Order := none) :
    Host.Outcome State Fault Refusal :=
  let h := s.pass.cur
  .next (s.setCur { h with
    wait := none, skip := 0, resume := none, seq := h.seq.await s.token sd,
    window := h.window ++ [{ li := none, before := s.cur.seq, held := some (i, sd), touch := touch, tok := s.token, order := order }] })

/-- The outcome of a step. -/
abbrev Step := Host.Outcome State Fault Refusal

/-! ## Taking a trap (R132) -/

/-- TCAUSE of a fault (R133). -/
def AccFault.tcause (f : AccFault) : Word := BitVec.ofNat 64 (f.kind * 256 + f.cause.code)

/-- TSTAT at a trap (R134). -/
def tstatOf (g : Grant) (handler : Bool) : Word :=
  BitVec.ofNat 64 ((g.vtype.extractLsb' 0 8).toNat + 256 * g.vl + if handler then 0x100000 else 0)

/-- The word at TVEC is a valid header for the hart at handler level (R132). -/
def tvecOk (s : State) (k : Nat) : Bool :=
  let s' := s.setHart k { s.hart k with handler := true }
  let a := (s.hart k).tvec
  a ≠ 0 && match fetchAt s' k a with
    | .ok (_, w) => isHeader w && s.headerOk k w
    | .error _ => false

/-- What a fault of the fetch at TVEC leaves in the logs (R369). -/
def State.tvecFault (s : State) (k : Nat) : State :=
  let s' := s.setHart k { s.hart k with handler := true }
  match fetchAt s' k (s.hart k).tvec with
  | .error f => if (s.hart k).tvec = 0 then s else s.logFault (s'.fetcher k) f (s.hart k).corr
  | .ok _ => s

/-- TakeTrap (R132), for hart `k` under the grant `g` with which the word was dispatched (R261). A trap at handler level,
or without a valid header at TVEC, ends the task as faulted, with its state recorded. An abort condition of a rerunnable
BUFFERED task aborts it instead (R190). -/
def takeTrap (s : State) (k : Nat) (t : Trap) (g : Grant) : State :=
  if t.fault.abort && s.aborts (k / 4) then abortTask s (k / 4)
  else
    let h := s.hart k
    let rec1 := { h with tcause := t.fault.tcause, tepc := t.epc, tval := t.fault.val,
                         recorded := none, wait := none, window := [], skip := 0, resume := none,
                         appendResume := if t.append then h.appendResume else none }
    let record (s : State) : State := traceTask s (k / 4) 2 6 (.hart (k % 4)) t.fault.tcause.toNat t.epc.toNat
    let lost (s : State) : State := if h.handler then s else s.tvecFault k
    if h.handler || !tvecOk s k then
      endFaulted (lost <| record (s.setHart k { rec1 with tblk := if h.handler then h.tblk else t.blk })) (k / 4) k t.fault.cause.code
    else
      record (s.setHart k { rec1 with
        tblk := t.blk, tlane := t.lane, tdone := t.done, tstat := tstatOf g h.handler, handler := true,
        trapAt := t.epc, trapDead := if t.resumed then h.trapDead else some (t.blk, h.seq.deadS, h.seq.deadV),
        seq := { h.seq with pc := h.tvec, blk := h.tvec, arriving := true, boundary := false } })

/-- The walks of the words of a stack's entry up to the one that faults (R266, R267). -/
def State.stackWalks (w : Who) (kind : Nat) (a : Word) : Nat → State → State
  | 0, s => s
  | n + 1, s =>
    let t := s.walkPage w kind a
    match checkAccess s w kind a 8 none with
    | .ok _ => State.stackWalks w kind (a + 8) n t
    | .error f => if f.walked then t else s

/-- What a trap of the word at the dispatch point leaves in the logs of the stacks (R369): that of a fetch or a scalar access, or
of the refill of a stack. -/
def State.logTrap (s : State) (f : AccFault) : State :=
  let w := s.who
  if f.cause = .stkflt then (State.stackWalks w f.kind f.val (if f.val.toNat < s.cur.rspbase.toNat then 40 else 1) s).logBad w 1 f.val (if f.val.toNat < s.cur.rspbase.toNat then 320 else 8) s.cur.corr
  else s.logFault w f s.cur.corr

/-- The outcome of a word: completed, waiting, or trapped. A trap on a word ahead of older lane work is recorded and taken
when the retire point reaches it (R260), and so is an abort: an older store may still make the task unrerunnable. -/
def settle (o : Out) : Step :=
  match o with
  | .ok s => .next s
  | .error (.wait w, s) => .next (s.hold w)
  | .error (.trap t, s0) =>
    let s := s0.logTrap t.fault
    if s.cur.window.isEmpty then
      .next (takeTrap s s.focus t (s.grantOf s.focus))
    else .next (s.setCur { s.cur with recorded := some t })

/-- A scalar instruction that reads `srcs` and writes `v` to `sd`, whose taint is the OR of theirs (R94, R95). -/
def writeScalar (s : State) (srcs : List SReg) (sd : SReg) (v : Word) : Step :=
  if s.busy srcs then .next (s.hold .reg)
  else .next (finish s (s.putS sd v (srcs.any s.taintS)).pass)

/-! ## Control transfers (R35) -/

/-- A hart whose next fetch is that of a control transfer: what was written before its last FENCE is fetched (R40). -/
def State.synced (s : State) : State := s.setCur { s.cur with synced := s.cur.fenced }

/-- The checks of a target at rank 5 of R41: the state with the fetch's page-table updates, or the trap. A header that
fails R30 traps ILL on itself, and the word that transfers to it has no effect (R110, R118; of ENDLOOP log entry 90). A target
that is neither canonical nor aligned traps PAGE, where R35 gives no order (log entry 91). -/
def checkTarget (s : State) (t : Word) : Except Trap State :=
  let hereTrap c v : Trap := s.trapHere { cause := c, kind := 0, val := v }
  if !canonical t then .error (hereTrap .page t)
  else if t.toNat % 8 ≠ 0 then .error (hereTrap .hdr t)
  else match fetchAt s.synced s.focus t with
    | .error f => .error (s.trapHere f)
    | .ok (s, w) =>
      if !isHeader w then .error (s.trapHere { cause := .hdr, kind := 0, val := t })
      else if !s.headerOk s.focus w then
        .error { fault := { cause := .ill, kind := 0, val := w }, epc := t, blk := t }
      else .ok s

/-- The word transfers to `t`. -/
def transfer (s0 s : State) (t : Word) : Out :=
  match checkTarget s t with
  | .error x => .error (.trap x, s0)
  | .ok s => .ok (finish s0 (s.jump t))

/-- The target of a format B word (R27). -/
def State.target (s : State) (off : BitVec 32) : Word := s.cur.seq.pc + 8 * off.signExtend 64

/-- The condition of BC and BRKLOOP on scalar registers (R26, R107). -/
def scalarCond (cond : BitVec 4) (a b : Word) : Bool := condInts cond.toNat a.toInt b.toInt a.toNat b.toNat

/-- Every older word has retired. -/
def State.settled (s : State) : Bool := s.cur.window.isEmpty

/-- A STKFLT trap (R111). -/
def stkflt (s : State) (write : Bool) (a : Word) : Trap :=
  s.trapHere { cause := .stkflt, kind := if write then 2 else 1, val := a }

/-- Spill accesses are never direct stores (R111): write the bytes on the hart's behalf without making the task
unrerunnable. -/
def spillWrite (s : State) (a : Word) (bs : List Byte) : State × Bool :=
  let t := (s.curCore).task
  let r := writeRun s s.who a 8 (bs.length / 8) bs
  let s1 := r.1.setCurCore { r.1.curCore with task := t }
  (s1, r.2.isNone)

/-- A spill access that a word holds for the retire point: the address and the bytes (R250). -/
abbrev Spill := Option (Word × List Byte)

/-- Write an entry of a stack to its spill area: at once where every older word has retired, or else at the retire point
(R111, R250). -/
def spillOut (s : State) (a : Word) (bs : List Byte) (after : State → State) : Except (Stop × State) (State × Spill) :=
  if !s.settled then .ok (after s, some (a, bs))
  else if s.recalled s.who 2 a bs.length then .error (.wait .lanes, s)
  else match spillWrite s a bs with
    | (_, false) => .error (.trap (stkflt s true a), s)
    | (s1, true) => .ok (after s1, none)

/-- Another agent has written the word at a place since the task of hart `k` began on its core (R111). -/
def State.meddled (s : State) (k : Nat) (p : Place) : Bool :=
  let x := s.lastWrite p
  x.agent ≠ k && (s.hart k).began < x.at_

/-- The words of a spill area as a refill finds them: those that another agent has written, which R111 forbids software to let
happen, are open (R14, log entry 88). -/
def spillBytes (s : State) (a : Word) (bs : List Byte) : List Byte :=
  (List.range (bs.length / 8)).flatMap fun j =>
    let at_ := a + BitVec.ofNat 64 (8 * j)
    match checkAccess s s.who 1 at_ 8 none with
    | .ok (_, p) => if s.meddled s.focus p then leBytes 8 (Config.spilledWord s.freeCount at_.toNat).toNat else (bs.drop (8 * j)).take 8
    | .error _ => (bs.drop (8 * j)).take 8

/-- Read back an entry of a spill area (R111): it waits for older accesses of the hart to the same bytes, and where it reaches
host or peer memory for every older word (R185). It belongs to no lane. -/
def spillIn (s : State) (a : Word) (n : Nat) : Except (Option Wait) (State × List Byte) :=
  let far := match checkAccess s s.who 1 a 8 none with
    | .ok (_, p) => p.far
    | .error _ => false
  if !s.settled && (far || !s.mayAccess s.focus s.cur.window.length 18 0 a n) || s.recalled s.who 1 a n then
    .error (some .lanes)
  else match readRun s s.who a 8 (n / 8) with
    | .error _ => .error none
    | .ok (s1, bs) => .ok (s1, spillBytes s a bs)

/-- PushReturn (R110). -/
def pushReturn (s : State) (ret : Word) : Except (Stop × State) (State × Spill) :=
  let q := s.cur.seq
  let a := s.cur.rspbase + BitVec.ofNat 64 (8 * q.rspill)
  if q.rets.length < 16 then .ok (s.setCur { s.cur with seq := { q with rets := ret :: q.rets } }, none)
  else if q.rspill = 2 ^ 24 - 1 then .error (.trap (stkflt s true a), s)
  else spillOut s a (leBytes 8 (q.rets.getD 15 0).toNat) fun s =>
    s.setCur { s.cur with seq := { q with rets := ret :: q.rets.take 15, rspill := q.rspill + 1 } }

/-- The address that PopReturn pops, read but not yet removed (R110). -/
def peekReturn (s : State) : Except (Stop × State) (State × Word) :=
  let q := s.cur.seq
  match q.rets with
  | t :: _ => .ok (s, t)
  | [] =>
    let a := s.cur.rspbase + BitVec.ofNat 64 (8 * (q.rspill - 1))
    if q.rspill = 0 then .error (.trap (s.trapHere { cause := .retempty, kind := 0, val := s.word }), s)
    else match spillIn s a 8 with
      | .error (some w) => .error (.wait w, s)
      | .error none => .error (.trap (stkflt s false a), s)
      | .ok (s, bs) => .ok (s, BitVec.ofNat 64 (leAt bs 0 8))

/-- Remove the newest return address. -/
def Seq.popReturn (q : Seq) : Seq :=
  match q.rets with
  | _ :: t => { q with rets := t }
  | [] => { q with rspill := q.rspill - 1 }

/-- The 320 bytes of a spilled mask entry (R115). -/
def maskEntryBytes (e : MaskEntry) : List Byte :=
  leBytes 256 e.bits.toNat ++ leBytes 8 e.rc.toNat ++ leBytes 8 e.msel.toNat ++ List.replicate 48 0

/-- A spilled mask entry read back. -/
def maskEntryOf (bs : List Byte) : MaskEntry :=
  { bits := BitVec.ofNat 2048 (leAt bs 0 256), rc := BitVec.ofNat 64 (leAt bs 256 8), msel := BitVec.ofNat 3 (leAt bs 264 1) }

/-- PushMask (R114). -/
def pushMask (s : State) (e : MaskEntry) : Except (Stop × State) (State × Spill) :=
  let q := s.cur.seq
  let a := s.cur.rspbase - BitVec.ofNat 64 (320 * (q.mspill + 1))
  if q.masks.length < 8 then .ok (s.setCur { s.cur with seq := { q with masks := e :: q.masks } }, none)
  else if q.mspill = 2 ^ 24 - 1 then .error (.trap (stkflt s true a), s)
  else spillOut s a (maskEntryBytes (q.masks.getD 7 e)) fun s =>
    s.setCur { s.cur with seq := { q with masks := e :: q.masks.take 7, mspill := q.mspill + 1 } }

/-- The restore of a mask as a word in flight that every lane has carried out: it is ordered as a VMOV to the mask would be
(R116). -/
def maskWord (before : Seq) (e : MaskEntry) (warns : List (Nat × Warning)) : InFlight :=
  let li : LaneInstr :=
    { job := .setMask e.msel e.bits, addr := before.pc, blk := before.blk, word := 0, vl := 2048, vtype := 0, fmt := 0,
      mask := 0, window := 256, taint := false, strm := 0, skip := 0, resume := none, deadZero := 0, dead := 0 }
  let first : LaneRec := { stage := .finished, writes := [.mask e.msel.toNat e.bits] }
  { li := some li, lanes := first :: List.replicate 15 { stage := .finished }, before := before, header := true, warns := warns }

/-- Restore a mask (R116): at once where every older word has retired, or else in the order of the window. -/
def restoreMask (s : State) (before : Seq) (e : MaskEntry) (warns : List (Nat × Warning)) : State :=
  if s.settled then
    { s with warnings := s.warnings ++ warns }.setCur { s.cur with vec := s.cur.vec.setMask e.msel.toNat e.bits }
  else s.setCur { s.cur with window := s.cur.window ++ [maskWord before e warns] }

/-- Pop the mask entries whose reconvergence address is `h`, newest first, as many as the fuel (R116). A refill that faults or
waits leaves the state `s0` in which the header was reached: no mask is restored, and the whole step repeats. -/
def popMasks (s0 : State) (h : Word) : Nat → State → Except (Stop × State) State
  | 0, s => .ok s
  | n + 1, s =>
    let q := s.cur.seq
    match q.masks with
    | [] => .ok s
    | e :: rest =>
      if e.rc ≠ h then .ok s
      else if rest.isEmpty && q.mspill ≠ 0 then
        let a := s.cur.rspbase - BitVec.ofNat 64 (320 * q.mspill)
        match spillIn s a 320 with
        | .error (some w) => .error (.wait w, s0)
        | .error none =>
          .error (.trap { fault := { cause := .stkflt, kind := 1, val := a }, epc := h, blk := h }, s0)
        | .ok (s1, bs) =>
          let s2 := restoreMask { s1 with warnings := s.warnings } s0.cur.seq e (s1.warnings.drop s.warnings.length)
          popMasks s0 h n (s2.setCur { s2.cur with
            seq := { s2.cur.seq with masks := [maskEntryOf bs], mspill := q.mspill - 1 } })
      else
        let s2 := restoreMask s s0.cur.seq e []
        popMasks s0 h n (s2.setCur { s2.cur with seq := { s2.cur.seq with masks := rest } })

/-- Registers above a high-water mark (R31). -/
def aboveMark (w n : Nat) : BitVec w := BitVec.allOnes w <<< (n + 1)

/-- Consume the header at the dispatch point (R30, R36, R37, R116, R31). -/
def consumeHeader (s : State) : Out :=
  let q := s.cur.seq
  match fetchAt s s.focus q.pc with
  | .error f => .error (.trap { fault := f, epc := q.pc, blk := q.pc }, s)
  | .ok (s, w) =>
    if !isHeader w then fail s { cause := .hdr, kind := 0, val := q.pc }
    else if !s.headerOk s.focus w then
      .error (.trap { fault := { cause := .ill, kind := 0, val := w }, epc := q.pc, blk := q.pc }, s)
    else
      match popMasks s q.pc (q.masks.length + q.mspill + 1) s with
      | .error e => .error e
      | .ok s =>
        .ok (s.setCur { s.cur with wait := none, seq := { s.cur.seq with
          pc := q.pc + 8, arriving := false, boundary := false, blk := q.pc, len := hLen w, vhw := hVhw w, shw := hShw w,
          reconv := hReconv w, deadV := aboveMark 64 (hVhw w), deadS := aboveMark 32 (hShw w) } })

/-! ## Returning from a trap (R135, R38, R39) -/

/-- The registers that are dead where a hart resumes in the body of the block at `b` (R31, R39): those above the re-read
header's marks, and in the block that the last trap interrupted only those that were dead there. -/
def deadAt (h : Hart) (b w : Word) : BitVec 32 × BitVec 64 :=
  let above := (aboveMark 32 (hShw w), aboveMark 64 (hVhw w))
  match h.trapDead with
  | some (b0, ds, dv) => if b0 = b then (above.1 &&& ds, above.2 &&& dv) else above
  | none => above

/-- A trap that RETT makes as it resumes. -/
def resumeTrap (s : State) (f : AccFault) (epc blk : Word) : Out :=
  .error (.trap { fault := f, epc := epc, blk := blk, resumed := true }, s)

/-- Where RETT resumes, under the restored grant and level: at the header (row 1), in the body of the re-read header (row
2), or at another header (row 3). The header at TBLK is consumed, which pops the mask entries that it joins (R116): in row 1 by
the hart as it arrives there, and in the others here (log entry 92). An error takes the trap of the row: a word at TBLK that is no
valid header, or a TBLK whose bits 2:0 are not zero, is named by both TEPC and TBLK; a fault fetching a word leaves both as they
were (R38). -/
def resumeAt (s : State) (tepc tblk : Word) : Out :=
  let record := s.cur.appendResume
  let s := s.setCur { s.cur with appendResume := none, synced := s.cur.fenced }
  let bad (s : State) c v (epc blk : Word) : Out := resumeTrap s { cause := c, kind := 0, val := v } epc blk
  if canonical tblk && tblk.toNat % 8 ≠ 0 then bad s .hdr tblk tblk tblk
  else if tepc = tblk then
    .ok (s.setCur { s.cur with seq := { s.cur.seq with pc := tblk, blk := tblk, arriving := true } })
  else
    match fetchAt s s.focus tblk with
    | .error f => resumeTrap s f tepc tblk
    | .ok (s, w) =>
      if !isHeader w then bad s .hdr tblk tblk tblk
      else if !s.headerOk s.focus w then bad s .ill w tblk tblk
      else match popMasks s tblk (s.cur.seq.masks.length + s.cur.seq.mspill + 1) s with
      | .error (.trap t, s) => resumeTrap s t.fault t.epc t.blk
      | .error e => .error e
      | .ok s =>
      if tepc.toNat % 8 = 0 && tblk.toNat < tepc.toNat && tepc.toNat ≤ tblk.toNat + 8 * hLen w then
        let same := tepc = s.cur.trapAt
        let dead := deadAt s.cur tblk w
        .ok (s.setCur { s.cur with skip := if same then s.cur.tdone else 0,
                                   resume := if same then record else none, seq := { s.cur.seq with
          pc := tepc, arriving := false, boundary := false, blk := tblk, len := hLen w, vhw := hVhw w, shw := hShw w,
          reconv := hReconv w, deadV := dead.2, deadS := dead.1 } })
      else match fetchAt s s.focus tepc with
        | .error f => resumeTrap s f tepc tblk
        | .ok (s, w) =>
          if !isHeader w then bad s .hdr tepc tepc tblk
          else if !s.headerOk s.focus w then bad s .ill w tepc tblk
          else .ok (s.setCur { s.cur with seq := { s.cur.seq with pc := tepc, blk := tepc, arriving := true } })

/-- A hart after a change of mode: every slice of every register full, with contents the manual leaves open, and open results
from the vector instructions that it has in flight (R143, log entry 9). -/
def wideSwitch (free k : Nat) (h : Hart) : Hart :=
  let slices := (List.range 1024).foldl (fun t i => Table.set {} t i { bits := Config.vmodeSlice free k i }) []
  let completed (f : InFlight) : Bool := f.li.isNone || (f.lanes.length = 16 && f.lanes.all fun r => r.stage = .finished)
  { h with vec := { h.vec with v := slices },
           window := h.window.zipIdx.map fun p =>
             if completed p.1 then p.1 else { p.1 with undef := some (free * 256 + k % 4 * 64 + p.2) } }

/-- Write the gang's grant as this hart (R141, R251): the hart's later dispatches read it at once. -/
def State.writeGrant (s : State) (g : Grant) : State :=
  s.setCur { s.cur with seq := { s.cur.seq with ownGrant := some g } }

/-- The harts of the core that belong to its gang. -/
def gangOf (s : State) (core : Nat) : List Nat :=
  ((List.range 4).map (· + 4 * core)).filter fun k => (s.hart k).status ≠ .idle

/-- A change of mode as VMODE makes it: the grant with the new mode, and every register of every member undefined. -/
def State.switchMode (s : State) (g : Grant) : State :=
  let s := s.setCurCore { s.curCore with grant := g }
  (gangOf s s.curCoreNo).foldl (fun s k => s.setHart k (wideSwitch s.freeCount k (s.hart k))) s

end Sys2Proof.Machine
end

