-- ==== Sys2Proof/Machine/Control.lean ====
section
/-! DEFINITION. Control transfers and hardware loops, MAJ 12 and 13 (R107 to R119). -/

namespace Sys2Proof.Machine

/-- The word continues at its fall-through address. -/
def fallOn (s0 s : State) : Out := .ok (finish s0 (s.goto s.cur.seq.fallThrough))

/-- BR (R107). -/
def execBr (off : BitVec 32) (s : State) : Step := settle (transfer s s (s.target off))

/-- BC (R107). -/
def execBc (cond : BitVec 4) (sa sb : SReg) (off : BitVec 32) (s : State) : Step :=
  if s.busy [sa, sb] then .next (s.hold .reg)
  else settle (if scalarCond cond (s.getS sa) (s.getS sb) then transfer s s (s.target off) else fallOn s s)

/-- The tests of BCV over the first `vl` bits (R113). -/
def maskTest (mode : BitVec 3) (m : BitVec 2048) (vl : Nat) : Bool :=
  let bits := m.toNat % 2 ^ vl
  match mode.toNat with
  | 0 => bits ≠ 0
  | 1 => bits = 2 ^ vl - 1
  | _ => bits = 0

/-- The reconvergence header of BCV: HDR where its word is not a valid header (R33). A word that cannot be fetched gives the
fetch's own cause, and an address that is not canonical gives HDR: R33 and R114 name neither case (log entry 74). -/
def checkReconv (s : State) (rc : Word) : Except Trap State :=
  let hdr := s.trapHere { cause := .hdr, kind := 0, val := rc }
  if !canonical rc then .error hdr
  else match fetchAt s s.focus rc with
    | .error f => .error (s.trapHere f)
    | .ok (s, w) => if isHeader w && s.headerOk s.focus w then .ok s else .error hdr

/-- BCV (R113, R114, R33): a rendezvous, so it waits until every lane has produced its part of M[msel]. -/
def execBcv (bmode : BitVec 3) (msel : MReg) (off : BitVec 32) (s : State) : Step :=
  let q := s.cur.seq
  let rc := q.blk + 8 * q.reconv.signExtend 64
  let m := (s.cur.planeAt s.cur.window.length).mask msel.toNat
  let taken := maskTest bmode m s.vl
  if s.cur.maskOpen msel then .next (s.hold .lanes)
  else settle (
    if q.reconv = 0 then ill s
    else match checkReconv s rc with
      | .error t => .error (.trap t, s)
      | .ok s1 =>
        match (if taken then checkTarget s1 (s.target off) else .ok s1) with
        | .error t => .error (.trap t, s)
        | .ok s2 =>
          match pushMask s2 { bits := m, msel := msel, rc := rc } with
          | .error e => .error (e.1, s)
          | .ok (s3, spill) =>
            .ok (finish s (if taken then s3.jump (s.target off) else s3.goto s3.cur.seq.fallThrough) none spill))

/-- CALL and CALLR: the target check, the push, the transfer (R110, R112). -/
def callTo (s : State) (t : Word) : Out :=
  match checkTarget s t with
  | .error x => .error (.trap x, s)
  | .ok s1 =>
    match pushReturn s1 s.cur.seq.fallThrough with
    | .error e => .error (e.1, s)
    | .ok (s2, spill) => .ok (finish s (s2.jump t) none spill)

/-- CALL (R107, R110). -/
def execCall (off : BitVec 32) (s : State) : Step := settle (callTo s (s.target off))

/-- CALLR (R108). -/
def execCallr (sa : SReg) (s : State) : Step :=
  if s.busy [sa] then .next (s.hold .reg) else settle (callTo s (s.getS sa))

/-- RET (R108, R110). -/
def execRet (s : State) : Step :=
  settle (match peekReturn s with
    | .error e => .error e
    | .ok (s1, t) =>
      match checkTarget s1 t with
      | .error x => .error (.trap x, s)
      | .ok s2 => .ok (finish s ((s2.setCur { s2.cur with seq := s2.cur.seq.popReturn }).jump t)))

/-- JMPR (R108). -/
def execJmpr (sa : SReg) (s : State) : Step :=
  if s.busy [sa] then .next (s.hold .reg) else settle (transfer s s (s.getS sa))

/-- LOOP and LOOPI (R117). -/
def startLoop (s : State) (count : Word) : Out :=
  let hb := s.cur.seq.fallThrough
  let hdr := fail s { cause := .hdr, kind := 0, val := hb }
  if !canonical hb then fail s { cause := .page, kind := 0, val := hb }
  else match fetchAt s.synced s.focus hb with
    | .error f => fail s f
    | .ok (s1, w) =>
      if count = 0 && isHeader w && hReconv w = 0 then ill s
      else if !isHeader w then hdr
      else if s.cur.seq.loops.length = 6 then fail s { cause := .loopovf, kind := 0, val := s.word }
      else if count = 0 then transfer s s1 (hb + 8 * (hReconv w).signExtend 64)
      else
        let q := s1.cur.seq
        .ok (finish s ((s1.setCur { s1.cur with seq := { q with loops := ⟨0, count, hb⟩ :: q.loops } }).jump hb))

/-- LOOP (R117). -/
def execLoop (sa : SReg) (s : State) : Step :=
  if s.busy [sa] then .next (s.hold .reg) else settle (startLoop s (s.getS sa))

/-- LOOPI (R117). -/
def execLoopi (imm : BitVec 32) (s : State) : Step := settle (startLoop s (imm.setWidth 64))

/-- Mark the loop-iteration boundary (R119). -/
def State.atBoundary (s : State) : State := s.setCur { s.cur with seq := { s.cur.seq with boundary := true } }

/-- ENDLOOP (R118, R119). Where the header at I0.HDR fails R30, IDX does not advance (log entry 90). -/
def execEndloop (s : State) : Step :=
  settle (match s.cur.seq.loops with
    | [] => ill s
    | e :: rest =>
      if (e.idx + 1).toNat < e.cnt.toNat then
        match checkTarget s e.hdr with
        | .error x => .error (.trap x, s)
        | .ok s1 =>
          let q := s1.cur.seq
          .ok (finish s ((s1.setCur { s1.cur with seq := { q with loops := { e with idx := e.idx + 1 } :: rest } }).jump
            e.hdr).atBoundary)
      else
        let q := s.cur.seq
        .ok (finish s ((s.setCur { s.cur with seq := { q with loops := rest } }).goto q.fallThrough).atBoundary))

/-- BRKLOOP, where its condition holds or does not (R118). -/
def breakLoop (s : State) (off : BitVec 32) (holds : Bool) : Out :=
  match s.cur.seq.loops with
  | [] => ill s
  | _ :: rest =>
    if holds then
      match checkTarget s (s.target off) with
      | .error x => .error (.trap x, s)
      | .ok s1 => .ok (finish s ((s1.setCur { s1.cur with seq := { s1.cur.seq with loops := rest } }).jump (s.target off)))
    else fallOn s s

/-- BRKLOOP (R118). -/
def execBrkloop (off : BitVec 32) (s : State) : Step := settle (breakLoop s off true)

/-- BRKLOOP.cond (R118). -/
def execBrkloopCond (cond : BitVec 4) (sa sb : SReg) (off : BitVec 32) (s : State) : Step :=
  if s.busy [sa, sb] then .next (s.hold .reg)
  else settle (breakLoop s off (scalarCond cond (s.getS sa) (s.getS sb)))

end Sys2Proof.Machine
end

