-- ==== Sys2Proof/Machine/ScalarMem.lean ====
section
/-! DEFINITION. Scalar memory and atomics, MAJ 10 and 11 (R99 to R106). -/

namespace Sys2Proof.Machine

/-- The effective address of LD, ST and LDC (R99). -/
def State.ea (s : State) (sa : SReg) (imm : BitVec 32) : Word := s.getS sa + imm.signExtend 64

/-- A loaded value extended to 64 bits (R99). -/
def extendLoad (signed : Bool) (n v : Nat) : Word :=
  if signed then BitVec.ofInt 64 (signedOf (8 * n) v) else BitVec.ofNat 64 v

/-- A load of `2 ^ wid` bytes (R99, R100). On a slipped hart the value is bound by a SCALAR_LOAD_RESPONSE, and a younger
reader waits for it (R94, R250). -/
def loadScalar (strm : BitVec 3) (wid : BitVec 2) (signed taint : Bool) (sd sa : SReg) (imm : BitVec 32) (s : State) :
    Step :=
  let n := 2 ^ wid.toNat
  let va := s.ea sa imm
  if s.busy [sa] then .next (s.hold .reg)
  else if s.cur.slip then
    let h := s.pass.cur
    .next (s.setCur { h with
      wait := none, skip := 0, resume := none, seq := h.seq.await s.token sd,
      window := h.window ++ [{ li := none, before := s.cur.seq, load := some ⟨sd, va, n, signed, taint, strm⟩, tok := s.token }] })
  else if !s.settled || s.recalled s.who 1 va n then .next (s.hold .lanes)
  else settle (match scalarLoad s s.who va n with
    | .error f => fail s f
    | .ok (s1, v) => .ok (finish s (s1.putS sd (extendLoad signed n v) taint).pass))

/-- LD (R99). -/
def execLd (strm : BitVec 3) (wid : BitVec 2) (sd sa : SReg) (imm : BitVec 32) (s : State) : Step :=
  loadScalar strm wid true false sd sa imm s

/-- LD.U (R99). -/
def execLdU (strm : BitVec 3) (wid : BitVec 2) (sd sa : SReg) (imm : BitVec 32) (s : State) : Step :=
  loadScalar strm wid false false sd sa imm s

/-- LDC and LDC.U (R99, R95): the destination is tainted. -/
def execLdc (strm : BitVec 3) (wid : BitVec 2) (zeroExt : Bool) (sd sa : SReg) (imm : BitVec 32) (s : State) : Step :=
  loadScalar strm wid (!zeroExt) true sd sa imm s

/-- The access of a scalar word that the scalar lane holds for the retire point. -/
def scalarTouch (strm : BitVec 3) (va : Word) (n : Nat) : Option Touch := some ⟨16, strm, va, n⟩

/-- ST (R99, R102): a misaligned store leaves the bytes below its first faulting byte (R100). Ahead of the retire point the
scalar lane holds the store (R250), and so it holds an atomic. -/
def execSt (strm : BitVec 3) (wid : BitVec 2) (sd sa : SReg) (imm : BitVec 32) (s : State) : Step :=
  let n := 2 ^ wid.toNat
  if s.busy [sd, sa] then .next (s.hold .reg)
  else if !s.settled then later s (.st strm wid sd sa imm) 0 (scalarTouch strm (s.ea sa imm) n)
  else if s.recalled s.who 2 (s.ea sa imm) n then .next (s.hold .lanes)
  else
    let r := scalarStore s (s.who.on strm) (s.ea sa imm) n ((s.getS sd).toNat % 2 ^ (8 * n))
    settle (match r.2 with
      | some f => fail r.1 f
      | none => .ok (finish s r.1.pass))

/-- An immediate atomic (R103 to R106), the word `i`. -/
def amoScalar (i : Instr) (strm : BitVec 3) (op : AmoOp) (wid : BitVec 2) (sd sa sb : SReg) (srcs : List SReg) (v2 : Word)
    (s : State) : Step :=
  let n := 2 ^ wid.toNat
  if s.busy srcs then .next (s.hold .reg)
  else if !s.settled then later s i sd (scalarTouch strm (s.getS sa) n)
  else if s.recalled s.who 3 (s.getS sa) n then .next (s.hold .lanes)
  else settle (match atomicAt s (s.who.on strm) op (s.getS sa) n (s.getS sb).toNat v2.toNat with
    | .error f => fail s f
    | .ok (s1, m) => .ok (finish s (s1.putS sd (extendLoad true n m) (srcs.any s.taintS)).pass))

/-- AMO (R103). -/
def execAmo (strm : BitVec 3) (op : AmoOp) (wid : BitVec 2) (sd sa sb : SReg) (s : State) : Step :=
  amoScalar (.amo strm op wid sd sa sb) strm op wid sd sa sb [sa, sb] 0 s

/-- AMO.CAS (R103). -/
def execAmoCas (strm : BitVec 3) (wid : BitVec 2) (sd sa sb sc : SReg) (s : State) : Step :=
  amoScalar (.amoCas strm wid sd sa sb sc) strm .cas wid sd sa sb [sa, sb, sc] (s.getS sc) s

/-- The task of a core is BUFFERED. -/
def State.buffered (s : State) (core : Nat) : Bool :=
  match (s.core core).task with
  | some t => t.buffered
  | none => false

/-- A posted atomic on behalf of hart `k`: in a BUFFERED task, one outside the pool window enters the commit queue (R106,
R195); otherwise it is performed at once. -/
def postAtomic (s : State) (k : Nat) (strm : BitVec 3) (op : AmoOp) (va : Word) (n v : Nat) : Except AccFault State :=
  let w := (s.whoHart k).on strm
  match atomicCheck s w op va n with
  | .error f => .error f
  | .ok (s1, outside) =>
    if outside && s.buffered (k / 4) then
      let h := s1.hart k
      .ok (s1.setHart k { h with commitQ := h.commitQ ++ [⟨va, n, op, v, w.handler⟩] })
    else match atomicAt s w op va n v 0 with
      | .error f => .error f
      | .ok (s2, _) => .ok s2

/-- AMO.P, posted (R103, R104, R106). -/
def execAmoP (strm : BitVec 3) (op : AmoOp) (wid : BitVec 2) (sa sb : SReg) (s : State) : Step :=
  let n := 2 ^ wid.toNat
  if s.busy [sa, sb] then .next (s.hold .reg)
  else if !s.settled then later s (.amoP strm op wid sa sb) 0 (scalarTouch strm (s.getS sa) n)
  else if s.recalled s.who 3 (s.getS sa) n then .next (s.hold .lanes)
  else settle (match postAtomic s s.focus strm op (s.getS sa) n (s.getS sb).toNat with
    | .error f => fail s f
    | .ok s1 => .ok (finish s s1.pass))

end Sys2Proof.Machine
end

