-- ==== Sys2Proof/Machine/Vector.lean ====
section
/-! DEFINITION. What a lane instruction computes from a view of the register plane (R146 to R170): element by element, or
as a whole at its rendezvous. -/

namespace Sys2Proof.Machine

/-! ## The instruction as dispatched -/

/-! ## Element-wise arithmetic (R151 to R157) -/

/-- Integer division of R66, as an exact quotient, and DZ. -/
def intDiv (c : Nat) (a b : Int) : Int × Flags :=
  if b = 0 then (if intMin c < 0 then -1 else intMax c, fDZ)
  else if a = intMin c && b = -1 && intMin c < 0 then (a, 0)
  else (a.tdiv b, 0)

/-- The integer value of an element of an integer format. -/
def intElem (c x : Nat) : Int :=
  match fmtClass c with
  | .int true => signedOf (fmtBits c) (x % 2 ^ fmtBits c)
  | _ => (x % 2 ^ fmtBits c : Nat)

/-- Bound a shift count: beyond it the result is the same. -/
def boundShift (b : Int) : Int := max (-1000) (min 1000 b)

/-- The exact result of an operation on integer or floating operands, and the flags of forming it (R152). -/
def exactOp (op : Arith) (r : Rnd) (f : BitVec 32) (a b c : Nat) : Exact × Flags :=
  let va := readExact r (fFA f) a
  let vb := readExact r (fFB f) b
  let vc := readExact r (fFC f) c
  match op with
  | .add => exAdd r va vb
  | .sub => exAdd r va vb.negate
  | .mul => exMul va vb
  | .fma => exFma r va vb vc
  | .fms => exFma r va vb vc.negate
  | .fnma => exFma r va.negate vb vc
  | .min => (exMin va vb, 0)
  | .max => (exMax va vb, 0)
  | .abs => (va.abs, 0)
  | .neg => (va.negate, 0)
  | .div =>
    match fmtClass (fFD f) with
    | .float => exDiv va vb
    | _ =>
      let q := intDiv (fFD f) (intElem (fFA f) a) (intElem (fFB f) b)
      (.ofInt q.1, q.2)
  | .sqrt => exSqrt va
  | .exp2 => exExp2 va
  | .scale => (va.scale (boundShift (intElem (fFB f) b)), 0)
  | .clamp => (exMin (exMax va vb) vc, 0)
  | _ => (va, 0)

/-- Arithmetic on residues (R78, R152). -/
def rnsOp (op : Arith) (a b c : Nat) : Nat :=
  let x := rnsOf a
  let y := rnsOf b
  let z := rnsOf c
  match op with
  | .add => (rnsAdd x y).word
  | .sub => (rnsSub x y).word
  | .mul => (rnsMul x y).word
  | .fma => (rnsAdd (rnsMul x y) z).word
  | .fms => (rnsSub (rnsMul x y) z).word
  | .fnma => (rnsSub z (rnsMul x y)).word
  | _ => (rnsNeg x).word

/-- Arithmetic on ticks (R85). -/
def tickOp (op : Arith) (w a b c : Nat) : Nat :=
  let x := tickOf w a
  let y := tickOf w b
  let z := tickOf w c
  match op with
  | .add => tickByte (tickAdd w x y)
  | .min => tickByte (tickMin x y)
  | .max => tickByte (tickMax x y)
  | _ => tickByte (tickMin (tickMax x y) z)

/-- Bitwise operations and shifts (R156). -/
def bitsOp (op : Arith) (f : BitVec 32) (a b : Nat) : Nat :=
  let w := fmtBits (fFD f)
  let n := b % 2 ^ fmtBits (fFB f) % w
  match op with
  | .and => a &&& b
  | .or => a ||| b
  | .xor => a ^^^ b
  | .not => 2 ^ w - 1 - a
  | .shl => a * 2 ^ n % 2 ^ w
  | _ => match fmtClass (fFA f) with
    | .int true => wrapBits w (signedOf w a / (2 ^ n : Nat))
    | _ => a / 2 ^ n

/-- The source of a conversion as an exact value (R74, R82, R88), with the flags that reading it raises; never-rises has
none. -/
def cvtSource (r : Rnd) (w : Nat) (f : BitVec 32) (a : Nat) : Option Exact × Flags :=
  match fmtClass (fFA f) with
  | .rns =>
    let x := rnsOf a
    (some (.ofInt (reconstruct x)), flagIf x.unsure fNV)
  | .tick => match tickOf w a with
    | some t => (some (.ofInt (if fDesc f then (w : Int) - 1 - t else t)), 0)
    | none => (none, 0)
  | _ => (some (readExact r (fFA f) a), 0)

/-- A number, already scaled, made RNS32 (R74, R79). -/
def toRns (r : Rnd) (keep : Bool) : Exact → Nat × Flags
  | .nan => ({ rnsEnter 0 with unsure := true }.word, fNV)
  | .inf neg => ({ rnsEnter (if neg then -536870400 else 536870399) with unsure := true }.word, fNV)
  | .num neg m e st =>
    let i := toIntRound r neg m e st
    let x := rnsClamp i.1
    ({ x.1 with unsure := x.1.unsure || keep }.word, x.2 ||| flagIf i.2 fNX)

/-- VCVT (R74, R87, R88). UNSURE in an RNS32 source raises no NV where FD is TICK8: R74 sends that pair to R87, which names
none (log entry 66). -/
def cvtElem (r : Rnd) (w : Nat) (f : BitVec 32) (a : Nat) : Nat × Flags :=
  let fd := fFD f
  let s := fScale f
  match fmtClass (fFA f), fmtClass fd with
  | .rns, .rns =>
    if s = 0 then ((rnsOf a).word, 0)
    else
      let x := rnsOf a
      let y := toRns r x.unsure ((Exact.ofInt (reconstruct x)).scale s)
      (y.1, y.2 ||| flagIf x.unsure fNV)
  | .tick, .tick => (tickByte (tickOf w a), 0)
  | .rns, .tick => toTick r w (fDesc f) ((Exact.ofInt (reconstruct (rnsOf a))).scale s)
  | ca, cd =>
    match cvtSource r w f a with
    | (none, _) =>
      let hi := !fDesc f
      match cd with
      | .float => (withSign fd (!hi) (infBits fd), 0)
      | .rns => ((rnsEnter (if hi then 536870399 else -536870400)).word, 0)
      | _ => (wrapBits (fmtBits fd) (if hi then intMax fd else intMin fd), 0)
    | (some x, fl) =>
      let y := match cd with
        | .float => toFloat r fd (x.scale s)
        | .rns => toRns r false (x.scale s)
        | .tick => toTick r w (fDesc f) (x.scale s)
        | _ => match ca with
          | .float =>
            let i := floatToInt r (intMin fd) (intMax fd) (x.scale s)
            (wrapBits (fmtBits fd) i.1, i.2)
          | _ => toInt r fd (x.scale s)
      (y.1, y.2 ||| fl)

/-- One element of a MAJ 21 instruction: the destination's bits and the flags (R151). VABS and VNEG act on the sign bit of
every floating pattern, a subnormal under FTZI included (log entry 67); VMIN and VMAX of floating formats raise no flag, that
of their finish included (R73, log entry 68). -/
def arithElem (op : Arith) (r : Rnd) (w : Nat) (f : BitVec 32) (a b c : Nat) : Nat × Flags :=
  let fd := fFD f
  match op with
  | .cvt => cvtElem r w f a
  | .and | .or | .xor | .not | .shl | .shr => (bitsOp op f a b, 0)
  | _ =>
    match fmtClass fd with
    | .rns => (rnsOp op a b c, 0)
    | .tick => (tickOp op w a b c, 0)
    | .float =>
      match op with
      | .abs => (a % signBit fd, 0)
      | .neg => (if a < signBit fd then a + signBit fd else a - signBit fd, 0)
      | .min | .max => ((toFloat r fd ((exactOp op r f a b c).1.scale (fScale f))).1, 0)
      | _ =>
        let x := exactOp op r f a b c
        let y := toFloat r fd (x.1.scale (fScale f))
        (y.1, x.2 ||| y.2)
    | _ =>
      let x := exactOp op r f a b c
      let y := toInt r fd (x.1.scale (fScale f))
      (y.1, x.2 ||| y.2)

/-! ## Compare -/

/-- One element of VCMP (R158, R78, R85). -/
def cmpElem (cond : Nat) (r : Rnd) (w : Nat) (f : BitVec 32) (a b : Nat) : Bool × Flags :=
  let fa := fFA f
  match fmtClass fa with
  | .float => condFloats cond (readExact r fa a) (readExact r fa b)
  | .rns =>
    let x : Nat := { rnsOf a with unsure := false }.word
    let y : Nat := { rnsOf b with unsure := false }.word
    (condInts cond (Int.ofNat x) (Int.ofNat y) x y, 0)
  | .tick =>
    let x : Nat := tickByte (tickOf w a)
    let y : Nat := tickByte (tickOf w b)
    (condInts cond (Int.ofNat x) (Int.ofNat y) x y, 0)
  | _ =>
    let n := fmtBits fa
    (condInts cond (intElem fa a) (intElem fa b) (a % 2 ^ n) (b % 2 ^ n), 0)

/-! ## Element by element -/

/-- The width at which an arithmetic instruction reads a source. -/
def srcWidth (f : Nat) (ew : Nat) : Nat := if fmtBits f = 0 then ew else fmtBits f

/-- The operands that element `e` of an instruction reads among its sources: VSEL reads only the one that Mk selects
(R149, R159). -/
def elemReads (i : LaneInstr) (v : View) (e : Nat) (srcs : List VOp) : List VOp :=
  match i.job with
  | .sel _ va vb mk => [if v.vec.maskBit mk.toNat e then va else vb]
  | _ => srcs

/-- The taint of an element written: of the scalars and of the slices read in its lane (R186). -/
def elemTaint (i : LaneInstr) (v : View) (srcs : List VOp) (lane : Nat) : Bool :=
  i.taint || (i.actives v).any fun e => e % 16 = lane && (elemReads i v e srcs).any fun o => v.taint o i.vlm e

/-- The lanes in which a tainted element is written. -/
def taintLanes (ws : List VWrite) : BitVec 16 :=
  ws.foldl (fun m w => match w with
    | .elem _ e _ _ true => m ||| bitOf 16 (e % 16)
    | _ => m) 0

/-- Every element written in a lane takes the OR of what the instruction reads for that lane (R186). -/
def laneTaint (ws : List VWrite) : List VWrite :=
  ws.map fun w => match w with
    | .elem reg e bytes val _ => .elem reg e bytes val ((taintLanes ws).getLsbD (e % 16))
    | w => w

/-- One element written to an operand at a width. -/
def writeElem (i : LaneInstr) (vd : VOp) (e w x : Nat) (taint : Bool) : VWrite :=
  .elem (opAt vd i.vlm e).1 (opAt vd i.vlm e).2 (w / 8) x taint

/-- Element `e` of an instruction that works element by element: its changes and its flags. VSEL writes canonical ticks and
residues, as R77, R84 and R85 ask of every writer (log entry 69). -/
def elemResult (i : LaneInstr) (v : View) (e : Nat) : List VWrite × Flags :=
  let ew := i.ew
  let taint := elemTaint i v (elemSources i.job) (e % 16)
  match i.job with
  | .arith op vd va vb vc =>
    let f := i.fmt
    let rd := fun o c => v.src o i.vlm e (srcWidth c ew)
    let x := arithElem op i.rnd i.window f (rd va (fFA f))
      (if (elemSources i.job).length < 2 then 0 else rd vb (fFB f))
      (if (elemSources i.job).length < 3 then 0 else rd vc (fFC f))
    ([writeElem i vd e (srcWidth (fFD f) ew) x.1 taint], x.2)
  | .cmp cond md va vb =>
    let x := cmpElem cond.toNat i.rnd i.window i.fmt (v.src va i.vlm e ew) (v.src vb i.vlm e ew)
    ([.maskBit md.toNat e x.1], x.2)
  | .sel vd va vb mk =>
    let x := v.src (if v.vec.maskBit mk.toNat e then va else vb) i.vlm e ew
    ([writeElem i vd e ew (canonElem i.window (fFD i.fmt) x) taint], 0)
  | .mov vd va => ([writeElem i vd e ew (v.src va i.vlm e ew) taint], 0)
  | .movMask md ma => ([.maskBit md.toNat e (v.vec.maskBit ma.toNat e)], 0)
  | .movFromMask vd ma => ([writeElem i vd e ew (if v.vec.maskBit ma.toNat e then 1 else 0) taint], 0)
  | .movToMask md va => ([.maskBit md.toNat e (v.src va i.vlm e ew != 0)], 0)
  | .splat vd x => ([writeElem i vd e ew (x.toNat % 2 ^ ew) taint], 0)
  | .setMask md bits => ([.maskBit md.toNat e (bits.getLsbD e)], 0)
  | .maskLogic op md ma mb =>
    let a := v.vec.maskBit ma.toNat e
    let b := v.vec.maskBit mb.toNat e
    ([.maskBit md.toNat e (match op with | .and => a && b | .or => a || b | .xor => a != b | .not => !a)], 0)
  | .vfeTest md reg => ([.maskBit md.toNat e (v.full reg (e % 16))], 0)
  | .vfe full first n => ((List.range n).map fun j => .fullBit (first + j) (e % 16) full, 0)
  | _ => ([], 0)

/-- The results of several elements. -/
def elemResults (i : LaneInstr) (v : View) (es : List Nat) : List VWrite × Flags :=
  es.foldl (fun acc e => let x := elemResult i v e; (acc.1 ++ x.1, acc.2 ||| x.2)) ([], 0)

/-! ## Reductions and scans (R89, R90, R168, R169) -/

/-- RoundAdd, or the combining step of a maximum or minimum, on two values in FD. FTZI reads a subnormal partial sum as zero
at every step (log entry 70); a maximum or minimum is one of its two values, made into FD only at the end (R89, R90). -/
def redStep (op : Red) (r : Rnd) (w c x y : Nat) : Nat × Flags :=
  match op, fmtClass c with
  | .sum, .rns => ((rnsAdd (rnsOf x) (rnsOf y)).word, 0)
  | .sum, .float =>
    let a := exAdd r (readExact r c x) (readExact r c y)
    let b := toFloat r c a.1
    (b.1, a.2 ||| b.2)
  | .sum, _ => wrapOrClamp r c (intElem c x + intElem c y)
  | .max, .tick => (tickByte (tickMax (tickOf w x) (tickOf w y)), 0)
  | .min, .tick => (tickByte (tickMin (tickOf w x) (tickOf w y)), 0)
  | .max, _ => (exactBits c (exMax (readExact r c x) (readExact r c y)), 0)
  | .min, _ => (exactBits c (exMin (readExact r c x) (readExact r c y)), 0)

/-- Combine (R89): an absent part is the other part. -/
def redCombine (op : Red) (r : Rnd) (w c : Nat) : Option Nat × Flags → Option Nat × Flags → Option Nat × Flags
  | (none, f), (y, g) => (y, f ||| g)
  | (x, f), (none, g) => (x, f ||| g)
  | (some x, f), (some y, g) => let z := redStep op r w c x y; (some z.1, f ||| g ||| z.2)

/-- One round of the fixed tree: (0, 1), (2, 3), … -/
def redPairs (op : Red) (r : Rnd) (w c : Nat) : List (Option Nat × Flags) → List (Option Nat × Flags)
  | x :: y :: t => redCombine op r w c x y :: redPairs op r w c t
  | t => t

/-- An element of FA widened exactly to FD (R89, R168). -/
def widen (r : Rnd) (fa fd x : Nat) : Nat := if fa = fd then x else exactBits fd (readExact r fa x)

/-- The final result scaled and made into FD once (R89). -/
def redFinal (r : Rnd) (w c : Nat) (scale : Int) (x : Nat) : Nat × Flags :=
  match fmtClass c with
  | .rns | .tick => (canonElem w c x, 0)
  | _ => finishExact r c ((readExact r c x).scale scale)

/-- VREDSUM, VREDMAX and VREDMIN over the elements by lane (R89). -/
def reduce (op : Red) (r : Rnd) (w fa fd : Nat) (scale : Int) (init : Nat) (elem : Nat → Nat) (es : List Nat) :
    Nat × Flags :=
  let parts := (List.range 16).map fun l =>
    (es.filter (fun e => e % 16 = l)).foldl (fun acc e => redCombine op r w fd acc (some (widen r fa fd (elem e)), 0)) (none, 0)
  let t := redPairs op r w fd (redPairs op r w fd (redPairs op r w fd (redPairs op r w fd parts)))
  let total := t.headD (none, 0)
  let res := match total with
    | (none, f) => (init, f)
    | (some x, f) => let z := redStep op r w fd init x; (z.1, f ||| z.2)
  let y := redFinal r w fd scale res.1
  (y.1, res.2 ||| y.2)

/-- The running sum of VSCAN: each element's written value, and the flags (R90). FTZI reads a subnormal running value as zero
(log entry 70). -/
def scanList (r : Rnd) (fd : Nat) (scale : Int) (elem : Nat → Nat) : List Nat → Nat → List (Nat × Nat) × Flags
  | [], _ => ([], 0)
  | e :: t, run =>
    match fmtClass fd with
    | .rns =>
      let y := (rnsAdd (rnsOf run) (rnsOf (elem e))).word
      let rest := scanList r fd scale elem t y
      ((e, y) :: rest.1, rest.2)
    | _ =>
      let y := exAdd r (readExact r fd run) (readExact r fd (elem e))
      let out := finishExact r fd (y.1.scale scale)
      let nxt := finishExact r fd y.1
      let rest := scanList r fd scale elem t nxt.1
      ((e, out.1) :: rest.1, y.2 ||| out.2 ||| nxt.2 ||| rest.2)

/-! ## Whole instructions at their rendezvous (R147, R163 to R170) -/

/-- What an instruction that is carried out as a whole gives: changes, flags, and a scalar result with its taint. -/
structure Whole where
  writes : List VWrite
  flags : Flags := 0
  scalar : Option (SReg × Word × Bool) := none
  deriving DecidableEq, Repr

/-- Set bits of a mask among elements. -/
def countMask (v : View) (ma : MReg) (es : List Nat) : Nat := (es.filter fun e => v.vec.maskBit ma.toNat e).length

/-- Taint of whatever the elements of the operands read, with the scalars'. -/
def anyTaint (i : LaneInstr) (v : View) (srcs : List VOp) (es : List Nat) : Bool :=
  i.taint || es.any fun e => srcs.any fun o => v.taint o i.vlm e

/-- An instruction carried out as a whole: every result from the view as it stood before (R146). VEXTR reads, and VPERM
copies, canonical residues and ticks (R77, R84, log entry 69). -/
def wholeOf (i : LaneInstr) (v : View) : Whole :=
  let ew := i.ew
  let act := i.actives v
  match i.job with
  | .iota vd ma =>
    { writes := act.map fun e =>
        writeElem i vd e ew (countMask v ma (act.filter (· < e)) % 2 ^ ew) i.taint }
  | .query sd x => { writes := [], scalar := some (sd, x, i.taint) }
  | .popm sd ma => { writes := [], scalar := some (sd, BitVec.ofNat 64 (countMask v ma act), false) }
  | .first sd ma =>
    { writes := [], scalar := some (sd, match act.find? (fun e => v.vec.maskBit ma.toNat e) with
        | some e => BitVec.ofNat 64 e
        | none => BitVec.allOnes 64, false) }
  | .extr sd va x signed =>
    if i.vl ≤ x then { writes := [], scalar := some (sd, 0, i.taint) }
    else
      let raw := canonElem i.window (fFA i.fmt) (v.src va i.vlm x ew)
      { writes := [], scalar := some (sd, if signed then BitVec.ofInt 64 (signedOf ew raw) else BitVec.ofNat 64 raw,
          i.taint || v.taint va i.vlm x) }
  | .ins vd val x =>
    if i.vl ≤ x then { writes := [] } else { writes := [writeElem i vd x ew (val.toNat % 2 ^ ew) i.taint] }
  | .perm vd va vb =>
    { writes := act.map fun e =>
        let k := intElem (fFB i.fmt) (v.src vb i.vlm e ew)
        let ok := 0 ≤ k && k < i.vl
        writeElem i vd e ew (if ok then canonElem i.window (fFA i.fmt) (v.src va i.vlm k.toNat ew) else 0)
          (i.taint || v.taint vb i.vlm e || (ok && v.taint va i.vlm k.toNat)) }
  | .slide up vd va n =>
    if up then
      { writes := (act.filter (n ≤ ·)).map fun e =>
          writeElem i vd e ew (v.src va i.vlm (e - n) ew) (i.taint || v.taint va i.vlm (e - n)) }
    else
      { writes := act.map fun e =>
          if e + n < i.vl then writeElem i vd e ew (v.src va i.vlm (e + n) ew) (i.taint || v.taint va i.vlm (e + n))
          else writeElem i vd e ew 0 i.taint }
  | .red op vd va vb =>
    let f := i.fmt
    let x := reduce op i.rnd i.window (fFA f) (fFD f) (fScale f) (v.src vb i.vlm 0 ew)
      (fun e => v.src va i.vlm e (srcWidth (fFA f) ew)) act
    { writes := [writeElem i vd 0 ew x.1 (anyTaint i v [va] act || v.taint vb i.vlm 0)], flags := x.2 }
  | .scan vd va vb =>
    let f := i.fmt
    let x := scanList i.rnd (fFD f) (fScale f) (fun e => v.src va i.vlm e ew) act (v.src vb i.vlm 0 ew)
    { writes := x.1.map fun p =>
        writeElem i vd p.1 ew p.2 (anyTaint i v [va] (act.filter (· ≤ p.1)) || v.taint vb i.vlm 0), flags := x.2 }
  | .compress vd va =>
    { writes := (List.range act.length).map fun j =>
        writeElem i vd j ew (v.src va i.vlm (act.getD j 0) ew) (i.taint || v.taint va i.vlm (act.getD j 0)) }
  | _ =>
    let x := elemResults i v act
    { writes := x.1, flags := x.2 }

/-- The result of an instruction carried out as a whole, with the taint of every lane that it writes (R186). -/
def wholeResult (i : LaneInstr) (v : View) : Whole :=
  let x := wholeOf i v
  { x with writes := laneTaint x.writes }

/-! ## Which slices an instruction reads, and the rendezvous (R147, R149, R179) -/

/-- A slice that an element needs: the element, the register, the lane, and the policy of the operand (R149). -/
structure Need where
  e : Nat
  reg : Nat
  lane : Nat
  pol : Bool
  deriving DecidableEq, Repr

/-- The slice of one operand that element `e` needs on behalf of another. -/
def needOf (i : LaneInstr) (o : VOp) (by_ e : Nat) : Need :=
  ⟨by_, (opSliceAt o i.vlm e).1, (opSliceAt o i.vlm e).2, o.pol⟩

/-- The slices that the active elements need. A VPERM whose index slice is empty reads no element of a for it: the index is
not known yet (log entry 71). A VAPPEND that resumes needs the slices of the elements that it recorded (R205). -/
def needs (i : LaneInstr) (v : View) : List Need :=
  let act := match i.job, i.resume with
    | .append .., some r => (List.range 2048).filter fun e => r.set.getLsbD e && !i.skip.getLsbD e
    | _, _ => i.actives v
  let each (os : List VOp) := act.flatMap fun e => os.map fun o => needOf i o e e
  match i.job with
  | .extr _ va x _ => if x < i.vl then [needOf i va x x] else []
  | .perm _ va vb =>
    each [vb] ++ act.filterMap fun e =>
      let k := intElem (fFB i.fmt) (v.src vb i.vlm e i.ew)
      let at' := opSliceAt vb i.vlm e
      if v.full at'.1 at'.2 && 0 ≤ k && k < i.vl then some (needOf i va e k.toNat) else none
  | .slide up _ va n =>
    act.filterMap fun e =>
      if up then (if n ≤ e then some (needOf i va e (e - n)) else none)
      else if e + n < i.vl then some (needOf i va e (e + n)) else none
  | .red _ _ va vb => needOf i vb 0 0 :: each [va]
  | .scan _ va vb => if act.isEmpty then [] else needOf i vb 0 0 :: each [va]
  | .compress _ va => each [va]
  | .mem k ad vt _ _ _ =>
    let idx := match ad with | .indexed vi _ => [vi] | _ => []
    match k with
    | .load _ _ => each idx
    | .store => each (idx ++ [vt])
    | .atomic op _ =>
      each (idx ++ [vt] ++ (if op = .cas then [⟨.row, vt.pol, vt.idx + 1⟩] else []))
    | .prefetch _ => []
  | .spill first n pol _ =>
    (List.range n).flatMap fun j => (List.range 16).map fun l => ⟨l, first + j, l, pol⟩
  | .append vt _ _ _ _ => each [vt]
  | .defer k _ first pol _ =>
    act.flatMap fun e => (List.range k).map fun j => ⟨e, first + j, e % 16, pol⟩
  | j => act.flatMap fun e => (elemReads i v e (elemSources j)).map fun o => needOf i o e e

/-- The lane that reads a needed slice: the slice's own at a rendezvous (R258), else the element's. -/
def readerLane (i : LaneInstr) (n : Need) : Nat := if isRendezvous i.job then n.lane else n.e % 16

/-- Lanes with an empty slice under policy 0 wait; lanes with one under policy 1 trap EMPTY (R149). -/
def emptyLanes (i : LaneInstr) (v : View) (pol : Bool) : List Nat :=
  ((needs i v).filter fun n => n.pol = pol && !v.full n.reg n.lane).map (readerLane i)

/-- Lanes that read a slice with an uncorrectable word: they trap MCHK (R171, R383). -/
def poisonLanes (i : LaneInstr) (v : View) : List Nat :=
  ((needs i v).filter fun n => (v.vec.slice n.reg n.lane).poison ≠ 0).map (readerLane i)

end Sys2Proof.Machine
end

