-- ==== Sys2Proof/Machine/Lane.lean ====
section
/-! DEFINITION. Carrying out lane instructions: the checks at dispatch (rank 4 of R41), element accesses (R181 to R196),
instructions that act as a whole (R197 to R205), retirement at the sequencer under VL zero (R43), and the trap state of a
lane fault (R189, R261). A hart whose `slip` is clear carries a lane instruction from its broadcast to its retirement in
one step (log entry 7); otherwise the instruction is broadcast into the lanes' queues. -/

namespace Sys2Proof.Machine

/-! ## What an instruction writes -/

/-- The scalar register that an instruction writes late, and its value where VL is zero (R43, R163, R165, R201, R202). -/
def jobLate : Job → Option (SReg × Option Word)
  | .popm sd _ => some (sd, some 0)
  | .first sd _ => some (sd, some (BitVec.allOnes 64))
  | .extr sd _ _ _ => some (sd, some 0)
  | .append _ sd _ _ _ => some (sd, none)
  | .defer _ _ _ _ sc | .drain _ _ sc => some (sc, some 0)
  | .dqCount sc | .dqFree sc | .dqClear sc => some (sc, some 0)
  | .query sd x => some (sd, some x)
  | _ => none

/-- VDQ executes whatever VL holds (R203). -/
def isVdq : Job → Bool
  | .dqCount _ | .dqFree _ | .dqClear _ => true
  | _ => false

/-! ## Element accesses -/

/-- The second source of a CAS: the register after vt (R193). -/
def casOperand (vt : VOp) : VOp := ⟨.row, vt.pol, vt.idx + 1⟩

/-- The value of element `e` as a load extends it to EW bits (R178). -/
def extendElem (sx : Bool) (mw ew x : Nat) : Nat := if sx then wrapBits ew (signedOf (8 * mw) x) else x

/-- What element `e` holds for a store or an atomic: its two operands. -/
def elemData (i : LaneInstr) (v : View) (e : Nat) : Nat × Nat :=
  match i.job with
  | .mem (.atomic .cas _) _ vt mw _ _ => (v.src vt i.vlm e (8 * mw), v.src (casOperand vt) i.vlm e (8 * mw))
  | .mem _ _ vt mw _ _ => (v.src vt i.vlm e i.ew % 2 ^ (8 * mw), 0)
  | _ => (0, 0)

/-- The slices whose taint an atomic's result takes (R186). -/
def atomicSources (op : AmoOp) (ad : Addressing) (vt : VOp) : List VOp :=
  (match ad with | .indexed vi _ => [vi] | _ => []) ++ [vt] ++ (if op = .cas then [casOperand vt] else [])

/-- The element access of element `e` for hart `k`, checked and performed (R181, R183, R188, R193): the state, and what it
writes to the destination. -/
def elemPerform (s : State) (k : Nat) (i : LaneInstr) (v : View) (e : Nat) :
    Except AccFault (State × List VWrite) :=
  let a := elemAddr i v e
  match i.job with
  | .mem (.load sx taint) _ vt mw _ _ =>
    match loadAt s (s.whoHart k) a mw with
    | .error f => .error f
    | .ok (s, x) => .ok (s, [writeElem i vt e i.ew (extendElem sx mw i.ew x) taint])
  | .mem .store _ _ mw _ _ =>
    match storeAt s ((s.whoHart k).on i.strm) a mw (elemData i v e).1 with
    | .error f => .error f
    | .ok s => .ok (s, [])
  | .mem (.atomic op false) ad vt mw _ _ =>
    let d := elemData i v e
    match atomicAt s ((s.whoHart k).on i.strm) op a mw d.1 d.2 with
    | .error f => .error f
    | .ok (s, m) => .ok (s, [writeElem i vt e i.ew m (elemTaint i v (atomicSources op ad vt) (e % 16))])
  | .mem (.atomic op true) _ _ mw _ _ =>
    match postAtomic s k i.strm op a mw (elemData i v e).1 with
    | .error f => .error f
    | .ok s => .ok (s, [])
  | _ => .ok (s, [])

/-- What the elements of an instruction leave: state, changes, elements done, and the fault of each lane that faulted. -/
structure Elements where
  s : State
  writes : List VWrite := []
  done : BitVec 2048 := 0
  bad : List (Nat × AccFault) := []

/-- Perform elements in ascending order; a lane that has faulted performs no later one (R189), and an abort ends them all
(R190). -/
def performElems (k : Nat) (perform : State → Nat → Except AccFault (State × List VWrite)) :
    List Nat → Elements → Elements
  | [], r => r
  | e :: t, r =>
    if r.bad.any (fun b => b.1 = e % 16) then performElems k perform t r
    else match perform r.s e with
      | .error f =>
        let q := { r with s := r.s.logFault (r.s.whoHart k) f (r.s.hart k).corr, bad := r.bad ++ [(e % 16, f)] }
        if f.abort then q else performElems k perform t q
      | .ok (s, ws) => performElems k perform t { r with s := s, writes := r.writes ++ ws, done := setBit r.done e true }

/-- The faults of an instruction as they stand when its trap is due: once the task is unrerunnable none is an abort (R341). -/
def liveFaults (s : State) (core : Nat) (bad : List (Nat × AccFault)) : List (Nat × AccFault) :=
  if s.aborts core then bad else bad.map fun b => (b.1, { b.2 with abort := false })

/-- The trap of a lane instruction: an abort condition of any lane, else the lowest lane's fault (R261). -/
def laneTrap (i : LaneInstr) (bad : List (Nat × AccFault)) (done : BitVec 2048) : Option Trap :=
  let pick : Option (Nat × AccFault) := match bad.find? (fun b => b.2.abort) with
    | some b => some b
    | none => bad.foldl (fun m b => match m with
        | none => some b
        | some x => if b.1 < x.1 then some b else some x) none
  pick.map fun b => { fault := b.2, epc := i.addr, blk := i.blk, lane := b.1, done := done }

/-! ## Prefetch (R196) -/

/-- Bring the line of one element into L2, and for LVL 0 into L1, where its translation is at hand; every other element is
dropped. -/
def prefetchElem (s : State) (k : Nat) (l2 : Bool) (a : Word) (mw : Nat) : State :=
  let w := s.whoHart k
  match checkAccess s w 1 a mw none with
  | .ok (_, .dev _) =>
    match (s.unit (unitOf (postOf w.core) a.toNat)).leaves.find? (leafFor w.asid a.toNat) with
    | some l => s.keep (postOf w.core) w.asid a.toNat l (if l2 then none else some w.core)
    | none => s
  | _ => s

/-- VPREF: an element with an empty index slice is dropped. -/
def prefetchAll (s : State) (k : Nat) (i : LaneInstr) (v : View) : State :=
  match i.job with
  | .mem (.prefetch l2) ad _ mw _ _ =>
    (i.actives v).foldl (fun s e =>
      let seen := match ad with
        | .indexed vi _ => let p := opSliceAt vi i.vlm e; v.full p.1 p.2
        | _ => true
      if seen then prefetchElem s k l2 (elemAddr i v e) mw else s) s
  | _ => s

/-- An access of the instruction meets a line that an engine owns, so that it waits (R320). The places of a VAPPEND are
not known before its tail advances: it waits until no line is held. -/
def laneRecalled (s : State) (k : Nat) (i : LaneInstr) (v : View) : Bool :=
  let w := s.whoHart k
  let frame (kind : Nat) (a : Word) (n : Nat) := s.recalled w kind a (64 + n * i.recordBytes)
  match i.job with
  | .mem _ _ _ mw _ _ => (i.actives v).any fun e => s.recalled w (elemKind i.job).1 (elemAddr i v e) mw
  | .spill _ n _ a => frame 2 a n
  | .fill _ n a => frame 1 a n
  | .append .. => s.anyHeld
  | _ => false

/-! ## Instructions that act as a whole (R197 to R205) -/

/-- What an instruction that acts as a whole leaves. -/
structure Acted where
  s : State
  writes : List VWrite := []
  scalar : Option (SReg × Word × Bool) := none
  bad : List (Nat × AccFault) := []
  done : BitVec 2048 := 0

/-- The spill frame of n registers (R197). -/
def frameBytes (i : LaneInstr) (v : View) (first n : Nat) : List Byte :=
  let rec64 := i.recordBytes
  let header := leBytes 4 i.vl ++ [(i.vtype.setWidth 8), BitVec.ofNat 8 n, BitVec.ofNat 8 first] ++ List.replicate 57 0
  header ++ (List.range n).flatMap fun j =>
    let elems := (List.range i.vl).flatMap fun e => leBytes (i.ew / 8) (v.elemAt (first + j) e i.ew)
    elems ++ List.replicate (rec64 - elems.length) 0

/-- The header of a frame matches the instruction (R198). -/
def frameOk (i : LaneInstr) (first n : Nat) (h : List Byte) : Bool :=
  leAt h 0 4 = i.vl && leAt h 4 1 % 8 = i.vtype.toNat % 8 && leAt h 5 1 = n && leAt h 6 1 = first

/-- What VFILL writes from the records of a frame (R198). -/
def fillWrites (i : LaneInstr) (first n : Nat) (bytes : List Byte) : List VWrite :=
  let rec64 := i.recordBytes
  (List.range n).flatMap fun j =>
    ((List.range i.vl).map fun e =>
      VWrite.elem (first + j) e (i.ew / 8) (leAt bytes (64 + j * rec64 + e * (i.ew / 8)) (i.ew / 8)) false) ++
    (List.range 16).map fun l => VWrite.fresh (first + j) l

/-- The set bits of a set below `e`. -/
def countBelow (set : BitVec 2048) (e : Nat) : Nat := ((List.range e).filter set.getLsbD).length

/-- The elements of a set. -/
def elemsOf (set : BitVec 2048) : List Nat := (List.range 2048).filter set.getLsbD

/-- The active elements as a set. -/
def activeSet (i : LaneInstr) (v : View) : BitVec 2048 := (i.actives v).foldl (fun m e => setBit m e true) 0

/-- The fault of EMPTY: TVAL is the instruction word (R133). -/
def emptyFault (i : LaneInstr) : AccFault := { cause := .empty, kind := 0, val := i.word }

/-- The fault of an uncorrectable register slice (R171): no address applies, KIND is 1 for VDRAIN (R188), and a rerunnable
BUFFERED task aborts (R383). -/
def poisonFault (s : State) (k kind : Nat) : AccFault :=
  { cause := .mchk, kind := kind, val := 0, abort := s.aborts (k / 4), inPlane := true }

/-- The lanes in which VDRAIN writes a slice that holds an uncorrectable word: they trap MCHK too (R202). -/
def drainLanes (s : State) (k : Nat) (i : LaneInstr) (v : View) : List Nat :=
  match i.job with
  | .drain n first _ =>
    (List.range (min i.vl (s.hart k).defer.length)).filterMap fun e =>
      if (List.range n).any fun j => (v.vec.slice (first + j) (e % 16)).poison ≠ 0 then some (e % 16) else none
  | _ => []

/-- An instruction acts as a whole for hart `k` (R198, R201 to R205). A VAPPEND that completes leaves the append-resume record of a
trap that its hart is handling (R205); TLANE of a fault on its tail add is 16, as of a frame's (log entry 96). -/
def actWhole (s : State) (k : Nat) (i : LaneInstr) (v : View) : Acted :=
  let w := (s.whoHart k).on i.strm
  let h := s.hart k
  let stopAt (s : State) (f : AccFault) : Acted := { s := s.logFault w f h.corr, bad := [(16, f)] }
  match i.job with
  | .spill first n _ frame =>
    let bs := frameBytes i v first n
    let r := writeRun s w frame 8 (bs.length / 8) bs
    match r.2 with
    | none => { s := r.1 }
    | some f => stopAt r.1 f
  | .fill first n frame =>
    let rec64 := i.recordBytes
    match readRun s w frame 8 8 with
    | .error f => stopAt s f
    | .ok (s, hd) =>
      if !frameOk i first n hd then { s := s, bad := [(16, { cause := .ill, kind := 0, val := i.word })] }
      else match readRun s w (frame + 64) 8 (n * rec64 / 8) with
        | .error f => stopAt s f
        | .ok (s, bs) => { s := s, writes := fillWrites i first n (hd ++ bs) }
  | .append vt sd mw base tail =>
    let start : Except AccFault (State × AppendResume × Option (SReg × Word × Bool)) := match i.resume with
      | some r => .ok (s, r, none)
      | none =>
        let set := activeSet i v
        match atomicAt s w .add tail 8 (elemsOf set).length 0 with
        | .error f => .error f
        | .ok (s, t) => .ok (s, ⟨BitVec.ofNat 64 t, set, i.addr⟩, some (sd, BitVec.ofNat 64 t, i.taint))
    match start with
    | .error f => stopAt s f
    | .ok (s, r, late) =>
      let skip := if i.resume.isSome then i.skip else 0
      let store (s : State) (e : Nat) : Except AccFault (State × List VWrite) :=
        match storeAt s w (base + (r.t + BitVec.ofNat 64 (countBelow r.set e)) * BitVec.ofNat 64 mw) mw
            (v.src vt i.vlm e i.ew % 2 ^ (8 * mw)) with
        | .error f => .error f
        | .ok s => .ok (s, [])
      let x := performElems k store ((elemsOf r.set).filter fun e => !skip.getLsbD e) { s := s, done := skip }
      let record := if x.bad.isEmpty then (s.hart k).appendResume else some r
      { s := x.s.setHart k { x.s.hart k with appendResume := record }, scalar := late, bad := x.bad, done := x.done }
  | .defer n md first _ sc =>
    let act := i.actives v
    let take := act.take (Config.deferCap - h.defer.length)
    let entry e : DeferEntry := ⟨(List.range n).map fun j => BitVec.ofNat 64 (v.elemAt (first + j) e i.ew)⟩
    { s := s.setHart k { h with defer := h.defer ++ take.map entry },
      writes := act.map fun e => .maskBit md.toNat e (take.contains e),
      scalar := some (sc, BitVec.ofNat 64 take.length, false) }
  | .drain n first sc =>
    let m := min i.vl h.defer.length
    let bad := drainLanes s k i v
    if !bad.isEmpty then { s := s, bad := bad.map fun l => (l, poisonFault s k 1) }
    else
    { s := s.setHart k { h with defer := h.defer.drop m },
      writes := (h.defer.take m).zipIdx.flatMap fun p => (List.range n).map fun j =>
        VWrite.elem (first + j) p.2 (i.ew / 8) ((p.1.vals.getD j 0).toNat % 2 ^ i.ew) false,
      scalar := some (sc, BitVec.ofNat 64 m, false) }
  | .dqCount sc => { s := s, scalar := some (sc, BitVec.ofNat 64 h.defer.length, false) }
  | .dqFree sc => { s := s, scalar := some (sc, BitVec.ofNat 64 (Config.deferCap - h.defer.length), false) }
  | .dqClear sc =>
    { s := s.setHart k { h with defer := [] }, scalar := some (sc, BitVec.ofNat 64 h.defer.length, false) }
  | _ => { s := s }

/-! ## One step from broadcast to retirement (log entry 7) -/

/-- The lanes of an instruction of hart `k` that fault on what they read: EMPTY under policy 1, or MCHK. A lane that meets both
reports EMPTY (log entry 71), and KIND is 0: no access has been made (log entry 97). -/
def badReads (s : State) (k : Nat) (i : LaneInstr) (v : View) : List (Nat × AccFault) :=
  (emptyLanes i v true).map (fun l => (l, emptyFault i))
    ++ (poisonLanes i v).map fun l => (l, poisonFault s k 0)

/-- The registers that an instruction writes are dead no longer (R31). -/
def Seq.revive (q : Seq) (rs : List Nat) : Seq := rs.foldl (fun q r => { q with deadV := setBit q.deadV r false }) q

/-- Apply changes, flags and a scalar result to a hart. -/
def Hart.absorb (h : Hart) (ws : List VWrite) (fl : Flags) (sc : Option (SReg × Word × Bool)) : Hart :=
  let h1 := { h with vec := h.vec.applyAll ws, vflags := h.vflags ||| fl }
  match sc with
  | some (r, v, t) => h1.putS r v t
  | none => h1

/-- The hart's lane sequence counter passes one lane instruction (R248). -/
def State.countLane (s : State) : State := s.setCur { s.cur with laneSeq := s.cur.laneSeq + 1 }

/-- The instruction completes. -/
def completeLane (s0 s : State) (i : LaneInstr) (ws : List VWrite) (fl : Flags) (sc : Option (SReg × Word × Bool)) :
    Step :=
  let h := (s.cur.absorb ws fl sc)
  .next (finish s0 (s.setCur { h with seq := h.seq.revive (jobRegs i.job i.vl) }).countLane.pass)

/-- The instruction traps, keeping what its done elements gave (R171, R189). -/
def trapLane (s : State) (i : LaneInstr) (ws : List VWrite) (fl : Flags) (sc : Option (SReg × Word × Bool)) (t : Trap) :
    Step :=
  let s1 := (s.setCur (s.cur.absorb ws fl sc)).countLane
  .next (takeTrap s1 s1.focus { t with append := s1.cur.appendResume.isSome } ⟨i.vtype, i.vl⟩)

/-- A change of mode holds an island for one reference period, and a stretched clock for at most 1 µs, which are 100 of them,
whether or not the end has been noted (R299, R300, R307). -/
def Island.holds (i : Island) (now : Nat) : Bool :=
  (match i.pause with
    | some t => now < t + 1
    | none => false) || (match i.stretch with
    | some t => now < t + 100
    | none => false)

/-- A lane's island is held. -/
def Core.laneHeld (c : Core) (now l : Nat) : Bool := (Table.get {} c.islands (l / 4)).holds now

/-- The lane that computes VEXTR and VINS, and that answers a query. -/
def elemLane (j : Job) : Option Nat :=
  match j with
  | .query .. => some 0
  | .extr _ _ x _ | .ins _ _ x => some (x % 16)
  | _ => none

/-- The elements of an instruction that the lanes without a fault have done when it traps on what it reads: none of a
rendezvous (R259), none of VEXTR, whose one element is the one at fault (R165), nor any of a faulting lane. -/
def doneBeside (i : LaneInstr) (v : View) (bad : List (Nat × AccFault)) : List Nat :=
  if isRendezvous i.job || (elemLane i.job).isSome then []
  else (i.actives v).filter fun e => !bad.any fun b => b.1 = e % 16

/-- The hart of a core and slot. -/
def hartNo (core slot : Nat) : Nat := 4 * core + slot

/-- The instruction is one of the memory kind. -/
def isMemKind (j : Job) : Bool :=
  match j with
  | .mem .. | .spill .. | .fill .. | .append .. => true
  | _ => false

/-- Element requests that a lane has outstanding, over the harts of its core (R301). -/
def outstanding (s : State) (core l : Nat) : Nat :=
  (List.range 4).foldl (fun n k => (s.hart (hartNo core k)).window.foldl (fun n f => n + (f.lane l).sent) n) 0

/-- The request cap of a lane: 64 at reset, never below 1 (R301). -/
def Core.cap (c : Core) (l : Nat) : Nat := max 1 (Table.get 64 c.caps l)

/-- Some lane of a core can issue nothing of an instruction: its island is held (R299, R300), or its requests stand at its cap
(R301). -/
def lanesHeld (s : State) (core : Nat) (j : Job) : Bool :=
  let c := s.core core
  (List.range 16).any fun l => c.laneHeld s.clock l || (isMemKind j && c.cap l ≤ outstanding s core l)

/-- A lane instruction carried from its broadcast to its retirement: each of its element requests is answered before the next
is made, so that no lane passes its cap (R301). -/
def directLane (s : State) (i : LaneInstr) : Step :=
  let k := s.focus
  let v : View := ⟨s.cur.vec, i.dead, i.deadZero⟩
  let bad := badReads s k i v
  if lanesHeld s s.curCoreNo i.job then .next (s.hold .lanes)
  else match i.job with
  | .mem (.prefetch _) .. => completeLane s (prefetchAll s k i v) i [] 0 none
  | _ =>
    if emptyLanes i v false ≠ [] || (!s.nothingHeld && laneRecalled s k i v) then
      .next (s.hold .lanes)
    else if !bad.isEmpty && (isRendezvous i.job || !isMem i.job) then
      let es := doneBeside i v bad
      let x := elemResults i v es
      match laneTrap i bad (es.foldl (fun m e => setBit m e true) 0) with
      | some t => trapLane s i x.1 x.2 none t
      | none => .next s
    else if isMem i.job then
      let r := performElems k (fun s e => elemPerform s k i v e) (i.actives v) { s := s, done := i.skip, bad := bad }
      match laneTrap i (liveFaults r.s (k / 4) r.bad) r.done with
      | some t => trapLane r.s i r.writes 0 none t
      | none => completeLane s r.s i r.writes 0 none
    else if isWhole i.job then
      let r := actWhole s k i v
      match laneTrap i r.bad r.done with
      | some t => trapLane r.s i r.writes 0 r.scalar t
      | none => completeLane s r.s i r.writes 0 r.scalar
    else
      let x := wholeResult i v
      completeLane s s i x.writes x.flags x.scalar

/-! ## Dispatch -/

/-- The lane instruction at the dispatch point, with what it reads there (R57, R141, R180, R249). -/
def State.laneInstr (s : State) (srcs : List SReg) (fmt : BitVec 32) (mask : MReg) (strm : BitVec 3) (j : Job) :
    LaneInstr :=
  let q := s.cur.seq
  { job := j, addr := q.pc, blk := q.blk, word := s.word, vl := s.vl, vtype := s.vtype, fmt := fmt, mask := mask,
    window := q.twindow, taint := srcs.any s.taintS, strm := strm, skip := if isMem j || isWhole j then s.cur.skip else 0,
    resume := s.cur.resume, deadZero := Config.deadVector s.freeCount, dead := q.deadV }

/-- The instruction enters the window, to be broadcast by LANE_BROADCAST (R248); the next word is dispatched from `next`. -/
def stageFrom (s next : State) (i : LaneInstr) : State :=
  let h := next.cur
  let q := match jobLate i.job with
    | some (r, _) => h.seq.await s.token r
    | none => h.seq
  s.setCur { h with wait := none, skip := 0, resume := none, seq := q.revive (jobRegs i.job i.vl),
                    window := h.window ++ [{ li := some i, before := s.cur.seq, tok := s.token }] }

/-- The same, of an instruction that does not end its block. -/
def stageLane (s : State) (i : LaneInstr) : State := stageFrom s s.pass i

/-- A misaligned frame of VSPILL or VFILL traps PROT before any access (R197). -/
def frameFault (j : Job) : Option AccFault :=
  match j with
  | .spill _ _ _ a => if a.toNat % 64 = 0 then none else some (accFault .prot 2 a)
  | .fill _ _ a => if a.toNat % 64 = 0 then none else some (accFault .prot 1 a)
  | _ => none

/-- A lane instruction at the dispatch point: it waits for the scalars it reads (R94), is checked (`ok`, rank 4 of R41,
with R22 and the formats), retires at the sequencer where VL is zero (R43), and otherwise runs. -/
def lane (s : State) (srcs : List SReg) (ok : Bool) (fmt : BitVec 32) (mask : MReg) (strm : BitVec 3) (j : Job) : Step :=
  if s.busy srcs then .next (s.hold .reg)
  else if !(ok && (operands j).all fun o => opOk o s.regs s.vl s.vtype) then settle (ill s)
  else if s.vl = 0 && !isVdq j then
    match jobLate j with
    | some (r, some v) => .next (finish s (s.putS r v false).pass)
    | _ => .next (finish s s.pass)
  else match frameFault j with
    | some f => settle (fail s f)
    | none =>
      let i := s.laneInstr srcs fmt mask strm j
      let s := s.setCur (s.cur.meet s.freeCount ((operands j).flatMap (opRegs · s.vl) ++ jobRegs j s.vl))
      if s.cur.slip || !s.cur.window.isEmpty then .next (stageLane s i) else directLane s i

end Sys2Proof.Machine
end

