-- ==== Sys2Proof/Machine/Engine.lean ====
section
/-! DEFINITION. What the engines share: barriers and their arrivals (R236, R237), the truss (R241, R294, R295), issuing a
command into its slot (R206 to R211), and the accesses that an engine makes (R210, R320). -/

namespace Sys2Proof.Machine

/-! ## Barriers and the truss -/

/-- The key of a slot of an engine: 0 matrix, 1 copy, 2 temporal. -/
def slotKey (eng slot : Nat) : Nat := 16 * eng + slot
/-- The command in a slot. -/
def Core.slot (c : Core) (key : Nat) : Option Command := Table.get none c.slots key
/-- Replace the command in a slot. -/
def Core.setSlot (c : Core) (key : Nat) (x : Option Command) : Core := { c with slots := Table.set none c.slots key x }

/-- The engine and the common fields of an engine command (R206, R212). -/
def cmdInfo : Instr → Option (Nat × Cmd)
  | .mtile a | .mtileAcc a | .mtileDecay a => some (0, ⟨a.bar, a.slot, a.q⟩)
  | .mzero _ _ c | .mconv _ _ _ c | .mconvV _ _ _ _ _ c | .mload _ _ _ c | .aspill _ _ c | .afill _ _ c => some (0, c)
  | .cpy _ c | .cpyg _ _ c | .cpys _ _ c | .cfill _ _ c => some (1, c)
  | .twin _ _ c | .twld _ c | .tlaunch c | .tlaunchAnd c | .tlaunchMix _ c | .tcapt _ c | .tcaptFirstk _ _ c
  | .tcaptCount _ c | .treset c => some (2, c)
  | _ => none

/-- The engine of a command. -/
def Command.eng (x : Command) : Nat := ((cmdInfo x.instr).map Prod.fst).getD 0
/-- The barrier of a command. -/
def Command.bar (x : Command) : Nat := ((cmdInfo x.instr).map fun p => p.2.bar.toNat).getD 0
/-- The slot key of a command. -/
def Command.key (x : Command) : Nat := ((cmdInfo x.instr).map fun p => slotKey p.1 p.2.slot.toNat).getD 0

/-- The scalar register that a command writes (R235). -/
def Command.sreg (x : Command) : Option SReg :=
  match x.instr with
  | .tcaptCount sd _ => some sd
  | _ => none

/-- The stage in which a started command begins. -/
def firstStage : Instr → Stage
  | .mtile _ | .mtileAcc _ | .mtileDecay _ | .mconv _ _ _ _ | .mload _ _ _ _ | .cpy _ _ | .cpyg _ _ _ | .cpys _ _ _
  | .cfill _ _ _ => .desc
  | .tlaunch _ | .tlaunchAnd _ | .tlaunchMix _ _ => .wave
  | _ => .run

/-- A started command enters its engine's run order (R208). -/
def Core.enqueue (c : Core) (x : Command) : Core :=
  match x.eng with
  | 0 => { c with morder := c.morder ++ [x.key] }
  | 2 => { c with torder := c.torder ++ [x.key] }
  | _ => c

/-- An MTILE of any mode. -/
def isMtile : Instr → Bool
  | .mtile _ | .mtileAcc _ | .mtileDecay _ => true
  | _ => false

/-- A cut keeps a matrix command that it finds before its first pass (R291): every MTILE, and what stands behind a
command that the cut stops or keeps. -/
def Core.keeps (c : Core) (x : Command) (behind : List Nat) : Bool :=
  x.eng = 0 && (isMtile x.instr || behind.any fun k => match c.slot k with
    | some y => y.stage = .kept || (y.cut && y.stage = .stopping none)
    | none => false)

/-- A cut has reached its second stage on the core (R326). -/
def Core.imaging (c : Core) : Bool :=
  match c.task with
  | some t => t.phase = .imaging
  | none => false

/-- Start a command that is in its slot; one started with an erroneous condition completes at once, without any access
(R295). -/
def Core.start (c : Core) (x : Command) (err : Option (BitVec 16 × Word)) : Core :=
  match err with
  | some e => c.setSlot x.key (some { x with stage := .done, err := some e })
  | none =>
    let first := if c.imaging && c.keeps x c.morder then .kept else firstStage x.instr
    (c.setSlot x.key (some { x with stage := first })).enqueue x

/-- Write a record of a command start (R409). -/
def traceStart (s : State) (core : Nat) (x : Command) : State :=
  traceTask s core 1 2 (match x.eng with | 0 => .matrix | 1 => .copy | _ => .temporal) (encode x.instr).toNat (x.key % 16)

/-- The fields of a truss term (R241). -/
def termEn (t : Word) : Bool := t.getLsbD 39
/-- REARM -/
def termRearm (t : Word) : Bool := t.getLsbD 38
/-- The slot key that a term names. -/
def termKey (t : Word) : Nat := slotKey (t.field 36 2).toNat (t.field 32 4).toNat
/-- Condition `j` of a term: valid, parity, barrier. -/
def termCond (t : Word) (j : Nat) : Bool × Bool × Nat :=
  (t.getLsbD (8 * j + 7), t.getLsbD (8 * j + 6), (t.field (8 * j) 6).toNat)
/-- The valid conditions of a term: parity and barrier. -/
def termConds (t : Word) : List (Bool × Nat) :=
  (List.range 4).filterMap fun j => let c := termCond t j; if c.1 then some c.2 else none

/-- The conditions of an enabled term hold. -/
def Core.fires (c : Core) (t : Word) : Bool := termEn t && (termConds t).all fun p => (c.barAt p.2).phase = p.1

/-- The error record of a fire: of the lowest-numbered valid condition's barrier that shows an error (R241). -/
def Core.termError (c : Core) (t : Word) : Option (BitVec 16 × Word) :=
  ((termConds t).map fun p => c.barAt p.2).find? (fun b => b.err) |>.map fun b => (b.fcode, b.faddr)

/-- Set the pending bit of a slot; an error record that it holds stays (R241). -/
def Core.pend (c : Core) (key : Nat) (err : Option (BitVec 16 × Word)) : Core :=
  let old := Table.get none c.pending key
  let new := match old with
    | some (some e) => some (some e)
    | _ => some err
  { c with pending := Table.set none c.pending key new }

/-- Add to a counter of the series (R412). -/
def Core.bumpBy (c : Core) (k n : Nat) : Core :=
  { c with counters := Table.set 0 c.counters k (Table.get 0 c.counters k + BitVec.ofNat 32 n) }
/-- Add one to a counter of the series. -/
def Core.bump (c : Core) (k : Nat) : Core := c.bumpBy k 1

/-- A fire of term `n` (R241). -/
def fireTerm (s : State) (core n : Nat) : State :=
  let c := s.core core
  let t := Table.get 0 c.truss n
  if !c.fires t then s
  else
    let err := c.termError t
    let c1 := if termRearm t then c else { c with truss := Table.set 0 c.truss n (setBit t 39 false) }
    let key := termKey t
    match c1.slot key with
    | some x =>
      if x.stage = .parked then traceStart (s.setCore core (c1.start x err)) core x
      else s.setCore core (c1.pend key err)
    | none => s.setCore core (c1.pend key err)

/-- Evaluate every term that names a barrier, in ascending number (R241, R294). -/
def evalTerms (s : State) (core bar : Nat) : State :=
  (List.range 16).foldl (fun s n =>
    if (termConds (Table.get 0 (s.core core).truss n)).any (fun p => p.2 = bar) then fireTerm s core n else s) s

/-- Where the arrivals of an engine come from. -/
def engineSrc (eng : Nat) : TraceSrc := if eng = 0 then .matrix else if eng = 1 then .copy else .temporal

/-- Write a record of an arrival, with who makes it (R409). -/
def traceArrival (s : State) (core n : Nat) (src : TraceSrc) : State :=
  let b := (s.core core).barAt n
  traceTask s core 1 3 src b.word.toNat b.faddr.toNat

/-- The barrier passes a phase (R237). -/
def Barrier.flip (b : Barrier) : Barrier := { b with arrived := 0, phase := !b.phase, epoch := b.epoch + 1 }

/-- Complete a phase (R237): the record of the arrival that does so comes before those of the terms that then fire (R409). -/
def completeBar (s : State) (core n : Nat) (src : TraceSrc) : State :=
  let c := s.core core
  evalTerms (traceArrival (s.setCore core ((c.setBar n (c.barAt n).flip).bump 9)) core n src) core n

/-- One normal arrival (R237). -/
def normalArrival (s : State) (core n : Nat) (src : TraceSrc) : State :=
  let c := s.core core
  let b := c.barAt n
  let s1 := s.setCore core (c.setBar n { b with arrived := b.arrived + 1 })
  if b.arrived + 1 = b.expect then completeBar s1 core n src else traceArrival s1 core n src

/-- Several normal arrivals, one after another (R239). -/
def normalArrivals (s : State) (core n : Nat) (src : TraceSrc) : Nat → State
  | 0 => s
  | k + 1 => normalArrivals (normalArrival s core n src) core n src k

/-- An error arrival (R237). -/
def errorArrival (s : State) (core n : Nat) (code : BitVec 16) (addr : Word) (src : TraceSrc) : State :=
  let c := s.core core
  let b := c.barAt n
  let b1 := if b.err then b else { b with fcode := code, faddr := addr }
  completeBar (s.setCore core (c.setBar n { b1 with err := true })) core n src

/-- The fault code of R210. -/
def faultCode (f : AccFault) (source detail : Nat) : BitVec 16 :=
  BitVec.ofNat 16 (f.cause.code * 256 + f.kind % 4 * 64 + source * 8 + detail)

/-! ## Engine accesses -/

/-- Write bytes from an address, whatever its alignment: the state after the pieces below the first faulting byte, and
its fault. -/
def engineWrite (s : State) (w : Who) : Nat → Word → List Byte → State × Option AccFault
  | 0, _, _ => (s, none)
  | fuel + 1, va, bs =>
    if bs.isEmpty then (s, none)
    else
      let k := pieceOf va bs.length
      match storeAt s w va k (leAt bs 0 k) with
      | .ok s => engineWrite s w fuel (va + BitVec.ofNat 64 k) (bs.drop k)
      | .error f => if k = 1 then (s, some f) else match storeBytesAt s w va k (leAt bs 0 k) with
        | (s, some g) => (s, some g)
        | (s, none) => (s, some f)

/-- Write a run of bytes. -/
def writeBytes (s : State) (w : Who) (va : Word) (bs : List Byte) : State × Option AccFault := engineWrite s w bs.length va bs

/-! ## Vector destinations (R148, R211, R253) -/

/-- Empty every slice of some registers. -/
def Hart.emptyRegs (h : Hart) (rs : List Nat) : Hart :=
  { h with vec := rs.foldl (fun v r => (List.range 16).foldl (fun v l => v.apply (.fullBit r l false)) v) h.vec,
           seq := h.seq.revive rs }

/-- Make every slice of some registers full, with their contents. -/
def Hart.fillRegs (h : Hart) (rs : List Nat) : Hart :=
  { h with vec := rs.foldl (fun v r => (List.range 16).foldl (fun v l => v.apply (.fullBit r l true)) v) h.vec }

/-- Deliver elements to a register: its slices become full and their taint clears. -/
def Hart.deliver (h : Hart) (reg w : Nat) (elems : List (Nat × Nat)) : Hart :=
  let ws := (elems.map fun p => VWrite.elem reg p.1 (w / 8) p.2 false) ++ (List.range 16).map fun l => VWrite.fresh reg l
  { h with vec := h.vec.applyAll ws }

/-! ## Issue (R206, R207, R211, R352) -/

/-- The row values that TWIN reads at issue: none while a slice is empty (R352). -/
def twinRow (h : Hart) (dead : BitVec 64) (free : Nat) (vo : VOp) : Option (List Byte) :=
  let v : View := ⟨h.vec, dead, Config.deadVector free⟩
  if (List.range 16).all fun l => v.full vo.idx.toNat l then
    some ((List.range 64).map fun e => BitVec.ofNat 8 (v.elemAt vo.idx.toNat e 8))
  else none

/-- Put a command into its free slot: its destination empties, and it is parked or started; a pending bit starts it at
once (R207, R211, R241). -/
def placeCommand (s : State) (core : Nat) (q : Bool) (x : Command) : State :=
  let h := (s.hart x.hart).emptyRegs x.regs
  let old := h.foreign.filter fun f => !x.regs.contains f.reg
  let new := if x.follow then x.regs.map fun r => (⟨r, x.key, x.bar, none, false⟩ : Foreign) else []
  let s := s.setHart x.hart { h with foreign := old ++ new }
  let c := ((s.core core).use x.bar).setSlot x.key (some { x with stage := .parked })
  if !q then traceStart (s.setCore core (c.start x none)) core x
  else match Table.get none c.pending x.key with
    | none => s.setCore core c
    | some err =>
      let c1 := { c with pending := Table.set none c.pending x.key none }
      traceStart (s.setCore core (c1.start x err)) core x

/-- Issue a command at the retire point: the state with it in its slot, or what the hart waits for, or, of TWIN, EMPTY or the MCHK
of a slice that holds an uncorrectable word (R171, R383). -/
def issueCommand (s : State) (k : Nat) (x : Command) (dead : BitVec 64) : Except Stop State :=
  let q := ((cmdInfo x.instr).map fun p => p.2.q).getD false
  if ((s.core (k / 4)).slot x.key).isSome then .error (.wait (.slot x.eng (x.key % 16)))
  else match x.instr with
    | .twin _ vo _ =>
      let s := s.setHart k ((s.hart k).meet s.freeCount [vo.idx.toNat])
      match twinRow (s.hart k) dead s.freeCount vo with
      | some row =>
        if (List.range 16).any fun l => ((s.hart k).vec.slice vo.idx.toNat l).poison ≠ 0 && !dead.getLsbD vo.idx.toNat then
          .error (.trap (s.trapHere (poisonFault s k 0)))
        else .ok (placeCommand s (k / 4) q { x with carry := row })
      | none =>
        if vo.pol then
          .error (.trap (s.trapHere { cause := .empty, kind := 0, val := encode x.instr }))
        else .error (.wait .lanes)
    | _ => .ok (placeCommand s (k / 4) q x)

/-- The documented waits of R306. -/
def Wait.documented : Wait → Bool
  | .wfe .. | .gbar | .bwait .. | .slot .. | .taskend | .rett => true
  | .reg | .lanes => false

/-- The hart is in a documented wait: its own, or that of its oldest word, a command whose slot is taken (R206, R306), or the
stop of a debug session (R411); or the power state gates its clock, which is no hang (R307, R308). -/
def State.waitsWell (s : State) (k : Nat) : Bool :=
  let h := s.hart k
  s.pstate ≠ 0 || h.status = .halted || (h.wait.map Wait.documented).getD false || match h.window with
    | { cmd := some x, .. } :: _ => ((s.core (k / 4)).slot x.key).isSome
    | _ => false

/-- The checks of an engine command that depend on its operands, in the order of R41: ILL at rank 4, or a fault at rank
6. -/
abbrev Checked := Except (Option AccFault) Unit

/-- The core has the engine (R44). -/
def Core.hasEngine (c : Core) (eng : Nat) : Bool := !c.lacks.getLsbD (eng + 1)

/-- The command that the word at the dispatch point makes (R207). -/
def State.command (s : State) (i : Instr) (va vb vc : Word) (fmt : BitVec 32) : Command :=
  let h := s.cur
  { instr := i, va := va, vb := vb, vc := vc, fmt := fmt, vtype := s.vtype, vl := s.vl, window := h.seq.twindow,
    hart := s.focus, handler := h.handler, asid := h.asid, ptroot := h.ptroot, stage := .parked, tok := s.token }

/-- An engine command at the dispatch point: checked (R215), and issued at the retire point (R206); on a slipped hart it
enters the window, to be issued by COMMAND_ISSUE. -/
def engineWord (s : State) (srcs : List SReg) (x : Command) (ok : Checked) : Step :=
  if !s.curCore.hasEngine x.eng then settle (ill s)
  else if s.busy srcs then .next (s.hold .reg)
  else match ok with
    | .error none => settle (ill s)
    | .error (some f) => settle (fail s f)
    | .ok _ =>
      let await (h : Hart) : Hart := match x.sreg with
        | some r => { h with seq := h.seq.await x.tok r }
        | none => h
      if s.cur.window.isEmpty then
        match issueCommand s s.focus x s.cur.seq.deadV with
        | .error (.wait w) => .next (s.hold w)
        | .error (.trap t) => settle (.error (.trap t, s))
        | .ok s1 => .next (finish s ((s1.setCur (await s1.cur)).pass))
      else
        let h := await s.pass.cur
        let f : InFlight := { li := none, before := s.cur.seq, cmd := some x }
        .next (s.setCur { h with wait := none, skip := 0, resume := none, seq := h.seq.revive x.regs,
                                 window := h.window ++ [f] })

end Sys2Proof.Machine
end

