-- ==== Sys2Proof/Machine/Tile.lean ====
section
/-! DEFINITION. Tiles: descriptors (R216, R217), the Q4 prologue (R75, R218), accumulator elements (R219), and the
arithmetic of a k-step (R78, R91, R222). -/

namespace Sys2Proof.Machine

/-! ## Descriptors -/

/-- Element `j` of a row's bytes from byte offset `b0`, at the format's width: packed in nibbles for INT4 and Q4 (R55). -/
def elemOfRow (fmt : Nat) (bs : List Byte) (b0 j : Nat) : Nat :=
  let w := fmtBits fmt
  leAt bs (j * w / 8 - b0) ((w + 7) / 8) / 2 ^ (j * w % 8) % 2 ^ w

/-- Read a descriptor: a fault or a malformed one is an engine error with DETAIL 1 (R215), which leaves what the read did. -/
def readDesc (s : State) (w : Who) (a : Word) : Except (State × AccFault × Nat) (State × List Byte) :=
  match readBytes s w a 64 with
  | .error f => .error (s, f, 1)
  | .ok (s, bs) => if tileDescOk bs then .ok (s, bs) else .error (s, { cause := .ill, kind := 0, val := a }, 1)

/-- The group size of a Q4 operand, from its descriptor or QG; none for a reserved QG (R218). -/
def groupSize (d : TileDesc) (fmt : BitVec 32) : Option Nat :=
  match d.gsz with
  | 0 => if fQG fmt = 3 then none else some (32 * 2 ^ fQG fmt)
  | g => some (32 * 2 ^ (g - 1))

/-- A Q4 code as BF16 (R75): rounded once under RNE. A code equal to its zero point gives the default NaN where the scale is
infinite (log entry 72). -/
def q4Value (q z sigma : Nat) : Nat :=
  (toFloat (rndOf 0) 8 (exMul (.ofInt ((q : Int) - (z % 16 : Nat))) (floatVal false 8 sigma)).1).1

/-- Groups in one row of a Q4 operand (R218). -/
def groupsPerRow (d : TileDesc) (g : Nat) : Nat := (d.cols + g - 1) / g

/-- Where the scale and the zero point of a group stand (R218). -/
def groupPlace (d : TileDesc) (g row group : Nat) : Word × Word :=
  let n := row * groupsPerRow d g + group
  (d.qscale + BitVec.ofNat 64 (2 * n), d.qzero + BitVec.ofNat 64 n)

/-- The scale and zero point of a group: as read before, or read now, which is once (R287). -/
def readGroup (s : State) (w : Who) (d : TileDesc) (g : Nat) (isB : Bool) (row group : Nat) (qs : List QGroup) :
    Except AccFault (State × QGroup × List QGroup) :=
  match qs.find? fun q => q.isB = isB && q.row = row && q.group = group with
  | some q => .ok (s, q, qs)
  | none =>
    let at_ := groupPlace d g row group
    match readBytes s w at_.1 2 with
    | .error f => .error f
    | .ok (s, sb) =>
      match readBytes s w at_.2 1 with
      | .error f => .error f
      | .ok (s, zb) =>
        let q : QGroup := ⟨isB, row, group, leAt sb 0 2, leAt zb 0 1⟩
        .ok (s, q, q :: qs)

/-- Form each element of a Q4 row, from column `j` on, from its group's scale and zero point. -/
def formRow (s : State) (w : Who) (d : TileDesc) (g : Nat) (isB : Bool) (row : Nat) :
    List Nat → Nat → List QGroup → Except AccFault (State × List Nat × List QGroup)
  | [], _, qs => .ok (s, [], qs)
  | q :: t, j, qs =>
    match readGroup s w d g isB row (j / g) qs with
    | .error f => .error f
    | .ok (s, r, qs) =>
      match formRow s w d g isB row t (j + 1) qs with
      | .error f => .error f
      | .ok (s, vs, qs) => .ok (s, q4Value q r.zero r.scale :: vs, qs)

/-- Elements `c0` to `c1 - 1` of row `i` of an operand, as the array takes them: Q4 codes become BF16 (R217, R287). -/
def readRow (s : State) (w : Who) (x : List Word) (d : TileDesc) (fmt : BitVec 32) (isB : Bool) (i c0 c1 : Nat)
    (qs : List QGroup) : Except AccFault (State × List Nat × List QGroup) :=
  let fb := fmtBits d.fmt
  let b0 := c0 * fb / 8
  match readBytes s w (d.row x i + BitVec.ofNat 64 b0) ((c1 * fb + 7) / 8 - b0) with
  | .error f => .error f
  | .ok (s, bs) =>
    let es := (List.range (c1 - c0)).map fun j => elemOfRow d.fmt bs b0 (c0 + j)
    if d.fmt ≠ 7 then .ok (s, es, qs) else formRow s w d ((groupSize d fmt).getD 32) isB i es c0 qs

/-- The bytes that the operand rows `i0` to `i1 - 1` take in columns `c0` to `c1 - 1` through L2, with those of the groups that
have not been read; none where the operand lies in the scratchpad (R217). -/
def rowSpans (x : List Word) (d : TileDesc) (fmt : BitVec 32) (isB : Bool) (i0 i1 c0 c1 : Nat) (qs : List QGroup) :
    List (Word × Nat) :=
  if d.loc || c1 ≤ c0 then []
  else
    let fb := fmtBits d.fmt
    let b0 := c0 * fb / 8
    let g := (groupSize d fmt).getD 32
    (List.range (i1 - i0)).flatMap fun k =>
      let i := i0 + k
      let groups := if d.fmt ≠ 7 then [] else ((List.range (c1 - c0)).map fun j => (c0 + j) / g).eraseDups.filter fun n =>
        !qs.any fun q => q.isB = isB && q.row = i && q.group = n
      (d.row x i + BitVec.ofNat 64 b0, (c1 * fb + 7) / 8 - b0) :: groups.flatMap fun n =>
        [((groupPlace d g i n).1, 2), ((groupPlace d g i n).2, 1)]

/-! ## Accumulator tiles (R219) -/

/-- A tile of a core. -/
def Core.tile (c : Core) (n : Nat) : Tile := Table.get {} c.tiles n
/-- Replace a tile. -/
def Core.setTile (c : Core) (n : Nat) (t : Tile) : Core := { c with tiles := Table.set {} c.tiles n t }
/-- Element (i, j): +0, or the residues of 0, where nothing is listed. -/
def Tile.at_ (t : Tile) (i j : Nat) : Nat := (Table.get 0 t.elems (128 * i + j)).toNat
/-- Write element (i, j). -/
def Tile.put (t : Tile) (i j v : Nat) : Tile := { t with elems := Table.set 0 t.elems (128 * i + j) (BitVec.ofNat 32 v) }
/-- The tag as a format code: FP32 or RNS32. -/
def Tile.tag (t : Tile) : Nat := if t.rns then 11 else 10
/-- Every element zero, with a tag and TB 0; RS clear (R224, R288). -/
def Tile.cleared (rns : Bool) : Tile := { rns := rns }
/-- RS clear (R288). -/
def Tile.clearRs (t : Tile) : Tile := { t with rstep := 0, rk := 0, rmode := 0, rfmt := 0 }

/-- Change the elements of rows below `m` and columns below `n`. -/
def Tile.mapRegion (t : Tile) (m n : Nat) (f : Nat → Nat → Nat → Nat) : Tile :=
  (List.range m).foldl (fun t i => (List.range n).foldl (fun t j => t.put i j (f i j (t.at_ i j))) t) t

/-! ## The pass of a k-step -/

/-- The rounding of the array: RNE, no flush of results, SAT and FTZI of the VTYPE at dispatch (R91). -/
def arrayRnd (vtype : BitVec 32) : Rnd := rndOf (vtype &&& 0xA0)

/-- The exact sum of the products of a group (R91). -/
def groupSum (r : Rnd) (fa fb : Nat) (as bs : List Nat) : Exact :=
  match (as.zip bs).map fun p => (exMul (floatVal r.ftzi fa p.1) (floatVal r.ftzi fb p.2)).1 with
  | [] => .num false 0 0 false
  | x :: t => t.foldl (fun a p => (exAdd r a p).1) x

/-- C + g, rounded once to FP32 (R91). Under FTZI a subnormal C reads as zero (log entry 70). -/
def addGroup (r : Rnd) (c : Nat) (g : Exact) : Nat := (toFloat r 10 (exAdd r (floatVal r.ftzi 10 c) g).1).1

/-- C · 2^SCALE, rounded to FP32 (R222, decay). Under FTZI a subnormal C reads as zero (log entry 70). -/
def decayElem (r : Rnd) (scale : Int) (c : Nat) : Nat := (toFloat r 10 ((floatVal r.ftzi 10 c).scale scale)).1

/-- C plus the channel sum of the products of residues (R78, R79). -/
def addResidues (fa fb : Nat) (c : Nat) (as bs : List Nat) : Nat :=
  ((as.zip bs).foldl (fun acc p =>
    rnsAdd acc (rnsMul (rnsEnter (signedOf (fmtBits fa) p.1)) (rnsEnter (signedOf (fmtBits fb) p.2)))) (rnsOf c)).word

/-- The format in which the array takes an operand: Q4 becomes BF16. -/
def arrayFmt (c : Nat) : Nat := if c = 7 then 8 else c

/-- The product bound P of R80. -/
def productBound (fa fb : Nat) : Nat :=
  match fa, fb with
  | 0, 0 => 2 ^ 14
  | 13, 13 => 2 ^ 6
  | _, _ => 2 ^ 10

/-- K of one k-step (R221). -/
def kStep (fd : Nat) : Nat := if fd = 11 then 128 else 32

/-- One pass: rows of A (each the k-step's K values) against columns of B (R222). -/
def passTile (t : Tile) (fmt vtype : BitVec 32) (a b : List (List Nat)) : Tile :=
  let r := arrayRnd vtype
  t.mapRegion a.length b.length fun i j c =>
    let x := a.getD i []
    let y := b.getD j []
    if fFD fmt = 11 then addResidues (fFA fmt) (fFB fmt) c x y
    else addGroup r c (groupSum r (arrayFmt (fFA fmt)) (arrayFmt (fFB fmt)) x y)

/-- Rows made columns. -/
def transposeRows (n : Nat) (rows : List (List Nat)) : List (List Nat) :=
  (List.range n).map fun j => rows.map fun r => r.getD j 0

end Sys2Proof.Machine
end

