-- ==== Sys2Proof/Machine/Matrix.lean ====
section
/-! DEFINITION. Matrix commands, MAJ 44 (R220 to R228), and the matrix engine at work (R282 to R292). -/

namespace Sys2Proof.Machine

/-! ## Checks at dispatch (R215, R221, R222, R224, R226, R228) -/

/-- The format combinations of R221. -/
def mtileFormats (fa fb fd : Nat) : Bool :=
  ((fd = 10 && ((fa = 9 && fb = 9) || ((fa = 8 || fa = 7) && (fb = 8 || fb = 7)))) ||
   (fd = 11 && (fa = 0 || fa = 13) && (fb = 0 || fb = 13)))

/-- MODE of an MTILE: 0 overwrite, 1 accumulate, 2 decay-accumulate. -/
def mtileMode : Instr → Nat
  | .mtileAcc _ => 1
  | .mtileDecay _ => 2
  | _ => 0

/-- The fields of an MTILE. -/
def mtileArgs : Instr → Option MtileArgs
  | .mtile a | .mtileAcc a | .mtileDecay a => some a
  | _ => none

/-- The tile of a matrix command. -/
def matrixAcc : Instr → Nat
  | .mtile a | .mtileAcc a | .mtileDecay a => a.acc.toNat
  | .mzero acc _ _ | .mconv _ acc _ _ | .mconvV _ _ acc _ _ _ | .mload _ _ acc _ | .aspill _ acc _ | .afill _ acc _ =>
    acc.toNat
  | _ => 0

/-- An address that must be a multiple of 64 (R215). -/
def aligned64 (kind : Nat) (a : Word) : Checked :=
  if a.toNat % 64 = 0 then .ok () else .error (some (accFault .prot kind a))

/-- The checks of an MTILE. -/
def mtileChecks (mode : Nat) (x : Command) (word : Word) : Checked :=
  let f := x.fmt
  if f.extractLsb' 3 5 ≠ 0 || !mtileFormats (fFA f) (fFB f) (fFD f) || (fScale f ≠ 0 && mode ≠ 2)
      || (mode = 2 && fFD f = 11) || x.vc.toNat = 0 || 65535 < x.vc.toNat then .error none
  else if fFD f = 11 && 536870400 < x.vc.toNat * productBound (fFA f) (fFB f) then
    .error (some { cause := .range, kind := 0, val := word })
  else match aligned64 1 x.va with
    | .ok _ => aligned64 1 x.vb
    | e => e

/-- The formats that MCONV may write (R226). -/
def mconvFormat (f : BitVec 32) : Bool :=
  f.extractLsb' 3 5 = 0 && [0, 1, 2, 3, 4, 5, 8, 9, 10, 11].contains (fFD f) && !(fScale f ≠ 0 && fFD f = 11)

/-- The checks of a matrix command, for a task of `agran` accumulator granules and a hart of `regs` registers. -/
def matrixChecks (x : Command) (word : Word) (agran regs : Nat) : Checked :=
  let f := x.fmt
  if agran / 2 ≤ matrixAcc x.instr then .error none
  else match x.instr with
    | .mtile _ => mtileChecks 0 x word
    | .mtileAcc _ => mtileChecks 1 x word
    | .mtileDecay _ => mtileChecks 2 x word
    | .mzero _ _ _ =>
      if f.extractLsb' 3 5 ≠ 0 || fScale f ≠ 0 || !(fFD f = 10 || fFD f = 11) then .error none else .ok ()
    | .mconv _ _ _ _ => if mconvFormat f then aligned64 1 x.va else .error none
    | .mconvV _ _ _ vo _ _ =>
      let n := x.vc.toNat
      if mconvFormat f && fmtBits (fFD f) = ewOf x.vtype && opIsRow vo && !vo.pol && 1 ≤ n && n ≤ 64
          && x.vb.toNat + n ≤ 256 && vo.idx.toNat + n ≤ regs then .ok () else .error none
    | .aspill _ _ _ => aligned64 2 x.va
    | _ => aligned64 1 x.va

/-- A matrix command at the dispatch point. -/
def matrixWord (s : State) (srcs : List SReg) (i : Instr) (va vb vc : Word) (fmt : BitVec 32) : Step :=
  let x := s.command i va vb vc fmt
  engineWord s srcs x (matrixChecks x s.word (agran s.cur.partw) s.regs)

/-- MTILE, overwrite (R220 to R222). -/
def execMtile (a : MtileArgs) (s : State) : Step :=
  matrixWord s [a.sa, a.sb, a.sc] (.mtile a) (s.getS a.sa) (s.getS a.sb) (s.getS a.sc) (s.getF a.fmt)

/-- MTILE.ACC (R220 to R222). -/
def execMtileAcc (a : MtileArgs) (s : State) : Step :=
  matrixWord s [a.sa, a.sb, a.sc] (.mtileAcc a) (s.getS a.sa) (s.getS a.sb) (s.getS a.sc) (s.getF a.fmt)

/-- MTILE.DECAY (R220 to R222). -/
def execMtileDecay (a : MtileArgs) (s : State) : Step :=
  matrixWord s [a.sa, a.sb, a.sc] (.mtileDecay a) (s.getS a.sa) (s.getS a.sb) (s.getS a.sc) (s.getF a.fmt)

/-- MZERO (R224). -/
def execMzero (acc : BitVec 5) (fmt : FReg) (c : Cmd) (s : State) : Step :=
  matrixWord s [] (.mzero acc fmt c) 0 0 0 (s.getF fmt)

/-- MCONV to memory (R225, R226). -/
def execMconv (sa : SReg) (acc : BitVec 5) (fmt : FReg) (c : Cmd) (s : State) : Step :=
  matrixWord s [sa] (.mconv sa acc fmt c) (s.getS sa) 0 0 (s.getF fmt)

/-- MCONV.V (R225, R226). -/
def execMconvV (sb sc : SReg) (acc : BitVec 5) (vo : VOp) (fmt : FReg) (c : Cmd) (s : State) : Step :=
  matrixWord s [sb, sc] (.mconvV sb sc acc vo fmt c) 0 (s.getS sb) (s.getS sc) (s.getF fmt)

/-- MLOAD (R227). -/
def execMload (sa sb : SReg) (acc : BitVec 5) (c : Cmd) (s : State) : Step :=
  matrixWord s [sa, sb] (.mload sa sb acc c) (s.getS sa) (s.getS sb) 0 0

/-- ASPILL (R228). -/
def execAspill (sa : SReg) (acc : BitVec 5) (c : Cmd) (s : State) : Step :=
  matrixWord s [sa] (.aspill sa acc c) (s.getS sa) 0 0 0

/-- AFILL (R228). -/
def execAfill (sa : SReg) (acc : BitVec 5) (c : Cmd) (s : State) : Step :=
  matrixWord s [sa] (.afill sa acc c) (s.getS sa) 0 0 0

/-! ## The engine -/

/-- The command that the matrix engine runs: the first of its run order (R208). -/
def Core.matrixHead (c : Core) : Option Command :=
  match c.morder with
  | k :: _ => c.slot k
  | [] => none

/-- Replace a command in its slot. -/
def State.setCmd (s : State) (core : Nat) (x : Command) : State := s.setCore core ((s.core core).setSlot x.key (some x))

/-- A command stops with a fault (R210), and pins no line (R285): an abort condition aborts the task instead. -/
def failCommand (s : State) (core : Nat) (x : Command) (f : AccFault) (detail : Nat) : State :=
  if f.abort then abortTask s core
  else ((s.logFault (s.whoCmd core x) f (s.corrOf core)).release core x.key).setCmd core { x with stage := .failed f detail }

/-- An engine error of shape or format (R215). -/
def shapeFault (a : Word) : AccFault := { cause := .ill, kind := 0, val := a }

/-- The shape of an MTILE: rows of A, columns of B, and whether K agrees (R222). -/
def mtileShape (a : MtileArgs) (da db : TileDesc) (k : Nat) : Nat × Nat × Bool :=
  let m := if a.tra then da.cols else da.rows
  let ka := if a.tra then da.rows else da.cols
  let n := if a.trb then db.rows else db.cols
  let kb := if a.trb then db.cols else db.rows
  (m, n, ka = k && kb = k && 1 ≤ m && m ≤ 256 && 1 ≤ n && n ≤ 128)

/-- RMODE (R288): MODE with TRA and TRB. -/
def rmodeOf (mode : Nat) (a : MtileArgs) : Nat := mode + (if a.tra then 4 else 0) + (if a.trb then 8 else 0)
/-- RFMT (R288): FA, FB, FD and SCALE in place. -/
def rfmtOf (fmt : BitVec 32) : BitVec 32 := fmt &&& 0xFFF0FF00

/-- Column quarters of an MTILE (R302). -/
def quarters (n : Nat) : Nat := min 4 ((n + 31) / 32)

/-- The fault of a poisoned accumulator element (R383): no address applies, and a rerunnable BUFFERED task aborts. -/
def State.tilePoison (s : State) (core : Nat) : AccFault :=
  { cause := .mchk, kind := 0, val := 0, abort := s.aborts core, inPlane := true }

/-- An element of `n` rows from row `i` on, of `cols` columns, is poisoned. -/
def Tile.bad (t : Tile) (i n cols : Nat) : Bool :=
  t.poison.any fun e => i ≤ e.1 / 128 && e.1 / 128 < i + n && e.1 % 128 < cols

/-- The descriptors of an MTILE have been read (R282, R290). -/
def mtileDescriptors (s : State) (core : Nat) (x : Command) (a : MtileArgs) : State :=
  let w := s.whoCmd core x
  match readDesc s w x.va with
  | .error (s, f, d) => failCommand s core x f d
  | .ok (s, ba) =>
    match readDesc s w x.vb with
    | .error (s, f, d) => failCommand s core x f d
    | .ok (s, bb) =>
      let da := tileDesc ba
      let db := tileDesc bb
      let k := x.vc.toNat
      let sh := mtileShape a da db k
      let mode := mtileMode x.instr
      let t := (s.core core).tile a.acc.toNat
      let same := t.rk = k && t.rmode = rmodeOf mode a && t.rfmt = rfmtOf x.fmt
      let q4bad := (da.fmt = 7 && groupSize da x.fmt = none) || (db.fmt = 7 && groupSize db x.fmt = none)
      if mode ≠ 0 && t.bad 0 sh.1 sh.2.1 then failCommand s core x (s.tilePoison core) 0
      else if da.fmt ≠ fFA x.fmt || db.fmt ≠ fFB x.fmt || !sh.2.2 || q4bad || (mode ≠ 0 && t.tag ≠ fFD x.fmt)
          || (t.rstep ≠ 0 && !same && mode ≠ 0) then failCommand s core x (shapeFault x.va) 2
      else
        let go := t.rstep ≠ 0 && same
        let s1 := if t.rstep ≠ 0 && !same then s.setCore core ((s.core core).setTile a.acc.toNat t.clearRs) else s
        let p := if go then t.rstep else 0
        let x1 := { x with stage := .starting, descA := ba, descB := bb, quarters := quarters sh.2.1, pos := p }
        { s1.setCmd core x1 with starts := s1.starts ++ [(core, quarters sh.2.1)] }

/-- The undefined elements of a tile whose MLOAD or AFILL faulted (R292, log entry 10). -/
def spoiled (free : Nat) (rns : Bool) : Tile :=
  { rns := rns, tb := 0xFFFFFFFF,
    elems := (List.range 32768).filterMap fun k =>
      let v := Config.tileWord free k
      if v = 0 then none else some (k, v) }

/-- An MLOAD or AFILL faults: its tile is undefined (R292). -/
def failFill (s : State) (core : Nat) (x : Command) (f : AccFault) (detail : Nat) (rns : Bool) : State :=
  if f.abort then abortTask s core
  else
    let c := s.core core
    failCommand (s.setCore core (c.setTile (matrixAcc x.instr) (spoiled s.freeCount rns))) core x f detail

/-- A command that has its tile from memory: MLOAD or AFILL. -/
def isFill : Instr → Bool
  | .mload .. | .afill .. => true
  | _ => false

/-- An MCONV or MLOAD stops at its descriptor or at what it says; the tile of an MLOAD is undefined (R292), and its source was
RNS32 only where a descriptor that has been read says so. A bound's address that is misaligned leaves the tile as it was (R227). -/
def failTile (s : State) (core : Nat) (x : Command) (f : AccFault) (detail : Nat) (rns : Bool) : State :=
  if isFill x.instr then failFill s core x f detail rns else failCommand s core x f detail

/-- The descriptor of an MCONV or MLOAD has been read (R225 to R227). -/
def tileDescriptor (s : State) (core : Nat) (x : Command) : State :=
  match readDesc s (s.whoCmd core x) x.va with
  | .error (s, f, d) => failTile s core x f d false
  | .ok (s, bs) =>
    let d := tileDesc bs
    let big := 256 < d.rows || 128 < d.cols || d.rows = 0 || d.cols = 0
    let x1 := { x with stage := .run, descA := bs, pos := 0 }
    match x.instr with
    | .mconv _ acc _ _ =>
      if ((s.core core).tile acc.toNat).bad 0 d.rows d.cols then failCommand s core x (s.tilePoison core) 0
      else if big || d.fmt ≠ fFD x.fmt || (fFD x.fmt = 11 && ((s.core core).tile acc.toNat).tag = 10) then
        failCommand s core x (shapeFault x.va) 2
      else s.setCmd core x1
    | _ =>
      if big || !(d.fmt = 8 || d.fmt = 9 || d.fmt = 10 || d.fmt = 11) then
        failTile s core x (shapeFault x.va) 2 (d.fmt = 11)
      else if d.fmt = 11 && x.vb.toNat % 4 ≠ 0 then failCommand s core x (accFault .prot 1 x.vb) 1
      else s.setCmd core x1

/-- Values of 16 bits as bytes, and back. -/
def packVals (vs : List Nat) : List Byte := vs.flatMap (leBytes 2)
/-- Row `row` of packed values, `k` to a row. -/
def unpackRow (bs : List Byte) (row k : Nat) : List Nat := (List.range k).map fun j => leAt bs (2 * (row * k + j)) 2

/-- The operand bytes that an MTILE takes through L2 for the columns of A from `k0` to `k1 - 1` (R217, R285). -/
def operandSpans (s : State) (core : Nat) (x : Command) (a : MtileArgs) (k0 k1 : Nat) : List (Word × Nat) :=
  let da := tileDesc x.descA
  let db := tileDesc x.descB
  let sh := mtileShape a da db x.vc.toNat
  let ix := s.indices core
  let ofA := if a.tra then rowSpans ix da x.fmt false k0 k1 0 sh.1 x.groups else rowSpans ix da x.fmt false 0 sh.1 k0 k1 x.groups
  let ofB := if a.trb then rowSpans ix db x.fmt true 0 sh.2.1 k0 k1 x.groups
    else rowSpans ix db x.fmt true k0 k1 0 sh.2.1 x.groups
  ofA ++ ofB

/-- The lines of a k-step's operands are pinned (R285). -/
def pinLines (s : State) (core : Nat) (x : Command) (spans : List (Word × Nat)) : State :=
  let w := s.whoCmd core x
  let new := (spans.flatMap fun r => s.linesAt w 1 r.1 r.2).map fun p => (⟨core, x.key, x.asid, p.1, p.2⟩ : Held)
  { s with held := s.held ++ new.eraseDups.filter fun h => !s.held.contains h }

/-- A k-step's pass has ended: of the lines that its command pins, those stay that a later k-step takes (R285). -/
def releaseLines (s : State) (core key : Nat) (later : List (Word × Nat)) : State :=
  let stays (h : Held) : Bool := later.any fun r => r.2 ≠ 0 && (linesOf r.1.toNat r.2).contains h.va
  { s with held := s.held.filter fun h => !(h.core = core && h.key = key) || stays h }

/-- An MTILE stops before a k-step that cannot be run (R289): no later one starts, and RS says how far it has come. -/
def stopStep (s : State) (core : Nat) (x : Command) (a : MtileArgs) (f : AccFault) : State :=
  if f.abort then abortTask s core
  else
    let c := s.core core
    let k := x.vc.toNat
    let t := c.tile a.acc.toNat
    let t1 := if x.pos = 0 then t
      else { t with rstep := x.pos, rk := k, rmode := rmodeOf (mtileMode x.instr) a, rfmt := rfmtOf x.fmt }
    let s0 := (s.logFault (s.whoCmd core x) f (s.corrOf core)).release core x.key
    let s1 := (s0.setCore core (c.setTile a.acc.toNat t1)).setCmd core { x with stage := .stopping (some f) }
    let n := (mtileShape a (tileDesc x.descA) (tileDesc x.descB) k).2.1
    { s1 with stops := s1.stops ++ [(core, quarters n)] }

/-- The values of K in the k-step at which an MTILE stands (R221). -/
def Command.kCount (x : Command) : Nat :=
  min x.vc.toNat (x.pos * kStep (fFD x.fmt) + kStep (fFD x.fmt)) - x.pos * kStep (fFD x.fmt)

/-- The shape of an MTILE whose descriptors have been read. -/
def Command.shape (x : Command) (a : MtileArgs) : Nat × Nat × Bool :=
  mtileShape a (tileDesc x.descA) (tileDesc x.descB) x.vc.toNat

/-- Every operand element of the k-step has arrived. -/
def Command.operandsIn (x : Command) (a : MtileArgs) : Bool :=
  x.carry.length = 2 * (((x.shape a).1 + (x.shape a).2.1) * x.kCount)

/-- Where operand element `e` of a k-step stands, those of A first and each operand's in the order in which its tile stores them:
whether it is of B, its row and its column (R284). -/
def operandPlace (x : Command) (a : MtileArgs) (e : Nat) : Bool × Nat × Nat :=
  let m := (x.shape a).1
  let n := (x.shape a).2.1
  let kk := x.kCount
  let k0 := x.pos * kStep (fFD x.fmt)
  if e < m * kk then (false, if a.tra then (k0 + e / m, e % m) else (e / kk, k0 + e % kk))
  else
    let b := e - m * kk
    (true, if a.trb then (b / kk, k0 + b % kk) else (k0 + b / n, b % n))

/-- The element of its operands that an MTILE reads next: its tile, and where it stands there. -/
def nextOperand (x : Command) (a : MtileArgs) : TileDesc × Bool × Nat × Nat :=
  let p := operandPlace x a (x.carry.length / 2)
  (tileDesc (if p.1 then x.descB else x.descA), p)

/-- The bytes that the next operand element takes through L2. -/
def nextSpans (s : State) (core : Nat) (x : Command) (a : MtileArgs) : List (Word × Nat) :=
  let o := nextOperand x a
  rowSpans (s.indices core) o.1 x.fmt o.2.1 o.2.2.1 (o.2.2.1 + 1) o.2.2.2 (o.2.2.2 + 1) x.groups

/-- The next operand element of a k-step arrives, and its line is pinned (R284 to R287, R321). -/
def operandFetch (s : State) (core : Nat) (x : Command) (a : MtileArgs) : State :=
  let o := nextOperand x a
  match readRow s (s.whoCmd core x) (s.indices core) o.1 x.fmt o.2.1 o.2.2.1 o.2.2.2 (o.2.2.2 + 1) x.groups with
  | .error f => stopStep s core { x with carry := [] } a f
  | .ok (s1, vs, qs) =>
    (pinLines s1 core x (nextSpans s core x a)).setCmd core { x with carry := x.carry ++ packVals vs, groups := qs }

/-- TB after a residue MTILE (R83). -/
def nextBound (mode k p tb : Nat) : Nat :=
  let d := (k * p + 1023) / 1024
  if mode = 0 then d else min (tb + d) 0xFFFFFFFF

/-- The pass of a k-step would read an accumulator element that is poisoned: every pass reads them but the first of an MTILE that
overwrites (R383). -/
def readsPoison (s : State) (core : Nat) (x : Command) (a : MtileArgs) : Bool :=
  let sh := mtileShape a (tileDesc x.descA) (tileDesc x.descB) x.vc.toNat
  (mtileMode x.instr ≠ 0 || x.pos ≠ 0) && ((s.core core).tile a.acc.toNat).bad 0 sh.1 sh.2.1

/-- One pass over the array (R222, R283): zeroing and decay belong to the pass of k-step 0 (R289); the last pass updates
TB, sets UNSURE where the bound is lost, and clears RS. The lines that no later k-step uses are released (R285). -/
def passStep (s : State) (core : Nat) (x : Command) (a : MtileArgs) : State :=
  let c := s.core core
  let k := x.vc.toNat
  let fd := fFD x.fmt
  let ks := kStep fd
  let k0 := x.pos * ks
  let kk := min k (k0 + ks) - k0
  let sh := mtileShape a (tileDesc x.descA) (tileDesc x.descB) k
  let m := sh.1
  let n := sh.2.1
  let mode := mtileMode x.instr
  let t := c.tile a.acc.toNat
  let t1 := if x.pos ≠ 0 then t
    else if mode = 0 then Tile.cleared (fd = 11)
    else if mode = 2 then t.mapRegion m n fun _ _ v => decayElem (arrayRnd x.vtype) (fScale x.fmt) v
    else t
  let rows (bs : List Byte) (n w : Nat) : List (List Nat) := (List.range n).map fun i => unpackRow bs i w
  let restB := x.carry.drop (2 * m * kk)
  let as := if a.tra then transposeRows m (rows x.carry kk m) else rows x.carry m kk
  let bs := if a.trb then rows restB n kk else transposeRows n (rows restB kk n)
  let t2 := passTile t1 x.fmt x.vtype as bs
  if k1done k k0 ks then
    let tb := if fd = 11 then nextBound mode k (productBound (fFA x.fmt) (fFB x.fmt)) t2.tb.toNat else t2.tb.toNat
    let t3 := if fd = 11 && 2 ^ 19 ≤ tb then t2.mapRegion m n fun _ _ v => v ||| 1 else t2
    let c1 := (c.setTile a.acc.toNat { t3 with tb := BitVec.ofNat 32 tb }.clearRs).bump 5
    let s1 := ((s.release core x.key).setCore core c1).setCmd core
      { x with stage := .stopping none, carry := [], pos := x.pos + 1, begun := true }
    { s1 with stops := s1.stops ++ [(core, quarters n)] }
  else
    let s1 := releaseLines s core x.key (operandSpans s core x a (k0 + kk) k)
    (s1.setCore core ((c.setTile a.acc.toNat t2).bump 5)).setCmd core { x with carry := [], pos := x.pos + 1, begun := true }
where
  /-- The k-step that starts at `k0` is the last. -/
  k1done (k k0 ks : Nat) : Bool := k ≤ k0 + ks

/-- Whether a command is the one that its engine runs. -/
def Core.isHead (c : Core) (x : Command) : Bool :=
  match x.eng with
  | 0 => c.morder.head? = some x.key
  | 2 => c.torder.head? = some x.key
  | _ => true

/-- One element of a tile converted by MCONV (R74, R82, R225). -/
def convElem (t : Tile) (x : Command) (i j : Nat) : Nat :=
  (cvtElem (rndOf x.vtype) 256 ((x.fmt &&& 0x0FFFFFFF) ||| BitVec.ofNat 32 (t.tag * 2 ^ 28)) (t.at_ i j)).1

/-- The element that MLOAD forms (R227): widened exactly, or canonical residues. -/
def loadElem (fmt v : Nat) : Nat :=
  if fmt = 11 then (rnsOf v).word
  else if fmt = 10 then v
  else if fmt = 8 then v * 65536
  else if v / 1024 % 32 = 31 then v / 32768 * 2 ^ 31 + 0x7F800000 + v % 1024 * 8192
  else (toFloat (rndOf 0) 10 (floatVal false 9 v)).1

/-- The 64 bytes before a tile image (R228). -/
def imageHeader (t : Tile) : List Byte := leBytes 4 t.tag ++ leBytes 4 t.tb.toNat ++ List.replicate 56 0

/-- A tile from its image (R228): its elements are the bits that were spilled, canonical or not (log entry 69). -/
def tileOfImage (bs : List Byte) : Tile :=
  { rns := leAt bs 0 1 = 11, tb := BitVec.ofNat 32 (leAt bs 4 4),
    elems := (List.range 32768).filterMap fun k =>
      let v := leAt bs (64 + 4 * k) 4
      if v = 0 then none else some (k, BitVec.ofNat 32 v) }

/-- The place of a command's next element in a tile of a number of columns: its row and its column. -/
def Command.place (x : Command) (cols : Nat) : Nat × Nat := (x.pos / cols, x.pos % cols)

/-- Where element `k` of a tile image stands, counted from 1: place 0 is the image's header (R228). -/
def imagePlace (va : Word) (k : Nat) : Word := if k = 0 then va else va + BitVec.ofNat 64 (64 + 4 * (k - 1))

/-- The elements of a tile image, with its header as the first (R228). -/
def imagePlaces : Nat := 32769

/-- One access of a matrix command other than MTILE: an element of its tile or of its image, in ascending order (R225, R227,
R228, R321). -/
def matrixAccess (s : State) (core : Nat) (x : Command) : State :=
  let w := s.whoCmd core x
  let d := tileDesc x.descA
  let ix := s.indices core
  let t := (s.core core).tile (matrixAcc x.instr)
  let go (s : State) (last : Bool) (bs : List Byte) : State :=
    s.setCmd core { x with pos := x.pos + 1, carry := x.carry ++ bs, stage := if last then .done else .run }
  let p := x.place d.cols
  match x.instr with
  | .mconv .. =>
    let fb := fmtBits (fFD x.fmt) / 8
    if Table.get false t.poison (128 * p.1 + p.2) then failCommand s core x (s.tilePoison core) 0
    else match writeBytes s w (d.row ix p.1 + BitVec.ofNat 64 (fb * p.2)) (leBytes fb (convElem t x p.1 p.2)) with
    | (s, some f) => failCommand s core x f 0
    | (s, none) => go s (x.pos + 1 = d.rows * d.cols) []
  | .mload .. =>
    if x.pos < d.rows * d.cols then
      match readRow s w ix d 0 false p.1 p.2 (p.2 + 1) [] with
      | .error f => failFill s core x f 0 (d.fmt = 11)
      | .ok (s, es, _) =>
        go s (x.pos + 1 = d.rows * d.cols && (d.fmt ≠ 11 || x.vb = 0)) (es.flatMap fun v => leBytes 4 (loadElem d.fmt v))
    else match readBytes s w x.vb 4 with
      | .error f => failFill s core x f 0 true
      | .ok (s, bs) => go s true bs
  | .aspill .. =>
    if t.bad 0 256 128 then failCommand s core x (s.tilePoison core) 0
    else
      let q := x.pos - 1
      let bs := if x.pos = 0 then imageHeader t else leBytes 4 (t.at_ (q / 128) (q % 128))
      match writeBytes s w (imagePlace x.va x.pos) bs with
      | (s, some f) => failCommand s core x f 0
      | (s, none) => go s (x.pos + 1 = imagePlaces) []
  | .afill .. =>
    match readBytes s w (imagePlace x.va x.pos) (if x.pos = 0 then 64 else 4) with
    | .error f => failFill s core x f 1 (x.pos ≠ 0 && leAt x.carry 0 1 = 11)
    | .ok (s, bs) =>
      if x.pos = 0 && (!(leAt bs 0 1 = 10 || leAt bs 0 1 = 11) || leAt bs 1 3 ≠ 0 || leAt bs 8 56 ≠ 0) then
        failCommand s core x (shapeFault x.va) 1
      else go s (x.pos + 1 = imagePlaces) bs
  | _ => s

/-- The tile that a completed MLOAD leaves (R227). -/
def mloadTile (x : Command) : Tile :=
  let d := tileDesc x.descA
  let elem (k : Nat) : Nat := if k % 128 < d.cols ∧ k / 128 < d.rows
    then leAt x.carry (4 * (k / 128 * d.cols + k % 128)) 4 else 0
  { rns := d.fmt = 11,
    tb := if d.fmt ≠ 11 then 0 else if x.vb = 0 then 0xFFFFFFFF else BitVec.ofNat 32 (leAt x.carry (4 * d.rows * d.cols) 4),
    elems := (List.range 32768).filterMap fun k =>
      let v := elem k
      if v = 0 then none else some (k, BitVec.ofNat 32 v) }

/-- What a matrix command has done when it completes (R224, R225, R227, R228). -/
def matrixEffect (s : State) (core : Nat) (x : Command) : State :=
  let c := s.core core
  let n := matrixAcc x.instr
  match x.instr with
  | .mzero .. => s.setCore core (c.setTile n (Tile.cleared (fFD x.fmt = 11)))
  | .mload .. => s.setCore core (c.setTile n (mloadTile x))
  | .afill .. => s.setCore core (c.setTile n (tileOfImage x.carry))
  | .mconvV _ _ _ vo _ _ =>
    let h := (List.range x.vc.toNat).foldl (fun h r =>
      h.deliver (vo.idx.toNat + r) (ewOf x.vtype)
        ((List.range 128).map fun j => (j, convElem (c.tile n) x (x.vb.toNat + r) j))) (s.hart x.hart)
    s.setHart x.hart h
  | _ => s

end Sys2Proof.Machine
end

