-- ==== Sys2Proof/Machine/Copy.lean ====
section
/-! DEFINITION. Copy commands, MAJ 48, and the copy engine (R229 to R232). -/

namespace Sys2Proof.Machine

/-- A copy command at the dispatch point: its descriptor must be a multiple of 64, an index list of 4 (R215, R230). -/
def copyWord (s : State) (srcs : List SReg) (i : Instr) (va vb : Word) (list : Bool) : Step :=
  let ok : Checked := match aligned64 1 va with
    | .ok _ => if list && vb.toNat % 4 ≠ 0 then .error (some (accFault .prot 1 vb)) else .ok ()
    | e => e
  engineWord s srcs (s.command i va vb 0 0) ok

/-- CPY (R230). -/
def execCpy (sa : SReg) (c : Cmd) (s : State) : Step := copyWord s [sa] (.cpy sa c) (s.getS sa) 0 false

/-- CPYG (R230). -/
def execCpyg (sa sb : SReg) (c : Cmd) (s : State) : Step :=
  copyWord s [sa, sb] (.cpyg sa sb c) (s.getS sa) (s.getS sb) true

/-- CPYS (R230). -/
def execCpys (sa sb : SReg) (c : Cmd) (s : State) : Step :=
  copyWord s [sa, sb] (.cpys sa sb c) (s.getS sa) (s.getS sb) true

/-- CFILL (R230). -/
def execCfill (sa sb : SReg) (c : Cmd) (s : State) : Step :=
  copyWord s [sa, sb] (.cfill sa sb c) (s.getS sa) (s.getS sb) false

/-! ## The descriptor (R229, R231) -/

/-- Source and destination bytes overlap, by their addresses or at their homes, so that the result is undefined (R230). -/
def copyOverlaps (s : State) (core : Nat) (x : Command) (d : CopyDesc) : Bool :=
  match x.instr with
  | .cfill .. => false
  | _ => d.rows.any fun a => d.rows.any fun b =>
    s.shares (s.whoCmd core x) (copySource x d a.1 a.2) d.rowBytes (copyDest x d b.1 b.2) d.rowBytes

/-- The descriptor of a copy, and its index list, have been read. -/
def copyDescriptor (s : State) (core : Nat) (x : Command) : State :=
  let w := s.whoCmd core x
  match readBytes s w x.va 64 with
  | .error f => failCommand s core x f 1
  | .ok (s, bs) =>
    if !copyDescOk x.instr bs then failCommand s core x (shapeFault x.va) 1
    else
      let d := copyDesc bs
      match readBytes s w x.vb (if isIndexed x.instr then 4 * d.n1 else 0) with
      | .error f => failCommand s core x f 0
      | .ok (s, list) =>
        let x1 := { x with stage := .run, descA := bs, descB := list, pos := 0 }
        let free := if copyOverlaps s core x1 d then some s.freeCount else none
        s.setCmd core { x1 with free := free }

/-! ## Elements (R230, R92, R281) -/

/-- The combined value of a reduce copy (R92, R78). -/
def combine (red fmt old v : Nat) : Nat :=
  if red = 1 then
    (toFloat (rndOf 0) fmt (exAdd (rndOf 0) (floatVal false fmt old) (floatVal false fmt v)).1).1
  else (rnsAdd (rnsOf old) (rnsOf v)).word

/-- A reduce of one element: one indivisible read-modify-write at its home; to host memory it is ATOMHOST (R231, R281). -/
def reduceAt (s : State) (w : Who) (red fmt : Nat) (a : Word) (v : Nat) : Except AccFault State :=
  let n := fmtBits fmt / 8
  match checkAccess s w 3 a n (some .min) with
  | .error f => .error f
  | .ok (s, p) =>
    let s := warnUninit s w a p n
    let s1 := writePlace s w p n (combine red fmt (readPlace s p n) v)
    .ok (s1.fixFor w p)

/-- The undefined value of an element of an overlapping copy (log entry 11). -/
def freeElem (free pos n : Nat) : Nat := ofLeBytes ((List.range n).map fun j => Config.copyByte free (8 * pos + j))

/-- A copy misses the store that last wrote a source element: the hart that issued the copy made it, no chain of R316 orders it
before the copy, since the hart has accessed the word in none of the streams that the copy's mask names and has not synchronised
since, and the free choice is to miss it (R209, R317, R321, log entry 75). -/
def copyMisses (s : State) (x : Command) (d : CopyDesc) (p : Place) : Bool :=
  let m := s.lastWrite p
  d.smask ≠ 0 && m.agent = x.hart && (s.hart x.hart).released < m.at_ && m.strms &&& BitVec.ofNat 8 d.smask = 0
    && Config.missesStore s.freeCount x.pos

/-- The element of `n` bytes at a place as it stood before its word was last written. -/
def State.before (s : State) (p : Place) (n : Nat) : Nat := (s.lastWrite p).old / 2 ^ (8 * p.word.2) % 2 ^ (8 * n)

/-- An address lies in host or peer memory, whether or not a write there would be performed. -/
def State.farAddr (s : State) (w : Who) (va : Word) : Bool :=
  !inPool va && ((s.windowOf va.toNat).isSome || match s.lineAt w 2 va with
    | some p => isHostPa (128 * p)
    | none => false)

/-- A copy for a sealed context would take a page that is sealed and not stamped out of the device (R403). -/
def unsealsCopy (s : State) (x : Command) (src : Place) (dst : Word) (core : Nat) : Bool :=
  s.sealedCtx x.asid && s.farAddr (s.whoCmd core x) dst && match src with
    | .dev a => s.pageSealed a && !Table.get false s.stamped (a / 4096)
    | _ => false

/-- A copy that finds its peer down reports the destination of the element (R384). -/
def copyFault (dst : Word) (f : AccFault) : AccFault := if f.cause = .peerdn then { f with val := dst } else f

/-- Element `pos` is written: with DL2 its line stays in L2 (R229). -/
def keepDest (s : State) (w : Who) (d : CopyDesc) (dst : Word) : State :=
  if !d.dl2 || inPool dst || (s.windowOf dst.toNat).isSome then s
  else match translate s (postOf w.core) w.asid w.ptroot dst.toNat 2 w.handler with
    | .ok (s, l) => s.keep (postOf w.core) w.asid dst.toNat l none
    | .error _ => s

/-- Move element `pos`: the state, which a fault of the write leaves as the read made it, and the element's bytes. A source that
may not leave the device is a fault of the read, whatever the write would meet (R403). -/
def copyElem (s : State) (core : Nat) (x : Command) (d : CopyDesc) : State × Except AccFault (List Byte) :=
  let w := s.whoCmd core x
  let n := fmtBits d.fmt / 8
  let i := x.pos % d.n0
  let r := x.pos / d.n0 % d.n1
  let p := x.pos / (d.n0 * d.n1)
  let src := copySource x d p r + BitVec.ofNat 64 (i * n)
  let dst := copyDest x d p r + BitVec.ofNat 64 (i * n)
  let got : Except AccFault (State × Nat) := match x.instr with
    | .cfill .. => .ok (s, x.vb.toNat % 2 ^ (8 * n))
    | _ => match checkAccess s w 1 src n none with
      | .error f => .error f
      | .ok (s1, p) =>
        if unsealsCopy s x p dst core then .error { accFault .seal 1 src with walked := true }
        else if copyMisses s x d p then .ok (warnUninit s1 w src p n, s.before p n)
        else loadAt s w src n
  match got with
  | .error f => (s, .error (copyFault dst f))
  | .ok (s, v0) =>
    let v := match x.free with | some f => freeElem f x.pos n | none => v0
    let put := if d.red = 0 then storeAt s w dst n v else reduceAt s w d.red d.fmt dst v
    match put with
    | .error f => (s, .error (copyFault dst f))
    | .ok s => (keepDest s w d dst, .ok (leBytes n v))

/-- A follow-on record is well formed: its reserved bytes are zero (R232). -/
def followOk (bs : List Byte) : Bool := leAt bs 37 27 = 0

/-- One access of a copy: an element, then the digest, then the follow-on record (R230, R232). -/
def copyAccess (s : State) (core : Nat) (x : Command) : State :=
  let d := copyDesc x.descA
  let w := s.whoCmd core x
  let total := d.n0 * d.n1 * d.n2
  let more := x.pos + 1 < total || d.digest || d.follow
  if x.pos < total then
    match copyElem s core x d with
    | (s, .error f) => failCommand s core x f 0
    | (s, .ok bs) =>
      let s1 := s.setCore core ((s.core core).bumpBy 7 bs.length)
      s1.setCmd core { x with pos := x.pos + 1, carry := if d.digest then x.carry ++ bs else [], stage := if more then .run else .done }
  else if x.pos = total && d.digest then
    match writeBytes s w d.xaddr (sha256 x.carry) with
    | (s, some f) => failCommand s core x f 0
    | (s, none) => s.setCmd core { x with pos := total + 1, carry := [], stage := if d.follow then .run else .done }
  else
    match readBytes s w d.maddr 64 with
    | .error f => failCommand s core x f 1
    | .ok (s, bs) =>
      if followOk bs then s.setCmd core { x with pos := total + 2, carry := bs, stage := .done }
      else failCommand s core x (shapeFault d.maddr) 1

/-- A completed copy with FOLLOW leaves its follow-on command to be issued (R232, R293). -/
def copyFollow (s : State) (core : Nat) (x : Command) : State :=
  if (copyDesc x.descA).follow then
    let c := s.core core
    s.setCore core { c with follows := c.follows ++ [⟨x.carry, x.hart, x.handler, x.asid, x.ptroot⟩] }
  else s

end Sys2Proof.Machine
end

