-- ==== Sys2Proof/Machine/Temporal.lean ====
section
/-! DEFINITION. Temporal commands, MAJ 52, and the temporal array (R233 to R235, R349 to R352). -/

namespace Sys2Proof.Machine

/-- A row operand below the register count, at an element width of 8 (R233, R235). -/
def temporalOperand (s : State) (vo : VOp) : Bool := ewOf s.vtype = 8 && opIsRow vo && vo.idx.toNat < s.regs

/-- A temporal command at the dispatch point. -/
def temporalWord (s : State) (srcs : List SReg) (i : Instr) (va vb : Word) (ok : Checked) : Step :=
  engineWord s srcs (s.command i va vb 0 0) ok

/-- Rank 4 as a check. -/
def orIll (b : Bool) : Checked := if b then .ok () else .error none

/-- TWIN (R233, R352). -/
def execTwin (sa : SReg) (vo : VOp) (c : Cmd) (s : State) : Step :=
  temporalWord s [sa] (.twin sa vo c) (s.getS sa) 0 (orIll (temporalOperand s vo))

/-- TWLD (R233). -/
def execTwld (sa : SReg) (c : Cmd) (s : State) : Step := temporalWord s [sa] (.twld sa c) (s.getS sa) 0 (aligned64 1 (s.getS sa))

/-- TLAUNCH.OR (R234). -/
def execTlaunch (c : Cmd) (s : State) : Step := temporalWord s [] (.tlaunch c) 0 0 (.ok ())

/-- TLAUNCH.AND (R234). -/
def execTlaunchAnd (c : Cmd) (s : State) : Step := temporalWord s [] (.tlaunchAnd c) 0 0 (.ok ())

/-- TLAUNCH.MIX (R234). -/
def execTlaunchMix (sa : SReg) (c : Cmd) (s : State) : Step := temporalWord s [sa] (.tlaunchMix sa c) (s.getS sa) 0 (.ok ())

/-- TCAPT.TIMES (R235). -/
def execTcapt (vo : VOp) (c : Cmd) (s : State) : Step :=
  temporalWord s [] (.tcapt vo c) 0 0 (orIll (temporalOperand s vo && !vo.pol))

/-- TCAPT.FIRSTK (R235). -/
def execTcaptFirstk (sb : SReg) (vo : VOp) (c : Cmd) (s : State) : Step :=
  let k := (s.getS sb).toNat
  temporalWord s [sb] (.tcaptFirstk sb vo c) 0 (s.getS sb) (orIll (temporalOperand s vo && !vo.pol && 1 ≤ k && k ≤ 64))

/-- TCAPT.COUNT (R235). -/
def execTcaptCount (sd : SReg) (c : Cmd) (s : State) : Step := temporalWord s [] (.tcaptCount sd c) 0 0 (.ok ())

/-- TRESET (R233). -/
def execTreset (c : Cmd) (s : State) : Step := temporalWord s [] (.treset c) 0 0 (.ok ())

/-! ## The array -/

/-- The command that the temporal array runs (R208). -/
def Core.temporalHead (c : Core) : Option Command :=
  match c.torder with
  | k :: _ => c.slot k
  | [] => none

/-- Column `c` is in AND mode (R234). -/
def andColumn (i : Instr) (modes : Word) (c : Nat) : Bool :=
  match i with
  | .tlaunchAnd _ => true
  | .tlaunchMix _ _ => modes.getLsbD c
  | _ => false

/-- What row `r` sends to column `c` (R86, R234). -/
def cellTick (t : Temporal) (w r c : Nat) : Option Nat :=
  let d := (Table.get 255 t.d (64 * r + c)).toNat
  let x := tickOf w (Table.get 255 t.x r).toNat
  if d = 255 then none else tickAdd w x (some d)

/-- The result of a column (R234): the least arrival in OR mode, the greatest in AND mode. -/
def columnTick (t : Temporal) (w : Nat) (andMode : Bool) (c : Nat) : Option Nat :=
  ((List.range 64).filter t.ren.getLsbD).foldl
    (fun y r => if andMode then tickMax y (cellTick t w r c) else tickMin y (cellTick t w r c)) (if andMode then some 0 else none)

/-- A wave replaces Y whole (R234, R349). -/
def waveResults (t : Temporal) (x : Command) : Temporal :=
  { t with y := (List.range 64).foldl (fun y c =>
      Table.set 255 y c (BitVec.ofNat 8 (tickByte (columnTick t x.window (andColumn x.instr x.va c) c)))) [] }

/-- The columns that rose, in ascending (Y, c) (R235). -/
def risen (t : Temporal) : List Nat :=
  (List.range 255).flatMap fun k => (List.range 64).filter fun c => (Table.get 255 t.y c).toNat = k

/-- One access of TWLD: one delay of its array (R233, R321). -/
def temporalAccess (s : State) (core : Nat) (x : Command) : State :=
  match x.instr with
  | .twld _ _ =>
    match readBytes s (s.whoCmd core x) (x.va + BitVec.ofNat 64 x.pos) 1 with
    | .error f => failCommand s core x f 0
    | .ok (s, bs) =>
      s.setCmd core { x with pos := x.pos + 1, carry := x.carry ++ bs, stage := if x.pos = 4095 then .done else .run }
  | _ => s

/-- What a temporal command has done when it completes (R233, R235). -/
def temporalEffect (s : State) (core : Nat) (x : Command) : State :=
  let c := s.core core
  let t := c.temporal
  let bytes (d : Table Byte) (bs : List Byte) : Table Byte := bs.zipIdx.foldl (fun d p => Table.set 255 d p.2 p.1) d
  match x.instr with
  | .twin .. => s.setCore core { c with temporal := { t with x := bytes [] x.carry, ren := x.va } }
  | .twld .. => s.setCore core { c with temporal := { t with d := bytes [] x.carry } }
  | .treset _ => s.setCore core { c with temporal := {} }
  | .tcapt vo _ =>
    s.setHart x.hart ((s.hart x.hart).deliver vo.idx.toNat 8 ((List.range 64).map fun k => (k, (Table.get 255 t.y k).toNat)))
  | .tcaptFirstk _ vo _ =>
    s.setHart x.hart ((s.hart x.hart).deliver vo.idx.toNat 8
      ((List.range x.vb.toNat).map fun j => (j, (risen t).getD j 255)))
  | .tcaptCount sd _ => s.setHart x.hart ((s.hart x.hart).bind x.tok sd (BitVec.ofNat 64 (risen t).length) false)
  | _ => s

end Sys2Proof.Machine
end

