-- ==== Sys2Proof/Machine/EngineEvents.lean ====
section
/-! DEFINITION. The events of the engines (R206 to R211, R232, R239, R282 to R302, R349). An event that is not enabled
leaves the state as it is. -/

namespace Sys2Proof.Machine

/-! ## Reading and moving -/

/-- The array of a core still runs fillers for an MTILE that has been dropped, so that no other may ask for its start: a core counts
at most 4 quarters (R302). -/
def State.stillStops (s : State) (core : Nat) : Bool := s.stops.any fun r => r.1 = core

/-- DESCRIPTOR_READ_COMPLETE (R215, R282): the engine has read and checked a command's descriptors. -/
def execDescriptorReadComplete (core eng slot : Nat) (s : State) : Step :=
  match (s.core core).slot (slotKey eng slot) with
  | some x =>
    if x.stage ≠ .desc || !(s.core core).isHead x then .next s
    else if eng = 1 then .next (copyDescriptor s core x)
    else match mtileArgs x.instr with
      | some a => .next (if s.stillStops core then s else mtileDescriptors s core x a)
      | none => .next (tileDescriptor s core x)
  | none => .next s

/-- A command makes accesses of its own; the others take effect when they complete. -/
def hasAccesses : Instr → Bool
  | .mconv .. | .mload .. | .aspill .. | .afill .. | .cpy .. | .cpyg .. | .cpys .. | .cfill .. | .twld .. => true
  | _ => false

/-- ENGINE_ACCESS_RESPONSE (R209, R230, R321): one access of a running command. -/
def execEngineAccessResponse (core eng slot : Nat) (s : State) : Step :=
  match (s.core core).slot (slotKey eng slot) with
  | some x =>
    if x.stage ≠ .run || !hasAccesses x.instr || !(s.core core).isHead x then .next s
    else .next (match eng with
      | 0 => matrixAccess s core x
      | 1 => copyAccess s core x
      | _ => temporalAccess s core x)
  | none => .next s

/-! ## k-steps (R282 to R290) -/

/-- OPERAND_FETCH_RESPONSE (R284 to R287, R289): the next element of the k-step's operands. -/
def execOperandFetchResponse (core : Nat) (s : State) : Step :=
  match (s.core core).matrixHead with
  | some x =>
    match mtileArgs x.instr with
    | some a =>
      if !(x.stage = .kstep && !x.operandsIn a && !x.cut) then .next s
      else .next (operandFetch s core x a)
    | none => .next s
  | none => .next s

/-- K_STEP_PASS (R222, R283). -/
def execKStepPass (core : Nat) (s : State) : Step :=
  match (s.core core).matrixHead with
  | some x =>
    match mtileArgs x.instr with
    | some a =>
      if !(x.stage = .kstep && x.operandsIn a) then .next s
      else if readsPoison s core x a then .next (stopStep s core { x with carry := [] } a (s.tilePoison core))
      else .next (passStep s core x a)
    | none => .next s
  | none => .next s

/-- A command runs filler k-steps: it waits for operands or for the limiter to let it stop (R283). -/
def fills (x : Command) : Bool :=
  match x.stage with
  | .kstep => match mtileArgs x.instr with
    | some a => !x.operandsIn a
    | none => false
  | .stopping _ => true
  | _ => false

/-- FILLER_K_STEP (R283): its results are discarded. -/
def execFillerKStep (core : Nat) (s : State) : Step :=
  match (s.core core).matrixHead with
  | some x =>
    if fills x then
      .next ((s.setCore core ((s.core core).bump 6)).setCmd core { x with filler := x.filler + 1 })
    else .next s
  | none => .next s

/-! ## The slew limiter (R302) -/

/-- A field that a write leaves unchanged where the new value is out of range (R298). -/
def rangedField (lo hi old new : Nat) : Nat := if lo ≤ new && new ≤ hi then new else old

/-- PWRCTL at reset (R298). -/
def pwrctlReset : Word := 0x1604C0
/-- PWRCTL of a post (R298). -/
def State.pwrctlOf (s : State) (post : Nat) : Word := Table.get pwrctlReset s.pwrctl post
/-- LSFLOOR -/
def lsfloor (p : Word) : Nat := (p.field 8 8).toNat
/-- HEXP -/
def hexp (p : Word) : Nat := (p.field 16 5).toNat
/-- PWRCTL after a write. -/
def pwrctlNew (old v : Word) : Word :=
  BitVec.ofNat 64 (rangedField 16 30 (hexp old) (hexp v) * 65536 + rangedField 1 64 (lsfloor old) (lsfloor v) * 256
    + (v.field 6 2).toNat * 64)

/-- A ramp-table register after a write. -/
def rampNew (old v : BitVec 32) : BitVec 32 :=
  BitVec.ofNat 32 (rangedField 1 255 (old.extractLsb' 8 8).toNat (v.extractLsb' 8 8).toNat * 256
    + rangedField 1 255 (old.extractLsb' 0 8).toNat (v.extractLsb' 0 8).toNat)

/-- The writes of a post's power registers that take effect at a step boundary (R298). -/
def applyPowerWrites (s : State) (post : Nat) : State :=
  let mineP (w : Nat × Word) : Bool := w.1 = post
  let mineR (w : Nat × BitVec 32) : Bool := w.1 / 16 = post
  let p := (s.pwrWrites.filter mineP).foldl (fun t w => Table.set pwrctlReset t w.1 (pwrctlNew (Table.get pwrctlReset t w.1) w.2))
    s.pwrctl
  let r := (s.rampWrites.filter mineR).foldl (fun t w => Table.set 0x408 t w.1 (rampNew (Table.get 0x408 t w.1) w.2)) s.ramp
  { s with pwrctl := p, ramp := r, pwrWrites := s.pwrWrites.filter (fun w => !mineP w),
           rampWrites := s.rampWrites.filter fun w => !mineR w }

/-- The entry of the ramp table that a post's activity selects: UP and DOWN (R298, R302). -/
def rampLimits (s : State) (post : Nat) : Nat × Nat :=
  let e := min (Table.get 0 s.activity post / 16) 15
  let r := Table.get 0x408 s.ramp (16 * post + e)
  ((r.extractLsb' 0 8).toNat, (r.extractLsb' 8 8).toNat)

/-- The requests of a post that one boundary serves, oldest first: a request over the limit goes alone. -/
def serveRequests : Nat → Bool → List (Nat × Nat) → List (Nat × Nat)
  | _, _, [] => []
  | limit, any, (c, q) :: t =>
    if q ≤ limit then (c, q) :: serveRequests (limit - q) true t
    else if !any then (c, q) :: serveRequests 0 true t
    else []

/-- The limiter admits the start of a core's command. -/
def admitStart (s : State) (core : Nat) : State :=
  match (s.core core).matrixHead with
  | some x => if x.stage = .starting then s.setCmd core { x with stage := .kstep } else s
  | none => s

/-- The limiter admits the stop of a core's command: its arrival is made next; a command that a cut has stopped is kept
(R282, R289, R291). -/
def admitStop (s : State) (core : Nat) : State :=
  match (s.core core).matrixHead with
  | some x =>
    match x.stage with
    | .stopping (some f) => s.setCmd core { x with stage := .failed f 0 }
    | .stopping none => s.setCmd core { x with stage := if x.cut then .kept else .done }
    | _ => s
  | none => s

/-- SLEW_LIMITER_STEP (R302): one step boundary of a post. -/
def execSlewLimiterStep (post : Nat) (s0 : State) : Step :=
  let s := applyPowerWrites s0 post
  let mine (r : Nat × Nat) : Bool := postOf r.1 = post
  let lim := rampLimits s post
  let ups := serveRequests lim.1 false (s.starts.filter mine)
  let downs := serveRequests lim.2 false (s.stops.filter mine)
  let total (l : List (Nat × Nat)) : Nat := l.foldl (fun n r => n + r.2) 0
  let s1 := { s with
    starts := ups.foldl List.erase s.starts, stops := downs.foldl List.erase s.stops,
    activity := Table.set 0 s.activity post (Table.get 0 s.activity post + total ups - total downs) }
  .next (downs.foldl (fun s r => admitStop s r.1) (ups.foldl (fun s r => admitStart s r.1) s1))

/-! ## Waves -/

/-- WAVE_COMPLETE (R234, R349): the array's results replace Y whole. -/
def execWaveComplete (core : Nat) (s : State) : Step :=
  match (s.core core).temporalHead with
  | some x =>
    if x.stage = .wave then
      let c := s.core core
      .next ((s.setCore core ({ c with temporal := waveResults c.temporal x }.bump 8)).setCmd core { x with stage := .done })
    else .next s
  | none => .next s

/-! ## Completion (R210, R211, R292, R295) -/

/-- A command leaves its slot and its run order, and pins no line. -/
def leaveSlot (s : State) (core : Nat) (x : Command) : State :=
  let c := s.core core
  (s.setCore core ({ c with morder := c.morder.erase x.key, torder := c.torder.erase x.key }.setSlot x.key none)).release
    core x.key

/-- A command completes in the error phase: its vector destination becomes full with its contents, its scalar destination
zero, and its barrier takes an error arrival (R210, R211). -/
def completeError (s : State) (core : Nat) (x : Command) (code : BitVec 16) (addr : Word) : State :=
  let s := leaveSlot s core x
  let h := (s.hart x.hart).fillRegs x.regs
  let h := match x.sreg with
    | some r => h.bind x.tok r 0 false
    | none => h
  let h := h.arrived s.freeCount x.key ((s.core core).barAt x.bar).epoch
  errorArrival (s.setHart x.hart h) core x.bar code addr (engineSrc x.eng)

/-- A command completes: its effect, and one arrival. -/
def completeOk (s : State) (core : Nat) (x : Command) : State :=
  let s := match x.eng with
    | 0 => matrixEffect s core x
    | 1 => s
    | _ => temporalEffect s core x
  let s := s.setHart x.hart ((s.hart x.hart).arrived s.freeCount x.key ((s.core core).barAt x.bar).epoch)
  let s := normalArrival (leaveSlot s core x) core x.bar (engineSrc x.eng)
  if x.eng = 1 then copyFollow s core x else s

/-- An MCONV.V of a poisoned tile (R383). -/
def convertsPoison (s : State) (core : Nat) (x : Command) : Bool :=
  match x.instr with
  | .mconvV _ _ acc _ _ _ => ((s.core core).tile acc.toNat).bad x.vb.toNat x.vc.toNat 128
  | _ => false

/-- An MCONV.V to RNS32 of a tile tagged FP32: an engine error of format (R215, R226), whose fault address is 0. -/
def convertsFloat (s : State) (core : Nat) (x : Command) : Bool :=
  match x.instr with
  | .mconvV _ _ acc _ _ _ => fFD x.fmt = 11 && ((s.core core).tile acc.toNat).tag = 10
  | _ => false

/-- COMMAND_COMPLETION (R210). -/
def execCommandCompletion (core eng slot : Nat) (s : State) : Step :=
  match (s.core core).slot (slotKey eng slot) with
  | some x =>
    match x.stage with
    | .done => match x.err with
      | some e => .next (completeError s core x e.1 e.2)
      | none => .next (completeOk s core x)
    | .failed f d => .next (completeError s core x (faultCode f x.eng d) f.val)
    | .run =>
      if hasAccesses x.instr || !(s.core core).isHead x then .next s
      else if convertsPoison s core x then .next (failCommand s core x (s.tilePoison core) 0)
      else if convertsFloat s core x then .next (failCommand s core x (shapeFault x.va) 2)
      else .next (completeOk s core x)
    | _ => .next s
  | none => .next s

/-! ## Follow-on commands (R232, R293) -/

/-- The word of a follow-on record without the fields that are ignored: fmt, sa, sb and sc. -/
def followWord (bs : List Byte) : Word := w64At bs 0 &&& 0xFFF0001FFFFFE3FF

/-- The command that a follow-on record makes, or none where its word is no matrix command. -/
def followCommand (f : Follow) : Option Command :=
  match decode (followWord f.bytes) with
  | .ok i => match cmdInfo i with
    | some (0, _) => some
      { instr := i, va := w64At f.bytes 8, vb := w64At f.bytes 16, vc := w64At f.bytes 24,
        fmt := BitVec.ofNat 32 (leAt f.bytes 32 4), vtype := BitVec.ofNat 32 (leAt f.bytes 36 1), vl := 0, window := 256,
        hart := f.hart, handler := f.handler, asid := f.asid, ptroot := f.ptroot, stage := .parked, follow := true,
        raw := some (w64At f.bytes 0) }
    | _ => none
  | .error _ => none

/-- The fault code and address of a follow-on command that fails a check of dispatch (R232). -/
def followFault (word : Word) (e : Option AccFault) : BitVec 16 × Word :=
  match e with
  | none => (faultCode (shapeFault word) 0 2, word)
  | some f => (faultCode f 0 (if f.cause = .range then 3 else 0), f.val)

/-- FOLLOW_ON_ISSUE (R232): the oldest follow-on command whose word names the slot. A core that lacks the matrix array issues it
all the same: R44 speaks of instructions, and a record that a copy brings is none (log entry 33). -/
def execFollowOnIssue (core slot : Nat) (s : State) : Step :=
  let c := s.core core
  match c.follows.find? (fun f => ((w64At f.bytes 0).field 22 4).toNat = slot) with
  | none => .next s
  | some f =>
    let word := w64At f.bytes 0
    let s1 := s.setCore core ({ c with follows := c.follows.erase f }.use (word.field 26 6).toNat)
    match followCommand f with
    | none =>
      .next (errorArrival s1 core (word.field 26 6).toNat (faultCode (shapeFault word) 0 1) word .matrix)
    | some x =>
      if (c.slot x.key).isSome then .next s
      else match matrixChecks x word (agran (s.hart f.hart).partw) (s.regsOf f.hart) with
        | .error e => let r := followFault word e; .next (errorArrival s1 core x.bar r.1 r.2 .matrix)
        | .ok _ => .next (placeCommand s1 core (((cmdInfo x.instr).map fun p => p.2.q).getD false) x)

/-! ## Remote arrivals (R239) -/

/-- A reset of a core, of its post or of the module is in progress (R394). -/
def State.resetting (s : State) (core : Nat) : Bool :=
  match s.rstPending with
  | some (1, c) => c = core
  | some (2, p) => p = postOf core
  | some (4, _) => true
  | _ => false

/-- The arrival's sender is a task that can still abort, so that another core does not see it yet: an aborted task leaves nothing
that any observer can read (R322, R341, log entry 78). -/
def State.withholds (s : State) (a : Arrival) : Bool :=
  a.core ≠ a.fromCore && match (s.core a.fromCore).task with
    | some t => t.canAbort && a.launch = some t.launch && a.n = t.n
    | none => false

/-- REMOTE_ARRIVAL (R239, R280): the oldest arrival that may be made is applied, if the target core holds a task of the same
context or is reserved for the same launch; otherwise, and while the core is being reset (R395), it is discarded and noted. A
task that may abort keeps count of what came from elsewhere. -/
def execRemoteArrival (s : State) : Step :=
  match s.arrivals.find? fun a => !s.withholds a with
  | none => .next s
  | some a =>
    let s1 := { s with arrivals := s.arrivals.erase a }
    let c := s.core a.core
    let keep (t : Task) : Task :=
      if a.launch = some t.launch && a.n = t.n then t else { t with came := t.came ++ [(a.bar, a.count)] }
    let ours := match c.task with
      | some k => k.asid = a.asid
      | none => false
    let s2 := { s1 with warnings := s1.warnings ++ [(a.fromCore, .remote a.core a.bar)] }
    if s.resetting a.core then .next s2
    else if ours || (c.reserved.isSome && c.reserved = a.launch) then
      .next (normalArrivals (s1.setCore a.core { c with task := c.task.map keep })
        a.core a.bar (.hart a.slot) a.count)
    else .next s2

end Sys2Proof.Machine
end

