-- ==== Sys2Proof/Machine/Packet.lean ====
section
/-! DEFINITION. Command packets and work queues (R328, R330, R408). -/

namespace Sys2Proof.Machine

/-- A packet of 64 bytes, by the fields of R330. -/
structure Packet where
  opc : Nat
  pflags : Nat
  corr : BitVec 32
  addr : Word
  val : Word
  bytes : List Byte
  deriving DecidableEq, Repr

/-- The fields of a packet. -/
def packetOf (bs : List Byte) : Packet :=
  { opc := leAt bs 0 1, pflags := leAt bs 1 1, corr := BitVec.ofNat 32 (leAt bs 4 4),
    addr := BitVec.ofNat 64 (leAt bs 8 8), val := BitVec.ofNat 64 (leAt bs 16 8), bytes := bs }

/-- Some byte of a range is not zero. -/
def anyByte (bs : List Byte) (lo n : Nat) : Bool := ((bs.drop lo).take n).any (fun b => b ≠ 0)

/-- The session fields of TRACEON are within R408; a field outside its range is refused as a reserved one is (log entry 20). -/
def traceFieldsOk (bs : List Byte) : Bool :=
  let tlog := leAt bs 32 1
  let sk := leAt bs 34 1
  leAt bs 24 8 % 4096 = 0 && (8 ≤ tlog && tlog ≤ 24) && leAt bs 33 1 < 32 && (sk = 0 || (4 ≤ sk && sk ≤ 20)) &&
    leAt bs 35 1 ≤ 16 && !anyByte bs 36 4 && leAt bs 40 8 % 4096 = 0 && leAt bs 56 4 < 4

/-- The code of a packet's refusal before it acts: 1 bad opcode, 2 a reserved field (R330). -/
def Packet.refusal (p : Packet) : Option Nat :=
  let low := anyByte p.bytes 2 2
  let high := anyByte p.bytes 24 40
  let bad : Option Bool := match p.opc with
    | 1 => some (p.pflags / 4 ≠ 0 || p.addr.toNat % 64 ≠ 0 || p.val ≠ 0 || high)
    | 2 => some (p.pflags ≠ 0 || p.addr.toNat % 8 ≠ 0 || high)
    | 3 => some (p.pflags ≠ 0 || p.addr.toNat % 8 ≠ 0 || high)
    | 4 => some (p.pflags &&& 0x88 ≠ 0 || p.addr.toNat % 64 ≠ 0 || p.val.toNat / 2 ^ 32 ≠ 0 || high)
    | 5 => some (p.pflags ≠ 0 || p.addr ≠ 0 || p.val.toNat / 4096 ≠ 0 || high)
    | 6 => some (p.pflags ≠ 0 || p.addr ≠ 0 || p.val ≠ 0 || !traceFieldsOk p.bytes)
    | 7 => some (p.pflags ≠ 0 || p.addr ≠ 0 || p.val ≠ 0 || high)
    | _ => none
  match bad with
  | none => some 1
  | some b => if b || low then some 2 else none

/-- The bytes of a packet that LAUNCH makes (R244). -/
def launchPacketBytes (addr : Word) (corr : BitVec 32) : List Byte :=
  [1, 0, 0, 0] ++ leBytes 4 corr.toNat ++ leBytes 8 addr.toNat ++ List.replicate 48 0

/-- Packets in the ring. -/
def Queue.count (q : Queue) : Nat := (q.tail - q.head).toNat

/-- Where packet `i` of a queue lies (R328). -/
def Queue.slotAddr (q : Queue) (i : BitVec 32) : Word := q.base + BitVec.ofNat 64 (64 * (i.toNat % 2 ^ q.log2sz))

/-- The module's own accesses for a context: at handler level and bound by no lease (R328). -/
def State.whoQueue (s : State) (asid : BitVec 16) : Who := whoCtx 0 asid (s.context asid).ptroot true

/-! ## Which queues the arbiter may serve (R329) -/

/-- Launches in flight. -/
def State.inFlight (s : State) : List (Nat × Launch) :=
  s.launches.filterMap fun e => e.2.map fun l => (e.1, l)

/-- The launches in flight from a queue. -/
def State.launchesOf (s : State) (q : Nat) : List Nat := (s.inFlight.filter fun e => e.2.queue = q).map Prod.fst

/-- The head packet of a queue, or the fault that prevents reading it. -/
def headPacket (s : State) (q : Nat) : Except AccFault (State × Packet) :=
  let x := s.queue q
  match readRun s (s.whoQueue x.asid) (x.slotAddr x.head) 8 8 with
  | .error f => .error f
  | .ok (s, bs) => .ok (s, packetOf bs)

/-- The head packet can be taken at once: a LAUNCH waits while 64 launches are in flight and, under SERIAL, for every
earlier launch of its queue (R329, R331). -/
def takeable (s : State) (q : Nat) : Bool :=
  match headPacket s q with
  | .error _ => true
  | .ok (_, p) => p.opc ≠ 1 || (s.inFlight.length < 64 && (p.pflags % 2 = 0 || (s.launchesOf q).isEmpty))

/-- A queue is eligible (R329). -/
def eligible (s : State) (q : Nat) : Bool :=
  let x := s.queue q
  x.en && x.head ≠ x.tail && x.blocked.isNone && takeable s q

/-- Note since when head packets are eligible, and clear the deficit of queues that are not (R329). -/
def State.markQueues (s : State) : State :=
  let mark (e : Nat × Queue) : Nat × Queue :=
    if eligible s e.1 then (e.1, { e.2 with since := some (e.2.since.getD s.clock) })
    else (e.1, { e.2 with since := none, deficit := 0 })
  { s with queues := s.queues.map mark }

/-! ## Placing a packet (R244) -/

/-- Place a packet into a queue for a task of a context (R244): the status and the state, or a fault of the ring's
write (log entry 21). -/
def enqueuePacket (s : State) (asid : BitVec 16) (q : Word) (bs : List Byte) : Except AccFault (State × Nat) :=
  let x := s.queue q.toNat
  if 4096 ≤ q.toNat || x.asid ≠ asid then .ok (s, 2)
  else if (packetOf bs).refusal.isSome then .ok (s, 3)
  else if 2 ^ x.log2sz ≤ x.count then .ok (s, 1)
  else match writeRun s (s.whoQueue asid) (x.slotAddr x.tail) 8 8 bs with
    | (_, some f) => .error f
    | (s, none) => .ok (s.setQueue q.toNat { s.queue q.toNat with tail := x.tail + 1 }, 0)

end Sys2Proof.Machine
end

