-- ==== Sys2Proof/Machine/Record.lean ====
section
/-! DEFINITION. Loop-nest records (R332 to R334, R280) and the walk over their iterations (R335). -/

namespace Sys2Proof.Machine

/-! ## The fields of a record (R332, R333) -/

/-- A record is 512 bytes; its fields are read in place. -/
abbrev Record := List Byte

/-- ENTRYk -/
def Record.entry (r : Record) (k : Nat) : Word := w64At r (8 * k)
/-- HANDLER -/
def Record.handler (r : Record) : Word := w64At r 32
/-- RSPB -/
def Record.rspb (r : Record) : Word := w64At r 40
/-- RSPSTEP -/
def Record.rspstep (r : Record) : Nat := leAt r 48 4
/-- PARTW -/
def Record.partw (r : Record) : BitVec 32 := BitVec.ofNat 32 (leAt r 52 4)
/-- GANG -/
def Record.gang (r : Record) : Nat := leAt r 56 1
/-- HEAT -/
def Record.heat (r : Record) : Nat := leAt r 57 1 % 4
/-- CMODE 0: the tasks are BUFFERED. -/
def Record.buffered (r : Record) : Bool := leAt r 58 1 % 2 = 0
/-- PPOL -/
def Record.ppol (r : Record) : Nat := leAt r 58 1 / 2 % 4
/-- TEMP -/
def Record.temp (r : Record) : Bool := leAt r 58 1 / 8 % 2 = 1
/-- PLACE: 0 FREE, 1 COHORT, 2 SOLE -/
def Record.place (r : Record) : Nat := leAt r 58 1 / 16 % 4
/-- PRIO -/
def Record.prio (r : Record) : Nat := leAt r 59 1 % 8
/-- DLEV -/
def Record.dlev (r : Record) : Nat := leAt r 59 1 / 16 % 8
/-- NLEV -/
def Record.nlev (r : Record) : Nat := leAt r 60 1
/-- NLEASE -/
def Record.nlease (r : Record) : Nat := leAt r 61 1
/-- VMIN -/
def Record.vmin (r : Record) : Nat := leAt r 62 2
/-- VMAX -/
def Record.vmax (r : Record) : Nat := leAt r 64 2
/-- The core that COHORT gives iteration `n`. -/
def Record.cohortCore (r : Record) (n : Nat) : Nat := leAt r 66 1 + leAt r 67 1 * n
/-- PBAR -/
def Record.pbar (r : Record) : Nat := leAt r 68 1 % 64
/-- PCOUNT -/
def Record.pcount (r : Record) : Nat := leAt r 70 2 % 4096
/-- TSIG -/
def Record.tsig (r : Record) : Word := w64At r 72
/-- LSTAT -/
def Record.lstat (r : Record) : Word := w64At r 80
/-- IMGA -/
def Record.imga (r : Record) : Word := w64At r 88
/-- IMGLEN -/
def Record.imglen (r : Record) : Nat := leAt r 96 8
/-- TRIP of level `j`, or L of an indirect level -/
def Record.trip (r : Record) (j : Nat) : Nat := leAt r (128 + 16 * j) 4
/-- ORDER of level `j` -/
def Record.order (r : Record) (j : Nat) : Nat := leAt r (132 + 16 * j) 1
/-- LKIND of level `j` -/
def Record.lkind (r : Record) (j : Nat) : Nat := leAt r (133 + 16 * j) 1
/-- STEP of level `j` -/
def Record.lstep (r : Record) (j : Nat) : Nat := leAt r (134 + 16 * j) 2
/-- BTAB of level `j` -/
def Record.btab (r : Record) (j : Nat) : Word := w64At r (136 + 16 * j)
/-- The descriptor address of slot `i`: IN0 to IN7, then OUT0 to OUT3 -/
def Record.slot (r : Record) (i : Nat) : Word := w64At r (224 + 8 * i)
/-- The base of lease slot `i` -/
def Record.leaseBase (r : Record) (i : Nat) : Word := w64At r (320 + 16 * i)
/-- The second word of lease slot `i` -/
def Record.leaseWord (r : Record) (i : Nat) : Nat := leAt r (328 + 16 * i) 8
/-- The length of lease slot `i` -/
def Record.leaseLen (r : Record) (i : Nat) : Nat := r.leaseWord i % 2 ^ 41
/-- WR of lease slot `i` -/
def Record.leaseWrite (r : Record) (i : Nat) : Bool := r.leaseWord i / 2 ^ 63 = 1

/-- A partition word that R311 accepts. -/
def partwOk (p : BitVec 32) : Bool :=
  rgran p ≤ 2 && agran p % 2 = 0 && agran p ≤ 64 && rgran p + agran p + lendGran p ≤ 128 && p &&& 0xFF000080 = 0

/-- Reserved bytes and bits are zero (R332). -/
def Record.reservedOk (r : Record) : Bool :=
  leAt r 57 1 / 4 = 0 && leAt r 58 1 / 64 = 0 && leAt r 59 1 &&& 0x88 = 0 && leAt r 68 1 / 64 = 0
    && leAt r 70 2 / 4096 = 0 && (List.range 4).all (fun i => r.leaseWord i / 2 ^ 41 % 2 ^ 22 = 0)
    && leAt r 69 1 = 0 && !anyByte r 104 24 && !anyByte r 384 128

/-- A level in use has a kind's fields (R333). -/
def Record.levelOk (r : Record) (j : Nat) : Bool :=
  if r.lkind j = 0 then 1 ≤ r.trip j && 1 ≤ r.lstep j && r.btab j = 0
  else r.lkind j ≤ 2 && 1 ≤ r.trip j && r.trip j ≤ 4096 && r.lstep j = 0

/-- The levels are well formed (R333), and their product is within R334. -/
def Record.levelsOk (r : Record) : Bool :=
  let n := r.nlev
  1 ≤ n && n ≤ 6 && (List.range n).all r.levelOk
    && (List.range n).all (fun o => (List.range n).any fun j => r.order j = o)
    && (List.range 6).all (fun j => j < n || !anyByte r (128 + 16 * j) 16)
    && (List.range n).foldl (fun p j => p * r.trip j) 1 ≤ 2 ^ 40

/-- The header fields are within R332 and R334. -/
def Record.headerOk (r : Record) : Bool :=
  (r.gang = 1 || r.gang = 2 || r.gang = 4) && r.heat ≠ 3 && r.ppol ≠ 3 && r.place ≠ 3 && r.nlease ≤ 4
    && r.vmax ≤ 508 && r.vmin ≤ r.vmax && r.dlev < r.nlev && partwOk r.partw
    && (List.range 4).all (fun k => if k < r.gang then (r.entry k).toNat % 8 = 0 else r.entry k = 0)
    && r.handler.toNat % 8 = 0 && r.rspb.toNat % 64 = 0 && r.rspstep % 64 = 0
    && r.tsig.toNat % 8 = 0 && r.lstat.toNat % 8 = 0
    && (List.range r.nlease).all fun i =>
      (r.leaseBase i).toNat % 4096 = 0 && 1 ≤ r.leaseLen i && r.leaseLen i ≤ 2 ^ 40

/-- The record passes the checks that need no memory (R334). -/
def Record.ok (r : Record) : Bool := r.reservedOk && r.levelsOk && r.headerOk

/-- Read the tile descriptors of the slots in use: an error where one is misaligned, has LOC 1 or cannot be read, and then that
read's fault (R334). -/
def readSlots (s : State) (asid : BitVec 16) (r : Record) : Nat → Except (Option AccFault) (State × List (List Byte))
  | 0 => .ok (s, [])
  | n + 1 =>
    match readSlots s asid r n with
    | .error f => .error f
    | .ok (s, ds) =>
      let a := r.slot n
      if a = 0 then .ok (s, ds ++ [[]])
      else if a.toNat % 64 ≠ 0 then .error none
      else match readRun s (s.whoQueue asid) a 8 8 with
        | .error f => .error (some f)
        | .ok (s, bs) => if (tileDesc bs).loc then .error none else .ok (s, ds ++ [bs])

/-- E (R337): the highest scratchpad byte, plus one, that a slot tile reaches. -/
def slotReach (ds : List (List Byte)) : Nat :=
  ds.foldl (fun m bs => if bs.isEmpty then m else
    let d := tileDesc bs
    max m (d.spdest + d.rows * d.rowBytes)) 0

/-! ## The walk (R335) -/

/-- The level at nesting position `o`. -/
def Record.levelAt (r : Record) (o : Nat) : Nat := ((List.range r.nlev).find? fun j => r.order j = o).getD 0

/-- Entry `e` of the level at position `o` under row `row`: its X, or none at the level's end. -/
def walkEntry (s : State) (asid : BitVec 16) (r : Record) (o : Nat) (row : Word) (e : Nat) :
    Except AccFault (State × Option Word) :=
  let j := r.levelAt o
  if r.trip j ≤ e then .ok (s, none)
  else if r.lkind j = 0 then .ok (s, some (BitVec.ofNat 64 (e * r.lstep j)))
  else
    let w := if r.lkind j = 1 then 1 else 4
    let a := r.btab j + (row * BitVec.ofNat 64 (r.trip j) + BitVec.ofNat 64 e) * BitVec.ofNat 64 w
    match scalarLoad s (s.whoQueue asid) a w with
    | .error f => .error f
    | .ok (s, v) =>
      if v = (if w = 1 then 0xFF else 0xFFFFFFFF) then .ok (s, none)
      else .ok (s, some (if w = 1 then BitVec.ofNat 64 v else BitVec.ofInt 64 (signedOf 32 v)))

/-- The first place at or after entry `e` of position `o` that has an iteration below it, as many tries as the fuel. -/
def seekPlace (asid : BitVec 16) (r : Record) : Nat → State → Nat → Word → Nat →
    Except AccFault (State × Option (List (Nat × Word)))
  | 0, s, _, _, _ => .ok (s, none)
  | fuel + 1, s, o, row, e =>
    match walkEntry s asid r o row e with
    | .error c => .error c
    | .ok (s, none) => .ok (s, none)
    | .ok (s, some x) =>
      if r.nlev ≤ o + 1 then .ok (s, some [(e, x)])
      else match seekPlace asid r fuel s (o + 1) x 0 with
        | .error c => .error c
        | .ok (s, some rest) => .ok (s, some ((e, x) :: rest))
        | .ok (s, none) => seekPlace asid r fuel s o row (e + 1)

/-- Tries that no walk exceeds: entries read and rows found empty. -/
def walkFuel : Nat := 2 ^ 64

/-- The place after `p`, whose levels from position `o` down may still advance: the new place and the outermost position
that changed. -/
def advance (asid : BitVec 16) (r : Record) : Nat → State → List (Nat × Word) →
    Except AccFault (State × Option (List (Nat × Word) × Nat))
  | 0, s, _ => .ok (s, none)
  | o + 1, s, p =>
    let row := if o = 0 then 0 else ((p[o - 1]?).map Prod.snd).getD 0
    match seekPlace asid r walkFuel s o row (((p[o]?).map Prod.fst).getD 0 + 1) with
    | .error c => .error c
    | .ok (s, some rest) => .ok (s, some (p.take o ++ rest, o))
    | .ok (s, none) => advance asid r o s p

/-- The next place of a walk. -/
def nextPlace (s : State) (asid : BitVec 16) (r : Record) (w : Option (List (Nat × Word))) :
    Except AccFault (State × Option (List (Nat × Word) × Nat)) :=
  match w with
  | none => match seekPlace asid r walkFuel s 0 0 0 with
    | .error c => .error c
    | .ok (s, p) => .ok (s, p.map fun q => (q, 0))
  | some p => advance asid r r.nlev s p

/-- X[0] to X[5] at a place. -/
def placeX (r : Record) (p : List (Nat × Word)) : List Word :=
  (List.range 6).map fun j => if j < r.nlev then ((p[r.order j]?).map Prod.snd).getD 0 else 0

end Sys2Proof.Machine
end

