-- ==== Sys2Proof/Machine/Preempt.lean ====
section
/-! DEFINITION. Pre-emption of a launch: DRAIN, CUT, ABORT and RESUME (R344, R346). -/

namespace Sys2Proof.Machine

/-- Where a draining walker stops: before the first iteration not yet started that begins a new iteration of the level
whose ORDER is DLEV. -/
def Launch.stopAt (l : Launch) : Option Iteration :=
  l.waiting.find? fun i => l.started ≤ i.n && i.image.isNone && i.lev ≤ l.dlev

/-- Stop a draining walk where its place has been reached (R344). -/
def Launch.settleDrain (l : Launch) : Launch :=
  if l.phase ≠ .draining then l
  else match l.stopAt with
    | some i => { l with waiting := l.waiting.filter (fun j => j.n < i.n), stop := some (i.n, i.x), walkDone := true }
    | none => l

/-- Return a readied task to its iteration (R344). -/
def returnTask (s : State) (core : Nat) (t : Task) : State :=
  requeue (releaseCore s core) t.launch { n := t.n, x := t.x, lev := t.lev, since := s.clock }

/-- Return the tasks of a launch from iteration `n` on that have been readied and have not started. -/
def returnReadied (s : State) (l n : Nat) : State :=
  (s.coresOf l).foldl (fun s c => match (s.core c).task with
    | some t => if t.waits && n ≤ t.n then returnTask s c t else s
    | none => s) s

/-- The iterations of a launch that have not started and begin a new iteration of the level whose ORDER is `dlev`, readied or
not. -/
def stopsAt (s : State) (id : Nat) (l : Launch) (dlev : Nat) : List Nat :=
  ((s.coresOf id).filterMap fun c => match (s.core c).task with
    | some t => if t.waits && t.lev ≤ dlev && l.started ≤ t.n then some t.n else none
    | none => none) ++ (l.stopAt.map Iteration.n).toList

/-- The area of a PREEMPT: ADDR, or IMGA. -/
def areaOf (l : Launch) (a : Word) : Word := if a = 0 then Record.imga l.record else a

/-- DRAIN (R344): a readied task below the stop keeps its core, and one at or after it is returned. -/
def drainLaunch (s : State) (id : Nat) (l : Launch) (dlev : Nat) (area : Word) : State :=
  let l1 := { l with phase := .draining, dlev := dlev, area := areaOf l area }
  let s0 := s.setLaunch id (some l1)
  let s1 := match (stopsAt s id l1 dlev).min? with
    | some n => returnReadied s0 id n
    | none => s0
  match s1.launch id with
  | some x => s1.setLaunch id (some x.settleDrain)
  | none => s1

/-- Stop a launch's running tasks: rerunnable BUFFERED ones abort, and under CUT the DIRECT ones begin to stop (R326,
R344). -/
def stopTasks (s : State) (id : Nat) (cut : Bool) : State :=
  (s.coresOf id).foldl (fun s c => match (s.core c).task with
    | some t =>
      if t.phase ≠ .running then s
      else if t.buffered then (if t.canAbort then abortTask s c else s)
      else if cut then s.setCore c { s.core c with task := some { t with phase := .cutting } }
      else s
    | none => s) s

/-- CUT and ABORT (R344): the walker stops at once. -/
def suspendLaunch (s : State) (id : Nat) (l : Launch) (cut : Bool) (area : Word) : State :=
  stopTasks (returnReadied (s.setLaunch id (some { l with phase := .suspended, area := areaOf l area, used := 0 })) id 0) id cut

/-- RESUME lifts a suspension (R346). -/
def resumeLaunch (s : State) (id : Nat) (l : Launch) : State :=
  if l.phase = .suspended then
    s.setLaunch id (some { l with energy := false, phase := if l.resolved then .walking else .leases })
  else s

/-- A pre-emption of the given form: nothing against a launch that is suspended, draining or ended (R344). -/
def preemptLaunch (s : State) (id : Nat) (l : Launch) (form dlev : Nat) (area : Word) : State :=
  if l.phase = .suspended || l.phase = .draining || l.phase = .ended then s
  else match form with
    | 0 => drainLaunch s id l dlev area
    | 1 => suspendLaunch s id l true area
    | _ => suspendLaunch s id l false area

/-- FORM 3: the record's policy (R344). -/
def preemptPolicy (s : State) (id : Nat) (l : Launch) (area : Word) : State :=
  preemptLaunch s id l (Record.ppol l.record) (Record.dlev l.record) area

end Sys2Proof.Machine
end

