-- ==== Sys2Proof/Machine/QueueEvents.lean ====
section
/-! DEFINITION. The arbiter and the packets (R328 to R331, R334, R344 to R346). One packet is taken at a time; each event
takes the arbiter's pick where the pick is a packet of its kind, and otherwise leaves the state as it is. -/

namespace Sys2Proof.Machine

/-! ## The arbiter (R329) -/

/-- The queues that hold a packet and are served. -/
def State.eligibles (s : State) : List Nat := (s.queues.map Prod.fst).filter (eligible s)

/-- The effective level of an eligible queue (R329). -/
def effLevel (s : State) (q : Nat) : Nat :=
  let x := s.queue q
  let wait := if s.agep = 0 then 0 else (s.clock - x.since.getD s.clock) / s.agep.toNat
  min 7 (x.prio + wait)

/-- The next queue after `q`, cyclically, of a list in ascending order. -/
def nextAfter (qs : List Nat) (q : Nat) : Nat := ((qs.find? fun x => q < x).getD (qs.headD 0))

/-- The arbiter's pick (R329): the state with its pointers and deficits, and the queue. -/
def pick (s : State) : Option (State × Nat) :=
  let el := s.eligibles
  if el.isEmpty then none
  else
    let lev := el.foldl (fun m q => max m (effLevel s q)) 0
    let qs := el.filter fun q => effLevel s q = lev
    let p := Table.get 0 s.ptr lev
    let take (s : State) (q : Nat) : State × Nat :=
      (s.setQueue q { s.queue q with deficit := (s.queue q).deficit - 1 }, q)
    if qs.contains p && 1 ≤ (s.queue p).deficit then some (take s p)
    else
      let n := nextAfter qs p
      let x := s.queue n
      let s1 := { s with ptr := Table.set 0 s.ptr lev n }
      some (take (s1.setQueue n { x with deficit := x.deficit + max 1 x.weight.toNat }) n)

/-- A packet is refused (R330): its code goes to QSTAT and to the event ring. -/
def refusePacket (s : State) (q code : Nat) (corr : BitVec 32) (addr : Word) (cause : Nat) : State :=
  postEvent (s.setQueue q { s.queue q with code := BitVec.ofNat 8 code }) 3 corr (code + 256 * q + 2 ^ 32 * cause) addr.toNat

/-- Take the arbiter's pick where `mine` accepts its packet: the packet leaves the ring, and is refused or acts. A head
that cannot be read is not taken: its queue is disabled (R328). -/
def takePacket (s : State) (mine : Packet → Bool) (act : State → Nat → Packet → State) : Step :=
  match pick s.markQueues with
  | none => .next s
  | some (s1, q) =>
    match headPacket s1 q with
    | .error f =>
      let s2 := s1.logFault (s1.whoQueue (s1.queue q).asid) f 0
      .next (refusePacket (s2.setQueue q { s2.queue q with en := false }) q 6 0 0 f.cause.code).markQueues
    | .ok (s2, p) =>
      if !mine p then .next s
      else
        let x := s2.queue q
        let s3 := s2.setQueue q { x with head := x.head + 1, since := none }
        .next (match p.refusal with
          | some code => refusePacket s3 q code p.corr p.addr 0
          | none => act s3 q p).markQueues

/-! ## LAUNCH (R331, R332, R345) -/

/-- The walker of a new launch (log entry 23). -/
def walkerOf (id : Nat) : Nat := id % 8

/-- Start a launch from a record that has been read (R332, R334): refused with cause ILL where the record is. -/
def startLaunch (s : State) (q : Nat) (p : Packet) (addr : Word) (record : List Byte) (cursor : Option (Nat × List Word)) :
    State :=
  let asid := (s.queue q).asid
  let id := s.nextLaunch
  let base : Launch :=
    { queue := q, asid := asid, ptroot := (s.context asid).ptroot, corr := p.corr, addr := addr, record := record,
      walker := walkerOf id, cursor := cursor }
  let refused : Launch := { base with phase := .ended, lcode := 5, failure := some 1, walkDone := true }
  let s1 := { s with nextLaunch := id + 1 }
  if addr.toNat % 64 ≠ 0 || !Record.ok record then s1.setLaunch id (some refused)
  else match readSlots s1 asid record 12 with
    | .error f => (f.elim s1 fun f => s1.logFault (s1.whoQueue asid) f p.corr).setLaunch id (some refused)
    | .ok (s2, ds) => s2.setLaunch id (some { base with slots := ds })

/-- Read a record for a LAUNCH, or refuse the packet with code 6 (R330). -/
def readRecord (s : State) (q : Nat) (p : Packet) (addr : Word) (cursor : Option (Nat × List Word)) : State :=
  let w := s.whoQueue (s.queue q).asid
  match readBytes s w (BitVec.ofNat 64 (addr.toNat / 64 * 64)) 512 with
  | .error f => refusePacket (s.logFault w f p.corr) q 6 p.corr p.addr f.cause.code
  | .ok (s, bs) => startLaunch s q p addr bs cursor

/-- LAUNCH_PACKET (R331, R332): it also takes the packets whose opcode is unassigned. -/
def execLaunchPacket (s : State) : Step :=
  takePacket s (fun p => (p.opc = 1 && p.pflags / 2 % 2 = 0) || p.opc = 0 || 7 < p.opc) fun s q p =>
    readRecord s q p p.addr none

/-- LAUNCH_RESUME (R345). -/
def execLaunchResume (s : State) : Step :=
  takePacket s (fun p => p.opc = 1 && p.pflags / 2 % 2 = 1) fun s q p =>
    let w := s.whoQueue (s.queue q).asid
    match readRun s w p.addr 8 8 with
    | .error f => refusePacket (s.logFault w f p.corr) q 6 p.corr p.addr f.cause.code
    | .ok (s, bs) =>
      readRecord s q p (w64At bs 0) (some (leAt bs 8 8, (List.range 6).map fun j => w64At bs (16 + 8 * j)))

/-! ## WAITMEM and SIGNAL (R331) -/

/-- Read the word of a WAITMEM: the queue is blocked while it is below the threshold; a fault abandons it. -/
def checkWaitmem (s : State) (q : Nat) (addr val : Word) (corr : BitVec 32) : State :=
  let w := s.whoQueue (s.queue q).asid
  match loadAt s w addr 8 with
  | .error f => refusePacket ((s.logFault w f corr).setQueue q { s.queue q with blocked := none }) q 6 corr addr f.cause.code
  | .ok (s, v) => s.setQueue q { s.queue q with blocked := if val.toNat ≤ v then none else some (addr, val, corr) }

/-- WAITMEM. -/
def execWaitmem (s : State) : Step :=
  takePacket s (fun p => p.opc = 2) fun s q p => checkWaitmem s q p.addr p.val p.corr

/-- WAITMEM_RECHECK. -/
def execWaitmemRecheck (queue : Nat) (s : State) : Step :=
  match (s.queue queue).blocked with
  | some (a, v, c) => .next (checkWaitmem s queue a v c).markQueues
  | none => .next s

/-- SIGNAL: it waits for the queue's earlier launches without blocking other packets. -/
def execSignal (s : State) : Step :=
  takePacket s (fun p => p.opc = 3) fun s q p =>
    let x := s.queue q
    s.setQueue q { x with signals := x.signals ++ [(p.addr, p.val, p.corr, s.launchesOf q)] }

/-- SIGNAL_ADD: the oldest SIGNAL of a queue whose earlier launches have completed. -/
def execSignalAdd (queue : Nat) (s : State) : Step :=
  let x := s.queue queue
  match x.signals.find? fun g => g.2.2.2.all fun l => (s.launch l).isNone with
  | none => .next s
  | some g =>
    let s1 := s.setQueue queue { x with signals := x.signals.erase g }
    let w := s1.whoQueue x.asid
    match atomicAt s1 w .add g.1 8 g.2.1.toNat 0 with
    | .error f => .next (refusePacket (s1.logFault w f g.2.2.1) queue 4 g.2.2.1 g.1 f.cause.code)
    | .ok (s2, _) => .next s2

/-! ## PREEMPT (R344, R346) -/

/-- The launch that a PREEMPT names. -/
def preemptTarget (s : State) (q : Nat) (p : Packet) : Option (Nat × Launch) :=
  s.inFlight.find? fun e => e.2.asid = (s.queue q).asid && e.2.corr.toNat = p.val.toNat

/-- A PREEMPT packet of one FORM (or, for DRAIN, of a bad one). -/
def takePreempt (s : State) (form : Nat → Bool) (act : State → Nat → Launch → Packet → State) : Step :=
  takePacket s (fun p => p.opc = 4 && form (p.pflags % 8)) fun s q p =>
    if 5 ≤ p.pflags % 8 then refusePacket s q 5 p.corr p.addr 0
    else match preemptTarget s q p with
      | none => refusePacket s q 3 p.corr p.addr 0
      | some (id, l) =>
        if p.pflags % 8 = 0 && Record.nlev l.record ≤ p.pflags / 16 % 8 then refusePacket s q 5 p.corr p.addr 0
        else act s id l p

/-- PREEMPT_DRAIN: it also takes the packets of FORM 5 to 7, which are refused (R330). -/
def execPreemptDrain (s : State) : Step :=
  takePreempt s (fun f => f = 0 || 5 ≤ f) fun s id l p => preemptLaunch s id l 0 (p.pflags / 16 % 8) p.addr

/-- PREEMPT_CUT. -/
def execPreemptCut (s : State) : Step :=
  takePreempt s (· = 1) fun s id l p => preemptLaunch s id l 1 0 p.addr

/-- PREEMPT_ABORT. -/
def execPreemptAbort (s : State) : Step :=
  takePreempt s (· = 2) fun s id l p => preemptLaunch s id l 2 0 p.addr

/-- PREEMPT_POLICY. -/
def execPreemptPolicy (s : State) : Step := takePreempt s (· = 3) fun s id l p => preemptPolicy s id l p.addr

/-- PREEMPT_RESUME. -/
def execPreemptResume (s : State) : Step := takePreempt s (· = 4) fun s id l _ => resumeLaunch s id l

/-- RESETQ (R331, R410). -/
def execResetq (s : State) : Step :=
  takePacket s (fun p => p.opc = 5) fun s q p =>
    let t := p.val.toNat
    if (s.queue t).asid ≠ (s.queue q).asid then refusePacket s q 3 p.corr p.addr 0
    else
      let s1 := closeTrace s t 1 true p.corr
      let x := s1.queue t
      s1.setQueue t { x with blocked := none, signals := [], head := x.tail }

end Sys2Proof.Machine
end

