-- ==== Sys2Proof/Machine/TaskEvents.lean ====
section
/-! DEFINITION. The events of launches and tasks: the walk (R335, R345), cohorts (R280), placement and the vestibule
(R336, R337, R354, R357, R358), staging and start (R338, R339), commit (R340) and completion (R343). An event that is not
enabled leaves the state as it is. -/

namespace Sys2Proof.Machine

/-! ## The walk (R335, R345) -/

/-- The launch is refused after its record was taken in: no task starts (R280, R345). -/
def Launch.refuse (l : Launch) : Launch :=
  { l with phase := .ended, lcode := 5, failure := some 1, walkDone := true, waiting := [], cursor := none }

/-- COHORT cannot place this iteration beside those already enumerated (R280, step 1). -/
def cohortBad (s : State) (l : Launch) (n : Nat) : Bool :=
  let r := l.record
  let c := Record.cohortCore r n
  let others := l.waiting.map fun i => Record.cohortCore r i.n
  128 ≤ c || (s.core c).lacks.getLsbD 0 || others.contains c ||
    (Record.heat r = 2 && (List.range 4).any fun d => match neighbour c d with
      | some m => others.contains m
      | none => false)

/-- The walk has reached an iteration (R335, R345). -/
def reachIteration (s : State) (l : Launch) (p : List (Nat × Word)) (lev : Nat) : Launch :=
  let x := placeX l.record p
  let n := l.next
  let l1 := { l with walk := some p, next := n + 1 }
  let take (l : Launch) : Launch :=
    if Record.place l.record = 1 && cohortBad s l n then l.refuse
    else
      let it : Iteration := { n := n, x := x, lev := lev, since := s.clock }
      Launch.settleDrain { l with waiting := l.waiting ++ [it] }
  match l.cursor with
  | none => take l1
  | some (cn, cx) =>
    if n < cn then l1 else if n = cn && x = cx then take { l1 with cursor := none } else l1.refuse

/-- The walk has ended (R345). -/
def endWalk (l : Launch) : Launch :=
  match l.cursor with
  | none => { l with walkDone := true }
  | some (cn, cx) =>
    if l.next = cn && cx.all (· = 0) then { l with walkDone := true, cursor := none } else l.refuse

/-- WALKER_ENUMERATE (R335). -/
def execWalkerEnumerate (launchId : Nat) (s : State) : Step :=
  match s.launch launchId with
  | none => .next s
  | some l =>
    if l.walkDone || l.failure.isSome || !(l.phase = .walking || l.phase = .draining) then .next s
    else match nextPlace s l.asid l.record l.walk with
      | .error f => .next (failLaunch (s.logFault (s.whoQueue l.asid) f l.corr) launchId f.cause.code)
      | .ok (s1, none) => .next (s1.setLaunch launchId (some (endWalk l)))
      | .ok (s1, some (p, lev)) => .next (s1.setLaunch launchId (some (reachIteration s1 l p lev)))

/-! ## Heat (R354, R355) -/

/-- The heat class that a reservation holds on a core (R280): of the cohort's task that has still to be placed there. -/
def State.reservedHeat (s : State) (c : Nat) : Option Nat :=
  match (s.core c).reserved with
  | none => none
  | some id => match s.launch id with
    | none => none
    | some l => if l.waiting.any fun i => Record.cohortCore l.record i.n = c then some (Record.heat l.record) else none

/-- The heat class of the task that a core holds, or for which it is reserved. -/
def State.heatOf (s : State) (c : Nat) : Option Nat :=
  match (s.core c).task with
  | some t => some t.heat.toNat
  | none => s.reservedHeat c

/-- Cores of a post that hold a warm task, or are reserved for one. -/
def State.warmCount (s : State) (post : Nat) : Nat :=
  ((List.range 64).filter fun k => s.heatOf (64 * post + k) = some 1).length

/-- The warm budget of a post. -/
def State.warmBudget (s : State) (post : Nat) : Nat := (s.heatctl.field (32 + 8 * post) 8).toNat

/-- An edge neighbour of a core holds a hot task, or is reserved for one. -/
def State.hotBeside (s : State) (c : Nat) : Bool :=
  (List.range 4).any fun d => match neighbour c d with
    | some n => s.heatOf n = some 2
    | none => false

/-- The colour of a core (R3): even or odd by the sum of its coordinates. -/
def coreColour (c : Nat) : Bool := (c / 8 + c % 8) % 2 = 1

/-- HEATCTL.COLOUR -/
def State.colour (s : State) : Bool := s.heatctl.getLsbD 0

/-! ## Cohorts (R280) -/

/-- No command stands in a core's slots. -/
def Core.noCommands (c : Core) : Bool := c.slots.all fun e => e.2.isNone

/-- The heat class of a cohort is allowed on every named core at once. -/
def cohortHeat (s : State) (heat : Nat) (cs : List Nat) : Bool :=
  match heat with
  | 0 => true
  | 1 => (List.range 2).all fun p =>
      let here := (cs.filter fun c => postOf c = p).length
      here = 0 || s.warmCount p + here ≤ s.warmBudget p
  | _ => cs.all fun c => !s.hotBeside c

/-- Step 3 of R280: barriers, terms and pending bits at reset, and PBAR preset. -/
def Core.clearBars (c : Core) : Core := { c with bars := [], truss := [], pending := [] }

/-- COHORT_RESERVE (R280). -/
def execCohortReserve (launchId : Nat) (s : State) : Step :=
  match s.launch launchId with
  | none => .next s
  | some l =>
    let r := l.record
    let cs := l.waiting.map fun i => Record.cohortCore r i.n
    let free := cs.all fun c =>
      (s.core c).task.isNone && (s.core c).reserved.isNone && (s.core c).noCommands
    if Record.place r ≠ 1 || !l.walkDone || l.failure.isSome || cs.isEmpty || !free || !l.resolved
        || !(l.phase = .walking || l.phase = .draining) || !cohortHeat s (Record.heat r) cs then .next s
    else .next (cs.foldl (fun s c =>
      let x := (s.core c).clearBars
      let x := if Record.pcount r = 0 then x else x.setBar (Record.pbar r) { expect := Record.pcount r }
      s.setCore c { x with reserved := some launchId }) s)

/-! ## The vestibule (R357, R358) -/

/-- The granules that a core has lent. -/
def Core.lentTotal (c : Core) : Nat := c.lent.foldl (· + ·) 0

/-- What a core offers to its neighbours (R357). -/
def Core.offer (c : Core) : Nat :=
  if c.lacks.getLsbD 0 then 0
  else match c.task with
    | none => min 120 (c.live - 8) - c.lentTotal
    | some t =>
      if t.heat = 0 then min (lendGran t.partw - c.fresh.foldl (· + ·) 0) (120 - c.lentTotal) else 0

/-- The granules that each direction gives, north first, up to VMAX (R358). -/
def grantsFor (s : State) (c vmax : Nat) : List Nat :=
  (List.range 4).foldl (fun g d =>
    let off := match neighbour c d with
      | some n => (s.core n).offer
      | none => 0
    g ++ [min off (vmax - g.foldl (· + ·) 0)]) []

/-- Every direction offers what an image needs (R346). -/
def grantsCover (s : State) (c : Nat) (need : List Nat) : Bool :=
  (List.range 4).all fun d => match neighbour c d with
    | some n => need.getD d 0 ≤ (s.core n).offer
    | none => need.getD d 0 = 0

/-- The lenders record a core's grants. -/
def lendGrants (s : State) (c : Nat) (g : List Nat) : State :=
  (List.range 4).foldl (fun s d => match neighbour c d with
    | some n =>
      let x := s.core n
      let k := opposite d
      s.setCore n { x with lent := setAt x.lent k (g.getD d 0), fresh := setAt x.fresh k (g.getD d 0) }
    | none => s) s

/-! ## Placement (R336, R337, R354) -/

/-- The iteration of a launch that the distributor would place next: after a failure, only cut tasks (R342, R346). -/
def Launch.candidate (l : Launch) : Option Iteration :=
  if !l.resolved || !(l.phase = .walking || l.phase = .draining) then none
  else match l.waiting with
    | [] => none
    | i :: _ => if l.failure.isSome then l.waiting.find? fun j => j.image.isSome else some i

/-- The heat class of a launch allows a task on a core (R354). A cohort's reservation holds its heat, so that each of its cores
takes its task without asking again (R280). -/
def heatFits (s : State) (r : Record) (c : Nat) : Bool :=
  Record.place r = 1 || (match Record.heat r with
    | 0 => true
    | 1 => s.warmCount (postOf c) < s.warmBudget (postOf c)
    | _ => !s.hotBeside c)

/-- A core meets the conditions of R337 that a fresh and a restored task share, given the registers and granules that it
needs. -/
def coreFits (s : State) (id : Nat) (l : Launch) (c nreg : Nat) (n : Nat) : Bool :=
  let x := s.core c
  let r := l.record
  let p := Record.partw r
  let need := rgran p + agran p + lendGran p + (slotReach l.slots + 65535) / 65536
  x.task.isNone && !(s.context l.asid).stopped && !x.lacks.getLsbD 0 && nreg ≤ x.regmax && need + x.lentTotal ≤ x.live
    && (!Record.temp r || !x.lacks.getLsbD 3)
    && (if Record.place r = 1 then x.reserved = some id && c = Record.cohortCore r n else x.reserved.isNone)
    && (Record.place r ≠ 2 || x.noCommands) && s.pstate = 0 && heatFits s r c

/-- A fresh iteration can be placed on a core: its grants. -/
def placeGrants (s : State) (id : Nat) (l : Launch) (it : Iteration) (c : Nat) : Option (List Nat) :=
  let r := l.record
  let g := grantsFor s c (Record.vmax r)
  if coreFits s id l c (min 64 (32 * rgran (Record.partw r))) it.n && Record.vmin r ≤ g.foldl (· + ·) 0 then some g else none

/-- The next multiple of 64. -/
def up64 (n : Nat) : Nat := (n + 63) / 64 * 64

/-- The bytes of an image after its hart records, by its header (R327). -/
def imageTail (h : List Byte) : Nat :=
  let p : BitVec 32 := BitVec.ofNat 32 (leAt h 72 4)
  let grants := (List.range 4).map fun d => leAt h (96 + 4 * d) 4
  up64 (16 * leAt h 77 1) + 192 * leAt h 78 1 + up64 (16 * leAt h 79 1) + (if leAt h 3 1 / 2 % 2 = 1 then 4288 else 0)
    + 131200 * (agran p / 2) + (grants.map fun g => up64 (g + g / 32)).foldl (· + ·) 0

/-- An image's header does not hold what it must: the task is lost as with ILL (R346). -/
def badImage : AccFault := { cause := .ill, kind := 0, val := 0, inPlane := true }

/-- The bytes of `n` hart records from address `a`, as they give them; a fault comes with the state that the reads before it left. -/
def hartBytes (w : Who) : Nat → State → Word → Except (State × AccFault) (State × Nat)
  | 0, s, _ => .ok (s, 0)
  | n + 1, s, a =>
    match loadAt s w a 8 with
    | .error f => .error (s, f)
    | .ok (s, len) =>
      if len % 64 ≠ 0 || 2 ^ 32 ≤ len then .error (s, badImage)
      else match hartBytes w n s (a + BitVec.ofNat 64 len) with
        | .error c => .error c
        | .ok (s, m) => .ok (s, len + m)

/-- The header of an image, or why the task is lost (R346): the failed read's fault, or ILL. Its ISIZE is that of the
sections which it and the hart records give. A fault comes with the state that the reads before it left. -/
def imageHead (s : State) (l : Launch) (it : Iteration) (a : Word) : Except (State × AccFault) (State × List Byte) :=
  match readRun s (s.whoQueue l.asid) a 8 32 with
  | .error f => .error (s, f)
  | .ok (s, h) =>
    let nv := leAt h 76 1
    let wide := leAt h 3 1 % 2 = 1
    let bm : Word := w64At h 80
    let ok := leAt h 0 2 = 1 && leAt h 2 1 = Record.gang l.record && leAt h 3 1 < 4 && (leAt h 3 1 / 2 = 1) = Record.temp l.record
      && leAt h 8 8 = it.n && w64At h 16 = l.addr && (List.range 6).all (fun j => w64At h (24 + 8 * j) = it.x.getD j 0)
      && leAt h 72 4 = (Record.partw l.record).toNat && nv ≤ (if wide then 16 else 64)
      && leAt h 77 1 = ((List.range 64).filter bm.getLsbD).length && leAt h 94 2 = 0 && !anyByte h 112 144
      && (List.range 4).all (fun d => leAt h (96 + 4 * d) 4 % 65536 = 0)
    if !ok then .error (s, badImage)
    else match hartBytes (s.whoQueue l.asid) (leAt h 2 1) s (a + 256) with
      | .error c => .error c
      | .ok (s, n) => if 256 + n + imageTail h = leAt h 4 4 then .ok (s, h) else .error (s, badImage)

/-- The vestibule granules of an image's header. -/
def headGrants (h : List Byte) : List Nat := (List.range 4).map fun d => leAt h (96 + 4 * d) 4 / 65536

/-- A cut task can be restored on a core (R346). -/
def restoreFits (s : State) (id : Nat) (l : Launch) (it : Iteration) (h : List Byte) (c : Nat) : Bool :=
  coreFits s id l c (leAt h 76 1) it.n && grantsCover s c (headGrants h)

/-- The candidate of a launch could be given some core. -/
def placeable (s : State) (id : Nat) (l : Launch) : Bool :=
  match l.candidate with
  | none => false
  | some it => match it.image with
    | none => (List.range 128).any fun c => (placeGrants s id l it c).isSome
    | some a => match imageHead s l it a with
      | .error _ => true
      | .ok (s, h) => (List.range 128).any (restoreFits s id l it h)

/-- The placement priority of a launch's waiting iteration (R336). -/
def placePrio (s : State) (l : Launch) (it : Iteration) : Nat :=
  let p := Record.prio l.record
  if s.agep = 0 then p else min 7 (p + (s.clock - it.since) / s.agep.toNat)

/-- A launch is served before another (R336): a higher priority first, then the longer wait. -/
def servedFirst (s : State) (a b : Launch) : Bool :=
  match a.candidate, b.candidate with
  | some x, some y =>
    let p := placePrio s a x
    let q := placePrio s b y
    q < p || (p = q && x.since < y.since)
  | _, _ => false

/-- The distributor's turn is this launch's: no launch that it serves first can be given a core. -/
def myTurn (s : State) (id : Nat) (l : Launch) : Bool :=
  s.inFlight.all fun e => e.1 = id || !servedFirst s e.2 l || !placeable s e.1 e.2

/-- The core that a hot iteration takes among those that fit (R354): of the current colour if there is one, then the
lowest. -/
def hotChoice (s : State) (fits : Nat → Bool) : Option Nat :=
  let cs := (List.range 128).filter fits
  match cs.find? fun c => coreColour c = s.colour with
  | some c => some c
  | none => cs.head?

/-- A core takes a launch's task (R338, steps 1 and 2). -/
def readyCore (s : State) (id : Nat) (l : Launch) (it : Iteration) (c : Nat) (g : List Nat) : State :=
  let r := l.record
  let s := lendGrants s c g
  let x := s.core c
  let t : Task :=
    { launch := id, n := it.n, x := it.x, record := l.addr, gang := Record.gang r, buffered := Record.buffered r,
      ppol := Record.ppol r, phase := .staging, gt := x.live - x.lentTotal, asid := l.asid, ptroot := l.ptroot,
      corr := l.corr, partw := Record.partw r, heat := BitVec.ofNat 2 (Record.heat r), lev := it.lev }
  let y := if Record.place r = 2 then x.clearBars else { x with truss := [], pending := [] }
  s.setCore c { y with task := some t, granted := g, void := 0, pool := [], valid := [], poolPoison := [],
                       fresh := [0, 0, 0, 0], used := 0, follows := [] }

/-- An iteration leaves the queue of its launch. -/
def takeIteration (s : State) (id : Nat) (l : Launch) (it : Iteration) : State :=
  s.setLaunch id (some { l with waiting := l.waiting.filter fun j => j.n ≠ it.n })

/-- TASK_PLACEMENT (R337). -/
def execTaskPlacement (launchId core : Nat) (s : State) : Step :=
  match s.launch launchId with
  | none => .next s
  | some l => match l.candidate with
    | none => .next s
    | some it =>
      let fits c := (placeGrants s launchId l it c).isSome
      if it.image.isSome || 128 ≤ core || !myTurn s launchId l
          || (Record.heat l.record = 2 && hotChoice s fits ≠ some core) then .next s
      else match placeGrants s launchId l it core with
        | none => .next s
        | some g => .next (readyCore (takeIteration s launchId l it) launchId l it core g)

/-! ## Staging (R338) -/

/-- Who the copy engine stages and commits for. -/
def whoTask (core : Nat) (t : Task) : Who :=
  { core := core, asid := t.asid, ptroot := t.ptroot, handler := false, launch := some t.launch, agent := 512 + core }

/-- A tile's place in the scratchpad: row `i` (R338, step 3). -/
def stageRow (d : TileDesc) (i : Nat) : Word := BitVec.ofNat 64 (Config.pwBase + d.spdest + i * d.rowBytes)

/-- A commit reads the scratchpad without an UNINIT fault, since R340 leaves an output tile no other fault than its
writes', MCHK and PEERDN: words that nothing has written hold free values (log entry 31). -/
def staleWords (s : State) (core o n : Nat) : State :=
  let c := s.core core
  if uninitZero c.partw then s
  else s.setCore core ((poolWords o n).foldl (fun c k =>
    if Table.get false c.valid k then c else c.poolWrite (4 * k) 4 (Config.staleWord s.freeCount k).toNat) c)

/-- A piece of a slot's tile: up to 64 bytes of one of its rows. -/
structure Piece where
  d : TileDesc
  row : Nat
  off : Nat
  len : Nat

/-- The pieces of a tile, row by row. -/
def TileDesc.pieces (d : TileDesc) : List Piece :=
  (List.range d.rows).flatMap fun i => (List.range ((d.rowBytes + 63) / 64)).map fun k =>
    ⟨d, i, 64 * k, min 64 (d.rowBytes - 64 * k)⟩

/-- The pieces of several slots, in ascending order; a malformed descriptor is ILL on its address. -/
def slotPieces (slots : List (Word × List Byte)) : List (Except AccFault Piece) :=
  slots.flatMap fun e =>
    if e.2.isEmpty then []
    else if tileDescOk e.2 then (tileDesc e.2).pieces.map .ok else [.error { cause := .ill, kind := 0, val := e.1 }]

/-- Move one piece, in or out of the scratchpad. -/
def movePiece (w : Who) (x : List Word) (out : Bool) (s : State) (p : Piece) : State × Option AccFault :=
  let o := BitVec.ofNat 64 p.off
  let src := (if out then stageRow p.d p.row else p.d.row x p.row) + o
  let dst := (if out then p.d.row x p.row else stageRow p.d p.row) + o
  let s := if out then staleWords s w.core (p.d.spdest + p.row * p.d.rowBytes + p.off) p.len else s
  match readBytes s w src p.len with
  | .error f => (s, some f)
  | .ok (s, bs) => writeBytes s w dst bs

/-- Move pieces until one faults. -/
def movePieces (w : Who) (x : List Word) (out : Bool) : List (Except AccFault Piece) → State → State × Option AccFault
  | [], s => (s, none)
  | .error f :: _, s => (s, some f)
  | .ok p :: t, s => match movePiece w x out s p with
    | (s, some f) => (s, some f)
    | (s, none) => movePieces w x out t s

/-- The input or output slots of a launch: descriptor addresses and descriptors. -/
def Launch.slotList (l : Launch) (out : Bool) : List (Word × List Byte) :=
  let all := l.slots.zipIdx.map fun p => (Record.slot l.record p.2, p.1)
  if out then all.drop 8 else all.take 8

/-- A core's task changes its phase. -/
def setPhase (s : State) (core : Nat) (t : Task) (p : TaskPhase) : State :=
  s.setCore core { s.core core with task := some { t with phase := p } }

/-- Stage the inputs of a core's task: the state, and a fault that ends it (R338, R342). -/
def stageInputs (s : State) (core : Nat) (t : Task) (l : Launch) : State × Option AccFault :=
  movePieces (whoTask core t) t.x false ((slotPieces (l.slotList false)).drop t.moved) s

/-- A task ends faulted outside its harts (R342): the first hart's trap state records the fault. -/
def endByFault (s : State) (core : Nat) (f : AccFault) : State :=
  let s := match (s.core core).task with
    | some t => s.logFault { whoTask core t with handler := true } f t.corr
    | none => s
  let h := s.hart (4 * core)
  endFaulted (s.setHart (4 * core) { h with tcause := f.tcause, tepc := 0, tval := f.val }) core (4 * core) f.cause.code

/-- STAGING_COMPLETE (R338). -/
def execStagingComplete (core : Nat) (s : State) : Step :=
  match (s.core core).task with
  | none => .next s
  | some t =>
    if t.phase ≠ .staging then .next s
    else match s.launch t.launch with
      | none => .next s
      | some l => match stageInputs s core t l with
        | (s1, some f) => .next (endByFault s1 core f)
        | (s1, none) => .next (setPhase s1 core { t with moved := 0 } .ready)

/-! ## Start (R336, R339) -/

/-- Every task of a lower n has started (R336). -/
def lowerStarted (s : State) (id : Nat) (l : Launch) (n : Nat) : Bool :=
  l.waiting.all (fun i => n ≤ i.n || (l.failure.isSome && i.image.isNone)) &&
    (s.coresOf id).all fun c => match (s.core c).task with
      | some t => n ≤ t.n || !t.waits
      | none => true

/-- The state of gang member `k` at task start (R339, R137). -/
def startHart (s : State) (t : Task) (l : Launch) (k : Nat) : Hart :=
  let r := l.record
  let e := Record.entry r k
  let regs := (t.x.zipIdx.map fun p => (p.2 + 1, p.1)) ++ [(7, BitVec.ofNat 64 t.n), (8, t.record)]
  { status := .running,
    seq := { pc := e, blk := e, s := regs.foldl (fun m p => Table.set 0 m p.1 p.2) [] },
    fenced := List.replicate 6 s.freeCount, synced := List.replicate 6 s.freeCount, began := s.freeCount,
    tvec := Record.handler r, partw := t.partw, taskid := BitVec.ofNat 64 t.n, corr := t.corr, heatcl := t.heat,
    asid := t.asid, ptroot := t.ptroot, lastRetire := s.clock,
    rspbase := Record.rspb r + BitVec.ofNat 64 (Record.rspstep r) * BitVec.ofNat 64 (4 * t.n + k) }

/-- The harts of a core's task begin, its accumulator tiles cleared and its grant at the task-start value (R219, R339). -/
def startTask (s : State) (core : Nat) (t : Task) (l : Launch) : State :=
  let s := (List.range 4).foldl (fun s k =>
    s.setHart (4 * core + k) (if k < t.gang then startHart s t l k else {})) s
  let c := s.core core
  s.setCore core { c with grant := {}, tiles := [],
                          task := some { t with phase := .running, bars := c.bars, temporal := c.temporal, came := [] } }

/-- TASK_START (R339). -/
def execTaskStart (core : Nat) (s : State) : Step :=
  match (s.core core).task with
  | none => .next s
  | some t => match s.launch t.launch with
    | none => .next s
    | some l =>
      if t.phase ≠ .ready || (s.context l.asid).stopped || l.failure.isSome || !(l.phase = .walking || l.phase = .draining)
          || !lowerStarted s t.launch l t.n then .next s
      else
        let s1 := startTask s core t l
        let s2 := s1.setLaunch t.launch (some { l with started := max l.started (t.n + 1) })
        .next (traceTask s2 core 2 4 (.hart 0) t.n 0)

/-! ## Commit (R340) -/

/-- Perform the posted atomics of one hart's commit queue in program order. -/
def commitAtomics (core : Nat) (t : Task) : List QueuedAtomic → State → State × Option AccFault
  | [], s => (s, none)
  | a :: rest, s =>
    match atomicAt s { whoTask core t with handler := a.handler } a.op a.addr a.bytes a.val 0 with
    | .error f => (s, some f)
    | .ok (s, _) => commitAtomics core t rest s

/-- The commit queues of a core's harts. -/
def commitQueues (s : State) (core : Nat) : List QueuedAtomic :=
  (List.range 4).flatMap fun k => (s.hart (4 * core + k)).commitQ

/-- The commit of a task (R340), or what is left of it: output slots, posted atomics, and the add at TSIG. -/
def commitTask (s : State) (core : Nat) (t : Task) (l : Launch) : State × Option AccFault :=
  match movePieces (whoTask core t) t.x true ((slotPieces (l.slotList true)).drop t.moved) s with
  | (s, some f) => (s, some f)
  | (s, none) => match commitAtomics core t (commitQueues s core) s with
    | (s, some f) => (s, some f)
    | (s, none) =>
      let a := Record.tsig l.record
      if a = 0 then (s, none)
      else match atomicAt s (s.whoQueue l.asid) .add a 8 1 0 with
        | .error f => (s, some f)
        | .ok (s, _) => (s, none)

/-- A task's commit is performed to its end and its core released, or the task ends faulted (R340, R342). -/
def endCommit (s : State) (core : Nat) (t : Task) : State :=
  match s.launch t.launch with
  | none => releaseCore s core
  | some l => match commitTask s core t l with
    | (s1, some f) => endByFault s1 core f
    | (s1, none) =>
      let s2 := traceTask s1 core 2 5 (.hart 0) t.n (s1.hart (4 * core)).wcount.toNat
      let s3 := match s2.launch t.launch with
        | some x => s2.setLaunch t.launch (some { x with ntask := x.ntask + 1 })
        | none => s2
      releaseCore s3 core

/-- COMMIT_COMPLETE (R340). -/
def execCommitComplete (core : Nat) (s : State) : Step :=
  match (s.core core).task with
  | none => .next s
  | some t => .next (if t.phase = .commit then endCommit s core t else s)

/-- The next posted atomic of hart `k` of a task that commits (R340, step 2). -/
def nextAtomic (s : State) (core k : Nat) (t : Task) : State × Option AccFault :=
  match (s.hart k).commitQ with
  | [] => (s, none)
  | a :: rest => commitAtomics core t [a] (s.setHart k { s.hart k with commitQ := rest })

/-- The next piece of what a core's copy engine stages or commits, or, once a commit's tiles are written, the next posted atomic
of a hart: those of different harts are unordered (R322, R338, R340). -/
def nextPiece (s : State) (core slot : Nat) : State :=
  match (s.core core).task with
  | none => s
  | some t => match s.launch t.launch with
    | none => s
    | some l =>
      let out := t.phase = .commit
      let counted := s.setCore core { s.core core with task := some { t with moved := t.moved + 1 } }
      let r : State × Option AccFault :=
        if !(out || t.phase = .staging) then (s, none)
        else match (slotPieces (l.slotList out))[t.moved]? with
          | some (.ok p) => movePiece (whoTask core t) t.x out counted p
          | some (.error f) => (s, some f)
          | none => if out then nextAtomic s core (4 * core + slot % 4) t else (s, none)
      match r with
      | (s1, some f) => endByFault s1 core f
      | (s1, none) => s1

/-! ## Completion (R343, R345) -/

/-- Nothing of a launch runs or is to run, and no stamp of it is in progress (R347). -/
def launchQuiet (s : State) (id : Nat) (l : Launch) : Bool :=
  (s.coresOf id).isEmpty && s.stamps.all (·.launch ≠ id) && match l.phase with
    | .ended => true
    | .walking | .draining =>
      l.walkDone && (if l.failure.isSome then l.waiting.all fun i => i.image.isNone else l.waiting.isEmpty)
    | _ => false

/-- LCODE and CAUSE of a launch that completes (R343). -/
def launchCode (l : Launch) : Nat × Nat :=
  match l.phase, l.failure with
  | .ended, f => (l.lcode, f.getD 0)
  | _, some c => (7, c)
  | .draining, none => (2, 0)
  | _, none => (1, 0)

/-- The 64 bytes of a drain cursor (R345). -/
def cursorBytes (l : Launch) : List Byte :=
  let p := l.stop.getD (l.next, [0, 0, 0, 0, 0, 0])
  leBytes 8 l.addr.toNat ++ leBytes 8 p.1 ++ (List.range 6).flatMap fun j => leBytes 8 (p.2.getD j 0).toNat

/-- Complete a launch: the cursor of a drained one is written, its lease ranges and cores are released, and then the
status word is written (R280, R343, R345). -/
def completeLaunch (s : State) (id : Nat) (l : Launch) : State :=
  let w := s.whoQueue l.asid
  let code := launchCode l
  let s1 := if code.1 = 2 then (writeRun s w l.area 8 8 (cursorBytes l)).1 else s
  let s2 := s1.units.foldl (fun s u => s.setUnit u.1 { u.2 with
    leaves := u.2.leaves.map fun k => { k with pins := k.pins.filter (· ≠ id) } }) s1
  let s3 := { s2 with leasexs := s2.leasexs.filter fun r => r.launch ≠ id }
  let s4 := (List.range 128).foldl (fun s c =>
    if (s.core c).reserved = some id then s.setCore c { s.core c with reserved := none } else s) s3
  let s5 := s4.setLaunch id none
  let word := 2 ^ 16 * (l.ntask % 2 ^ 32) + 256 * code.2 + code.1
  let a := Record.lstat l.record
  (if a = 0 then s5 else (writeRun s5 w a 8 1 (leBytes 8 word)).1).markQueues

/-- LAUNCH_COMPLETION (R343). -/
def execLaunchCompletion (launchId : Nat) (s : State) : Step :=
  match s.launch launchId with
  | none => .next s
  | some l => .next (if launchQuiet s launchId l then completeLaunch s launchId l else s)

end Sys2Proof.Machine
end

