-- ==== Sys2Proof/Machine/Image.lean ====
section
/-! DEFINITION. The context image: its bytes (R296, R327) and loading it (R346). -/

namespace Sys2Proof.Machine

/-! ## Pieces -/

/-- Some bytes padded with zeros to `n`. -/
def padTo (n : Nat) (bs : List Byte) : List Byte := bs ++ List.replicate (n - bs.length) 0
/-- A section padded with zeros to a multiple of 64 (R327). -/
def pad64 (bs : List Byte) : List Byte := padTo (up64 bs.length) bs
/-- Bits as bytes, bit `i` in bit i mod 8 of byte i div 8. -/
def bitBytes (n : Nat) (f : Nat → Bool) : List Byte :=
  (List.range (n / 8)).map fun k =>
    BitVec.ofNat 8 ((List.range 8).foldl (fun v j => if f (8 * k + j) then v + 2 ^ j else v) 0)

/-- Bytes of one lane slice in an image. -/
def sliceBytes (wide : Bool) : Nat := if wide then 128 else 32

/-- A return store of in-hart entries, oldest first (R327). -/
def retBytes (q : Seq) : List Byte := padTo 128 (q.rets.reverse.flatMap fun r => leBytes 8 r.toNat)

/-- The loop stack, I0 first. -/
def loopBytes (q : Seq) : List Byte :=
  padTo 144 (q.loops.flatMap fun e => leBytes 8 e.idx.toNat ++ leBytes 8 e.cnt.toNat ++ leBytes 8 e.hdr.toNat)

/-- STKCNT (R138). -/
def stkcntOf (q : Seq) : Nat :=
  q.mspill * 2 ^ 40 + q.rspill * 2 ^ 16 + q.masks.length * 2 ^ 12 + q.rets.length * 2 ^ 7 + q.loops.length

/-- The vector registers of a hart record: the slices of `nv` registers, and then their full and taint bits. -/
def vectorBytes (v : Vec) (nv : Nat) (wide : Bool) : List Byte :=
  let regs := List.range nv
  let data := regs.flatMap fun r => (List.range 16).flatMap fun l => leBytes (sliceBytes wide) (v.slice r l).bits.toNat
  let marks := regs.flatMap fun r =>
    bitBytes 16 (fun l => (v.slice r l).full) ++ bitBytes 16 (fun l => (v.slice r l).taint)
  data ++ pad64 marks

/-- The deferral entries, oldest first, 40 bytes each. -/
def deferBytes (d : List DeferEntry) : List Byte :=
  pad64 (d.flatMap fun e => leBytes 8 e.vals.length ++ padTo 32 (e.vals.flatMap fun v => leBytes 8 v.toNat))

/-- The fixed 5,120 bytes of a hart record and its variable parts. HSTATE and the word at bytes 56 to 63 differ in a dump
(R411). -/
def hartRecord (h : Hart) (g : Grant) (nv hstate : Nat) (rpc at_ : Word) : List Byte :=
  let q := h.seq
  let var := vectorBytes h.vec nv (wideOf g.vtype) ++ deferBytes h.defer
  leBytes 8 (5120 + var.length) ++ leBytes 8 rpc.toNat ++ leBytes 8 h.wcount.toNat ++ leBytes 4 g.vl
    ++ leBytes 1 g.vtype.toNat ++ leBytes 1 hstate ++ leBytes 2 h.defer.length ++ leBytes 4 h.vflags.toNat ++ leBytes 4 0
    ++ leBytes 8 q.sTaint.toNat ++ leBytes 8 (stkcntOf q) ++ leBytes 8 at_.toNat
    ++ ((List.range 32).flatMap fun r => leBytes 8 (if r = 0 then 0 else (Table.get 0 q.s r).toNat))
    ++ ((List.range 8).flatMap fun r => leBytes 4 (Table.get 0xAAAA0000 q.f r).toNat)
    ++ leBytes 8 h.rspbase.toNat ++ leBytes 24 0 ++ loopBytes q ++ retBytes q
    ++ ((List.range 7).flatMap fun m => leBytes 256 (Table.get 0 h.vec.m (m + 1)).toNat)
    ++ padTo 2560 (q.masks.reverse.flatMap maskEntryBytes) ++ leBytes 112 0 ++ var

/-- NVREG's share of one hart: VHW + 1 of the header at which it resumes. -/
def State.resumeRegs (s : State) (k : Nat) : Nat :=
  if (s.hart k).status ≠ .cut then 0
  else match fetchAt s k (s.hart k).seq.pc with
    | .ok (_, w) => if isHeader w then hVhw w + 1 else 0
    | .error _ => 0

/-- A command record (R327): CKIND 0 stopped or kept, 1 parked. -/
def commandRecord (x : Command) (kind : Nat) : List Byte :=
  let cx := match x.instr with
    | .twin .. => if kind = 1 then padTo 64 x.carry else leBytes 64 0
    | _ => leBytes 64 0
  leBytes 8 (x.raw.getD (encode x.instr)).toNat ++ leBytes 8 x.va.toNat ++ leBytes 8 x.vb.toNat ++ leBytes 8 x.vc.toNat
    ++ leBytes 4 x.fmt.toNat ++ leBytes 1 x.vtype.toNat ++ leBytes 27 0
    ++ leBytes 1 x.eng ++ leBytes 1 (x.key % 16) ++ leBytes 1 kind ++ [0]
    ++ leBytes 2 (if x.eng = 2 then x.window else 0) ++ leBytes 2 0 ++ leBytes 8 0 ++ leBytes 48 0 ++ cx

/-- The command record of a follow-on command whose slot the cut does not free: its record, to be issued again (R291, log entry
98). -/
def followRecord (f : Follow) : List Byte :=
  f.bytes.take 37 ++ leBytes 27 0 ++ [0, (w64At f.bytes 0).field 22 4 |>.setWidth 8, 0, 0] ++ leBytes 124 0

/-- A command record of CKIND 2: a pending bit that holds an error record. -/
def pendingRecord (key : Nat) (e : BitVec 16 × Word) : List Byte :=
  leBytes 64 0 ++ leBytes 1 (key / 16) ++ leBytes 1 (key % 16) ++ [2, 0] ++ leBytes 2 0 ++ leBytes 2 e.1.toNat
    ++ leBytes 8 e.2.toNat ++ leBytes 48 0 ++ leBytes 64 0

/-- The commands that a cut has stopped or kept, in the run order in which they stood (R291). -/
def Core.keptCommands (c : Core) : List Command :=
  c.morder.filterMap fun k => match c.slot k with
    | some x => if x.stage = .kept then some x else none
    | none => none

/-- The parked commands. -/
def Core.parkedCommands (c : Core) : List Command :=
  c.slots.filterMap fun e => match e.2 with
    | some x => if x.stage = .parked then some x else none
    | none => none

/-- The pending bits that hold an error record. -/
def Core.pendingErrors (c : Core) : List (Nat × (BitVec 16 × Word)) :=
  c.pending.filterMap fun e => match e.2 with
    | some (some r) => some (e.1, r)
    | _ => none

/-- The terms that travel: enabled, and naming the slot of a parked command (R296). -/
def Core.savedTerms (c : Core) : List (Nat × Word) :=
  let ks := c.parkedCommands.map Command.key
  (List.range 16).filterMap fun n =>
    let t := Table.get 0 c.truss n
    if termEn t && ks.contains (termKey t) then some (n, t) else none

/-- The temporal state (R327). -/
def temporalBytes (t : Temporal) : List Byte :=
  pad64 ((List.range 4096).map (Table.get 255 t.d) ++ (List.range 64).map (Table.get 255 t.x) ++ leBytes 8 t.ren.toNat
    ++ (List.range 64).map (Table.get 255 t.y))

/-- A tile record (R327). -/
def tileRecord (n : Nat) (t : Tile) : List Byte :=
  leBytes 1 n ++ leBytes 1 t.rmode ++ leBytes 2 0 ++ leBytes 4 t.rstep ++ leBytes 4 t.rk ++ leBytes 4 t.rfmt.toNat
    ++ leBytes 48 0 ++ imageHeader t
    ++ ((List.range 256).flatMap fun i => (List.range 128).flatMap fun j => leBytes 4 (t.at_ i j))

/-- The vestibule contents of one direction: its bytes and its valid bits; a void direction's are zero (R361). -/
def vestibuleBytes (c : Core) (d : Nat) : List Byte :=
  let n := c.grantBytes d
  let base := 0x800000 * (d + 1)
  if n = 0 then []
  else if c.void.getLsbD d then pad64 (List.replicate (n + n / 32) 0)
  else pad64 ((List.range n).map (fun i => BitVec.ofNat 8 (c.poolRead (base + i) 1))
    ++ bitBytes (n / 4) fun w => Table.get false c.valid (base / 4 + w))

/-! ## The whole image -/

/-- The header (R327). -/
def imageHeadBytes (c : Core) (t : Task) (temp wide : Bool) (size nv ncmd nterm : Nat) : List Byte :=
  let pend := (List.range 3).flatMap fun e => bitBytes 16 fun k => (Table.get none c.pending (slotKey e k)).isSome
  leBytes 2 1 ++ leBytes 1 t.gang ++ leBytes 1 ((if wide then 1 else 0) + if temp then 2 else 0) ++ leBytes 4 size
    ++ leBytes 8 t.n ++ leBytes 8 t.record.toNat ++ ((List.range 6).flatMap fun j => leBytes 8 (t.x.getD j 0).toNat)
    ++ leBytes 4 t.partw.toNat ++ leBytes 1 nv ++ leBytes 1 ((List.range 64).filter c.used.getLsbD).length
    ++ leBytes 1 ncmd ++ leBytes 1 nterm ++ leBytes 8 c.used.toNat ++ pend ++ leBytes 2 0
    ++ ((List.range 4).flatMap fun d => leBytes 4 (c.grantBytes d)) ++ leBytes 144 0

/-- The context image of a core's task (R327). -/
def contextImage (s : State) (core : Nat) (t : Task) (temp : Bool) : List Byte :=
  let c := s.core core
  let g := c.grant
  let members := (List.range t.gang).map (4 * core + ·)
  let nv := members.foldl (fun m k => max m (s.resumeRegs k)) 0
  let harts := members.flatMap fun k =>
    let h := s.hart k
    hartRecord h g nv (if h.status = .finished then 1 else 0) (if h.status = .finished then h.seq.blk else h.seq.pc) 0
  let bars := ((List.range 64).filter c.used.getLsbD).flatMap fun n =>
    leBytes 8 (c.barAt n).word.toNat ++ leBytes 8 (c.barAt n).faddr.toNat
  let cmds := c.keptCommands.map (commandRecord · 0) ++ c.parkedCommands.map (commandRecord · 1)
    ++ (c.pendingErrors.map fun p => pendingRecord p.1 p.2) ++ c.follows.map followRecord
  let terms := c.savedTerms
  let body := harts ++ pad64 bars ++ cmds.flatten ++ pad64 (terms.flatMap fun p => leBytes 8 p.1 ++ leBytes 8 p.2.toNat)
    ++ (if temp then temporalBytes c.temporal else [])
    ++ ((List.range (agran t.partw / 2)).flatMap fun n => tileRecord n (c.tile n))
    ++ (List.range 4).flatMap (vestibuleBytes c)
  imageHeadBytes c t temp (wideOf g.vtype) (256 + body.length) nv cmds.length terms.length ++ body

/-- The vestibule words of a direction that are poisoned. -/
def Core.badGrant (c : Core) (d : Nat) : Bool :=
  let base := 0x800000 * (d + 1) / 4
  !c.void.getLsbD d && c.poolPoison.any fun e => e.2 && base ≤ e.1 && e.1 < base + c.grantBytes d / 4

/-- What the image is to hold of a core cannot be read: a register, a tile or a vestibule word holds an uncorrectable error
(R383). -/
def imageBad (s : State) (core : Nat) (t : Task) : Bool :=
  let c := s.core core
  let members := (List.range t.gang).map (4 * core + ·)
  let nv := members.foldl (fun m k => max m (s.resumeRegs k)) 0
  (members.any fun k => (s.hart k).vec.v.any fun e => e.1 < 16 * nv && e.2.poison ≠ 0)
    || ((List.range (agran t.partw / 2)).any fun n => !(c.tile n).poison.isEmpty)
    || (List.range 4).any c.badGrant

/-! ## Loading (R346) -/

/-- The places of the hart records, and of what follows them. -/
def hartOffsets (bs : List Byte) : Nat → Nat → List Nat × Nat
  | 0, o => ([], o)
  | n + 1, o =>
    let r := hartOffsets bs n (o + leAt bs o 8)
    (o :: r.1, r.2)

/-- A bit of a list of bytes. -/
def bitAt (bs : List Byte) (o i : Nat) : Bool := (bs.getD (o + i / 8) 0).getLsbD (i % 8)

/-- The vector registers of a hart record at `o`. -/
def loadVec (bs : List Byte) (o nv : Nat) (wide : Bool) : Vec :=
  let sb := sliceBytes wide
  let marks := o + 5120 + nv * 16 * sb
  let slice (k : Nat) : Slice :=
    { bits := BitVec.ofNat 1024 (leAt bs (o + 5120 + k * sb) sb), full := bitAt bs (marks + 4 * (k / 16)) (k % 16),
      taint := bitAt bs (marks + 4 * (k / 16) + 2) (k % 16) }
  { v := (List.range (16 * nv)).foldl (fun t k => Table.set {} t k (slice k)) [],
    m := (List.range 7).foldl (fun t m => Table.set 0 t (m + 1) (BitVec.ofNat 2048 (leAt bs (o + 656 + 256 * m) 256))) [] }

/-- The deferral entries of a hart record at `o`. -/
def loadDefer (bs : List Byte) (o nv : Nat) (wide : Bool) : List DeferEntry :=
  let at_ := o + 5120 + nv * 16 * sliceBytes wide + up64 (4 * nv)
  (List.range (leAt bs (o + 30) 2)).map fun i =>
    { vals := (List.range (min 4 (leAt bs (at_ + 40 * i) 8))).map fun j => w64At bs (at_ + 40 * i + 8 + 8 * j) }

/-- The sequencer state of a hart record at `o`. -/
def loadSeq (bs : List Byte) (o : Nat) : Seq :=
  let k := leAt bs (o + 48) 8
  let rpc := w64At bs (o + 8)
  { pc := rpc, blk := rpc,
    s := (List.range 31).foldl (fun t r => Table.set 0 t (r + 1) (w64At bs (o + 64 + 8 * (r + 1)))) [],
    sTaint := BitVec.ofNat 32 (leAt bs (o + 40) 8),
    loops := (List.range (min 6 (k % 8))).map fun j =>
      ⟨w64At bs (o + 384 + 24 * j), w64At bs (o + 392 + 24 * j), w64At bs (o + 400 + 24 * j)⟩,
    rets := ((List.range (min 16 (k / 2 ^ 7 % 32))).map fun j => w64At bs (o + 528 + 8 * j)).reverse,
    rspill := k / 2 ^ 16 % 2 ^ 24,
    masks := ((List.range (min 8 (k / 2 ^ 12 % 16))).map fun j =>
      maskEntryOf ((bs.drop (o + 2448 + 320 * j)).take 320)).reverse,
    mspill := k / 2 ^ 40,
    f := (List.range 8).foldl (fun t r => Table.set 0xAAAA0000 t r (BitVec.ofNat 32 (leAt bs (o + 320 + 4 * r) 4))) [] }

/-- A restored hart: its record over the values of a task start, which the registers that no image holds take (log entry
24). -/
def loadHart (h : Hart) (bs : List Byte) (o nv : Nat) (wide : Bool) : Hart :=
  { h with
    status := if leAt bs (o + 29) 1 = 1 then .finished else .running, seq := loadSeq bs o, vec := loadVec bs o nv wide,
    vflags := BitVec.ofNat 32 (leAt bs (o + 32) 4), rspbase := w64At bs (o + 352), wcount := w64At bs (o + 16),
    defer := loadDefer bs o nv wide }

/-- A barrier from its record (R236). -/
def loadBarrier (bs : List Byte) (o : Nat) : Barrier :=
  let w := leAt bs o 8
  { fcode := BitVec.ofNat 16 (w / 2 ^ 48), err := w / 2 ^ 33 % 2 = 1, phase := w / 2 ^ 32 % 2 = 1,
    expect := w / 2 ^ 16 % 4096, arrived := w % 4096, faddr := w64At bs (o + 8) }

/-- The hart that a restored command delivers to: the image does not name it, and it is the first of the gang whose
destination registers are all empty, or else the first hart (log entry 24). -/
def ownerHart (s : State) (core gang : Nat) (regs : List Nat) : Nat :=
  let empty (k : Nat) : Bool := regs.all fun r => (List.range 16).all fun l => !((s.hart k).vec.slice r l).full
  (((List.range gang).map (4 * core + ·)).find? empty).getD (4 * core)

/-- The command of a record at `o`, or none where its word is no engine command. -/
def loadCommand (s : State) (core : Nat) (t : Task) (bs : List Byte) (o : Nat) : Option Command :=
  let word := match decode (w64At bs o) with
    | .ok i => some i
    | .error _ => match decode (followWord (bs.drop o)) with
      | .ok i => some i
      | .error _ => none
  match word with
  | none => none
  | some i => match cmdInfo i with
    | none => none
    | some _ =>
      let x : Command :=
        { instr := i, va := w64At bs (o + 8), vb := w64At bs (o + 16), vc := w64At bs (o + 24),
          fmt := BitVec.ofNat 32 (leAt bs (o + 32) 4), vtype := BitVec.ofNat 32 (leAt bs (o + 36) 1), vl := 0,
          window := leAt bs (o + 68) 2, hart := 4 * core, handler := false, asid := t.asid, ptroot := t.ptroot,
          stage := .parked, raw := some (w64At bs o), carry := match i with
            | .twin .. => (bs.drop (o + 128)).take 64
            | _ => [] }
      some { x with hart := ownerHart s core t.gang x.regs, tok := 64 * s.freeCount + x.key }

/-- Place one command record: a stopped or kept one is issued under R232, for which it waits while its slot is taken; a parked one
is parked (R291, R296). -/
def placeRecord (s : State) (core : Nat) (t : Task) (bs : List Byte) (o : Nat) : State :=
  let c := s.core core
  if leAt bs (o + 66) 1 = 2 then
    let key := slotKey (leAt bs (o + 64) 1) (leAt bs (o + 65) 1)
    let e := (BitVec.ofNat 16 (leAt bs (o + 70) 2), w64At bs (o + 72))
    s.setCore core { c with pending := Table.set none c.pending key (some (some e)) }
  else match loadCommand s core t bs o with
    | none => s
    | some x =>
      let s := match x.sreg with
        | some r => s.setHart x.hart { s.hart x.hart with seq := (s.hart x.hart).seq.await x.tok r }
        | none => s
      if leAt bs (o + 66) 1 = 1 then s.setCore core (c.setSlot x.key (some x))
      else if (c.slot x.key).isSome then
        s.setCore core { c with follows := c.follows ++ [⟨(bs.drop o).take 64, x.hart, x.handler, x.asid, x.ptroot⟩] }
      else match matrixChecks x (w64At bs o) (agran t.partw) (s.regsOf x.hart) with
        | .error e => let r := followFault (w64At bs o) e; errorArrival s core x.bar r.1 r.2 .matrix
        | .ok _ => placeCommand s core false x

/-- Fold over the records of a section. -/
def overRecords (f : State → Nat → State) (s : State) (o step n : Nat) : State :=
  (List.range n).foldl (fun s i => f s (o + step * i)) s

/-- The vestibule contents of a direction, from byte `o`. -/
def loadVestibule (c : Core) (bs : List Byte) (d o : Nat) : Core :=
  let n := c.grantBytes d
  let base := 0x800000 * (d + 1)
  (List.range (n / 4)).foldl (fun c w =>
    if bitAt bs (o + n) w then
      { c with valid := Table.set false c.valid (base / 4 + w) true,
               pool := Memory.store c.pool (base + 4 * w) 4 (leAt bs (o + 4 * w) 4) }
    else c) c

/-- The bytes that a direction's contents take in an image. -/
def vestibuleLen (c : Core) (d : Nat) : Nat := up64 (c.grantBytes d + c.grantBytes d / 32)

/-- A tile from its record at `o`. -/
def loadTile (bs : List Byte) (o : Nat) : Nat × Tile :=
  (leAt bs o 1, { tileOfImage ((bs.drop (o + 64)).take 131136) with
    rmode := leAt bs (o + 1) 1 % 16, rstep := leAt bs (o + 4) 4, rk := leAt bs (o + 8) 4,
    rfmt := BitVec.ofNat 32 (leAt bs (o + 12) 4) })

/-- The temporal state from byte `o`. -/
def loadTemporal (bs : List Byte) (o : Nat) : Temporal :=
  let put (a n : Nat) : Table Byte := (List.range n).foldl (fun m k => Table.set 255 m k (bs.getD (a + k) 0)) []
  { d := put o 4096, x := put (o + 4096) 64, ren := w64At bs (o + 4160), y := put (o + 4168) 64 }

/-- Load an image into a core whose inputs have been staged: its harts run, and its terms are then evaluated once, in
ascending number (R296, R346). -/
def loadImage (s : State) (core : Nat) (t : Task) (l : Launch) (bs : List Byte) : State :=
  let nv := leAt bs 76 1
  let wide := bitAt bs 3 0
  let ho := hartOffsets bs t.gang 256
  let ncmd := leAt bs 78 1
  let nterm := leAt bs 79 1
  let used := w64At bs 80
  let bars := (List.range 64).filter used.getLsbD
  let cmdAt := ho.2 + up64 (16 * bars.length)
  let termAt := cmdAt + 192 * ncmd
  let tempAt := termAt + up64 (16 * nterm)
  let tileAt := tempAt + if bitAt bs 3 1 then 4288 else 0
  let ntile := agran t.partw / 2
  let o := (ho.1.head?).getD 256
  let grant : Grant := { vtype := BitVec.ofNat 32 (leAt bs (o + 28) 1), vl := leAt bs (o + 24) 4 }
  let s := startTask s core t l
  let s := ho.1.zipIdx.foldl (fun s p => s.setHart (4 * core + p.2) (loadHart (s.hart (4 * core + p.2)) bs p.1 nv wide)) s
  let c := { s.core core with grant := grant, used := used }
  let c := bars.zipIdx.foldl (fun c p => c.setBar p.1 (loadBarrier bs (ho.2 + 16 * p.2))) c
  let c := (List.range 48).foldl (fun c k =>
    if bitAt bs 88 k then { c with pending := Table.set none c.pending k (some none) } else c) c
  let c := if bitAt bs 3 1 then { c with temporal := loadTemporal bs tempAt } else c
  let c := (List.range ntile).foldl (fun c i => let p := loadTile bs (tileAt + 131200 * i); c.setTile p.1 p.2) c
  let c := (List.range 4).foldl (fun (p : Core × Nat) d => (loadVestibule p.1 bs d p.2, p.2 + vestibuleLen p.1 d))
    (c, tileAt + 131200 * ntile) |>.1
  let s := overRecords (placeRecord · core t bs) (s.setCore core c) cmdAt 192 ncmd
  let s := overRecords (fun s o =>
    s.setCore core { s.core core with truss := Table.set 0 (s.core core).truss (leAt bs o 8 % 16) (w64At bs (o + 8)) })
    s termAt 16 nterm
  overRecords (fun s o => fireTerm s core (leAt bs o 8 % 16)) s termAt 16 nterm

end Sys2Proof.Machine
end

