-- ==== Sys2Proof/Machine/LaneEvents.lean ====
section
/-! DEFINITION. The events of the lanes and of the retire point (R127, R128, R130, R184, R185, R206, R248 to R261), for a
hart whose words go through the window (log entry 7). An event that is not enabled leaves the state as it is. -/

namespace Sys2Proof.Machine

/-! ## The window -/

/-- The scalar that it gives. -/
def InFlight.scalarResult (f : InFlight) (x : Option (SReg × Word × Bool)) : Option (SReg × Word × Bool) :=
  match f.undef with
  | none => x
  | some key => x.map fun r => (r.1, (Config.modeResult key (2 ^ 19)).setWidth 64, r.2.2)

/-- The flags that it raises. -/
def InFlight.flagResult (f : InFlight) (fl : BitVec 32) : BitVec 32 :=
  match f.undef with
  | none => fl
  | some key => (Config.modeResult key (2 ^ 20)).setWidth 32 &&& 0x1F

/-- The data of an element that it stores or combines. -/
def InFlight.heldResult (f : InFlight) (n : Nat) (x : HeldStore) : HeldStore :=
  match f.undef with
  | none => x
  | some key => { x with val := (Config.modeResult key (2 ^ 21 + 2 * x.e)).toNat % 2 ^ (8 * n),
                         val2 := (Config.modeResult key (2 ^ 21 + 2 * x.e + 1)).toNat % 2 ^ (8 * n) }

/-- Replace the word at place `n`. -/
def Hart.setInFlight (h : Hart) (n : Nat) (f : InFlight) : Hart := { h with window := h.window.set n f }

/-- Replace one lane's record. -/
def InFlight.setLane (f : InFlight) (l : Nat) (r : LaneRec) : InFlight := { f with lanes := f.lanes.set l r }

/-- Which elements need a slice of one lane depends on what other lanes hold: their parts of the masks, and the indices of
VPERM. -/
def crossLane (j : Job) : Bool :=
  match j with
  | .perm .. | .slide .. => true
  | j => (operands j).any fun o => o.dir ≠ .row

/-- The registers whose slices lane `l` reads for an instruction. -/
def laneReads (i : LaneInstr) (v : View) (l : Nat) : List Nat :=
  (match i.job with
   | .vfeTest _ reg => [reg]
   | .mem (.prefetch _) .. => indexRegs i
   | _ => []) ++ ((needs i v).filter fun n => readerLane i n = l).map Need.reg

/-- The registers that say which slices an instruction needs. -/
def crossReads (i : LaneInstr) : List Nat :=
  match i.job with
  | .perm _ _ vb => if vb.dir = .row then [vb.idx.toNat] else List.range i.vl
  | _ => []

/-- The lane instruction at place `n` is ready in lane `l`: its sources are settled, of a rendezvous those that the lane itself
reads (R253, R258), and no older instruction has faulted there (R260). -/
def Hart.depsOk (h : Hart) (n l : Nat) (i : LaneInstr) : Bool :=
  let v := h.viewAt n i
  let masks := i.mask :: jobMaskSources i.job
  (h.window.take n).all fun f =>
    !f.blocks (laneReads i v l) [] (some l) && !f.blocks (crossReads i) [] none
      && !f.blocks [] masks (if crossLane i.job then none else some l) && ((f.lane l).stage.bad).isNone

/-- The lane's oldest unissued instruction: its place, and the instruction; none behind an engine marker that has reached the
head of the lane's queue (R253). -/
def Hart.candidate (h : Hart) (l : Nat) : Option (Nat × LaneInstr) :=
  (h.window.zipIdx.find? fun p => p.1.broadcast && !p.1.lanes.isEmpty && (p.1.lane l).stage = .queued).bind fun p =>
    p.1.li.map fun i => (p.2, i)

/-! ## Broadcast (R248, R249) -/

/-- The words of the window that the lanes' queues and result buffers hold. -/
def Hart.broadcasts (h : Hart) : Nat := (h.window.filter fun f => f.broadcast && !f.header && !f.lanes.isEmpty).length

/-- LANE_BROADCAST (R249): the newest word of the window enters every lane's queue; a marker takes no lane sequence number
(R248). On a running hart whose window is empty the event makes the hart's later lane instructions go through the queues (log
entry 7). -/
def execLaneBroadcast (core slot : Nat) (s : State) : Step :=
  let k := hartNo core slot
  let h := s.hart k
  match h.window.getLast? with
  | some f =>
    if f.broadcast && f.lanes.isEmpty && h.broadcasts < Config.window then
      let g := { f with lanes := List.replicate 16 {}, num := h.laneSeq }
      .next (s.setHart k { h with laneSeq := if f.li.isSome then h.laneSeq + 1 else h.laneSeq,
                                  window := h.window.dropLast ++ [g] })
    else .next s
  | none => .next (if h.status = .running then s.setHart k { h with slip := true } else s)

/-! ## Issue (R254, R255, R301) -/

/-- The words of a window whose requests in lane `l` fill up to `room` more, oldest first. -/
def fillRequests (l : Nat) : Nat → List InFlight → Nat × List InFlight
  | room, [] => (room, [])
  | room, f :: t =>
    let r := f.lane l
    let more := min room (r.todo.length - r.sent)
    let rest := fillRequests l (room - more) t
    (rest.1, (if more = 0 then f else f.setLane l { r with sent := r.sent + more }) :: rest.2)

/-- The lane requests further elements of the instructions that it has issued, up to its cap (R301); a held island makes none
(R299, R300). -/
def topUp (s : State) (core l : Nat) : State :=
  if (s.core core).laneHeld s.clock l then s
  else
    ((List.range 4).foldl (fun (p : Nat × State) slot =>
      let k := hartNo core slot
      let h := p.2.hart k
      let w := fillRequests l p.1 h.window
      (w.1, p.2.setHart k { h with window := w.2 })) ((s.core core).cap l - outstanding s core l, s)).2

/-- The place of a hart's instruction that lane `l` could issue now as the given kind (R254). -/
def readyAt (s : State) (core slot l : Nat) (memory : Bool) : Option Nat :=
  let h := s.hart (hartNo core slot)
  match h.candidate l with
  | some (n, i) =>
    let v := h.viewAt n i
    if !(s.core core).laneHeld s.clock l && isMemKind i.job = memory && h.depsOk n l i && !(emptyLanes i v false).contains l
        && (!memory || outstanding s core l < (s.core core).cap l) then some n
    else none
  | none => none

/-- The last issue of each slot's instructions of a kind in a lane, counted in the lane's issues; 0 for none (R255). -/
def Core.issues (c : Core) (l : Nat) (memory : Bool) : List Nat :=
  Table.get [0, 0, 0, 0] c.lastIssue (2 * l + if memory then 1 else 0)

/-- Of some slots, the one that has gone longest without an issue; the rotating pointer breaks a tie (R255, log entry 73). -/
def longestWait (last : List Nat) (pointer : Nat) (ks : List Nat) : Option Nat :=
  let least := (ks.map fun k => last.getD k 0).min?
  match ks.filter fun k => some (last.getD k 0) = least with
  | [k] => some k
  | tied => match tied.find? (pointer % 4 ≤ ·) with
    | some k => some k
    | none => tied.head?

/-- The hart that a lane serves for a kind: YIELD's after the others (R130, R255). -/
def chooseHart (s : State) (core l : Nat) (memory : Bool) : Option Nat :=
  let last := (s.core core).issues l memory
  let ready := (List.range 4).filter fun k => (readyAt s core k l memory).isSome
  let pick := longestWait last (Config.issuePointer s.freeCount)
  match pick (ready.filter fun k => (s.hart (hartNo core k)).yield = 0) with
  | some k => some k
  | none => pick ready

/-- Lane `l` carries out its part of an instruction that works element by element: the record, and a scalar result
(R252, R256). -/
def issueArith (i : LaneInstr) (v : View) (l : Nat) : LaneRec × Option (SReg × Word × Bool) :=
  match elemLane i.job with
  | some e =>
    if e = l then
      let x := wholeResult i v
      ({ stage := .finished, writes := x.writes, flags := x.flags }, x.scalar)
    else ({ stage := .finished }, none)
  | none =>
    let es := laneElems i v l
    let x := elemResults i v es
    ({ stage := .finished, writes := x.1, flags := x.2, done := es.foldl (fun m e => setBit m e true) 0 }, none)

/-- Lane `l` issues the instruction at place `n` of a hart. -/
def issueAt (s : State) (k n l : Nat) : State :=
  let h := s.hart k
  match h.window[n]? with
  | none => s
  | some f => match f.li with
    | none => s
    | some i =>
      let v := h.viewAt n i
      let put (s : State) (r : LaneRec) : State := s.setHart k ((s.hart k).setInFlight n (f.setLane l r))
      match (badReads s k i v).find? fun b => b.1 = l with
      | some b => put s { stage := .faulted b.2 }
      | none =>
      if isRendezvous i.job || isWhole i.job then put s { stage := .arrived }
      else if isMem i.job then
        match i.job with
        | .mem (.prefetch _) .. =>
          let others := (i.actives v).foldl (fun m e => if e % 16 = l then m else setBit m e true) i.skip
          put (prefetchAll s k { i with skip := others } v) { stage := .finished }
        | _ =>
          let es := laneElems i v l
          put s { stage := if es.isEmpty then .finished else .issued, todo := es }
      else
        let x := issueArith i v l
        let s1 := put s x.1
        match f.scalarResult x.2 with
        | some (r, w, t) => s1.setHart k ((s1.hart k).bind f.tok r w t)
        | none => s1

/-- LANE_ISSUE (R254): one lane issues one arithmetic or one memory instruction, or requests further elements. -/
def execLaneIssue (core lane : Nat) (memory : Bool) (s : State) : Step :=
  let more (s : State) : State := if memory then topUp s core lane else s
  match chooseHart s core lane memory with
  | none => .next (more s)
  | some slot =>
    match readyAt s core slot lane memory with
    | none => .next (more s)
    | some n =>
      let s1 := issueAt s (hartNo core slot) n lane
      let c := s1.core core
      let last := c.issues lane memory
      let key := 2 * lane + if memory then 1 else 0
      let stamp := last.foldl max 0 + 1
      .next (more (s1.setCore core
        { c with lastIssue := Table.set [0, 0, 0, 0] c.lastIssue key (last.set slot stamp) }))

/-! ## Element accesses (R183 to R189) -/

/-- The first outstanding element access of lane `l` of the word at place `n` completes or faults (R189), or none where it must
wait: for an older access to the same bytes, or of the same lane and stream (R184, R316), for a line that an engine owns (R320),
or, in host or peer memory, for the retire point (R185). A store-class element is held once it has passed its checks. What a
load writes to the warning ring is held with its result. One that the stacks keep back is passed over unless `late` (R368). -/
def elementAccess (s : State) (k l : Nat) (late : Bool) (n : Nat) (f : InFlight) (i : LaneInstr) : Option State :=
  let h := s.hart k
  let r := f.lane l
  match r.todo, r.sent with
  | e :: rest, left + 1 =>
    let v := h.viewAt n i
    let a := elemAddr i v e
    let kd := elemKind i.job
    let put (s : State) (r : LaneRec) : Option State := some (s.setHart k ((s.hart k).setInFlight n (f.setLane l r)))
    let on := { r with stage := if rest.isEmpty then LaneStage.finished else .issued, todo := rest, sent := left,
                       done := setBit r.done e true }
    let bad (x : AccFault) := { r with stage := .faulted x, todo := [], sent := 0 }
    if !s.mayAccess k n (if isStoreClass i.job then 18 else l) i.strm a kd.2.1 || s.recalled (s.whoHart k) kd.1 a kd.2.1
        || (!late && s.busWaits (s.whoHart k) kd.1 a kd.2.1) then none
    else match checkAccess s (s.whoHart k) kd.1 a kd.2.1 kd.2.2 with
      | .error x => put (s.logFault (s.whoHart k) x h.corr) (bad x)
      | .ok (s1, p) =>
        if isStoreClass i.job then
          let d := elemData i v e
          put s1 { on with held := r.held ++ [⟨e, a, d.1, d.2⟩] }
        else if p.far && n ≠ 0 then none
        else match elemPerform s1 k i v e with
          | .error x => put (s1.logFault (s.whoHart k) x h.corr) (bad x)
          | .ok (s2, ws) =>
            put { s2 with warnings := s.warnings } { on with
              writes := r.writes ++ ws, warns := r.warns ++ s2.warnings.drop s.warnings.length }
  | _, _ => none

/-- ELEMENT_ACCESS_RESPONSE (R189): the oldest outstanding element access of the lane that may be performed. -/
def execElementAccessResponse (core slot lane : Nat) (s : State) : Step :=
  let k := hartNo core slot
  let try_ (late : Bool) := (s.hart k).window.zipIdx.findSome? fun p => p.1.li.bind fun i => elementAccess s k lane late p.2 p.1 i
  match (try_ false).or (try_ true) with
  | some s1 => .next (topUp s1 core lane)
  | none => .next s

/-- The scalar load of the word at place `n` is bound or faults, or none where it must wait as a lane's load does. -/
def scalarAccess (s : State) (k : Nat) (late : Bool) (n : Nat) (f : InFlight) (x : LateLoad) : Option State :=
  let h := s.hart k
  let who := s.whoHart k
  let far := match checkAccess s who 1 x.addr (if x.addr.toNat % x.bytes = 0 then x.bytes else 1) none with
    | .ok (_, p) => p.far
    | .error _ => false
  if !s.mayAccess k n 16 x.strm x.addr x.bytes || s.recalled who 1 x.addr x.bytes
      || (!late && s.busWaits who 1 x.addr x.bytes) || (far && n ≠ 0) then none
  else match scalarLoad s who x.addr x.bytes with
    | .error e =>
      some ((s.logFault who e h.corr).setHart k (h.setInFlight n { f with load := none, lanes := [{ stage := .faulted e }] }))
    | .ok (s1, v) =>
      let g := { f with load := none, warns := f.warns ++ s1.warnings.drop s.warnings.length }
      let h1 := (s1.hart k).setInFlight n g
      some ({ s1 with warnings := s.warnings }.setHart k (h1.bind f.tok x.sd (extendLoad x.signed x.bytes v) x.taint))

/-- SCALAR_LOAD_RESPONSE (R101): the oldest scalar load of the window that may be performed. -/
def execScalarLoadResponse (core slot : Nat) (s : State) : Step :=
  let k := hartNo core slot
  let try_ (late : Bool) := (s.hart k).window.zipIdx.findSome? fun p => p.1.load.bind fun x => scalarAccess s k late p.2 p.1 x
  .next (((try_ false).or (try_ true)).getD s)

/-! ## Discarding younger work (R260) -/

/-- The hart as it stood before the word `f`, which is the oldest of its window: younger work is discarded. The
lane sequence number goes on (R248, log entry 94). -/
def Hart.rewind (h : Hart) (f : InFlight) : Hart := { h with seq := f.before, window := [], recorded := none, wait := none }

/-! ## Rendezvous (R258) -/

/-- Every lane has arrived. -/
def InFlight.allArrived (f : InFlight) : Bool :=
  f.lanes.length = 16 && f.lanes.all fun r => r.stage = .arrived

/-- A rendezvous completes as a combined result: lane 0's record carries the changes. -/
def meetResult (s : State) (k n : Nat) (f : InFlight) (x : Whole) : State :=
  let recs : List LaneRec := { stage := .finished, writes := x.writes, flags := x.flags } ::
    List.replicate 15 { stage := .finished }
  let h := (s.hart k).setInFlight n { f with lanes := recs, met := true }
  s.setHart k (match f.scalarResult x.scalar with
    | some (r, w, t) => h.bind f.tok r w t
    | none => h)

/-- What the rendezvous at place `n` reads is there in every lane: a mask, an index or a slice that one lane reads may have been
settled after another lane arrived (R253, R149). -/
def Hart.meetReady (h : Hart) (n : Nat) (i : LaneInstr) : Bool :=
  (List.range 16).all (h.depsOk n · i) && emptyLanes i (h.viewAt n i) false = []

/-- The lanes that find, where their rendezvous would complete, that they cannot read a slice have faulted. -/
def InFlight.faultLanes (f : InFlight) (bad : List (Nat × AccFault)) : InFlight :=
  { f with lanes := f.lanes.zipIdx.map fun p => match bad.find? fun b => b.1 = p.2 with
      | some b => { p.1 with stage := .faulted b.2 }
      | none => p.1 }

/-- The rendezvous at place `n` completes (R258), or none where it cannot yet: one that acts on memory or on the deferral queue
as a whole waits until it is the oldest word. A prefetch makes no access (R196). A lane whose island is held completes none (R299,
R300), and one whose requests stand at its cap makes no access (R301). -/
def meet (s : State) (core k n : Nat) (f : InFlight) (i : LaneInstr) : Option State :=
  let h := s.hart k
  let v := h.viewAt n i
  let bad := badReads s k i v
  if !f.allArrived || lanesHeld s core i.job || !h.meetReady n i then none
  else if !bad.isEmpty then some (s.setHart k (h.setInFlight n (f.faultLanes bad)))
  else match i.job with
  | .mem (.prefetch _) .. => some (meetResult (prefetchAll s k i v) k n f { writes := [] })
  | _ =>
    if isMem i.job then
      let recs := (List.range 16).map fun l =>
        let es := laneElems i v l
        ({ stage := if es.isEmpty then .finished else .issued, todo := es } : LaneRec)
      let s1 := s.setHart k (h.setInFlight n { f with lanes := recs, met := true })
      some ((List.range 16).foldl (fun s l => topUp s core l) s1)
    else if isWhole i.job then
      if n ≠ 0 || laneRecalled s k i v then none
      else
        let r := actWhole s k i v
        match laneTrap i (liveFaults r.s core r.bad) r.done with
        | some t =>
          let h1 := ((r.s.hart k).rewind f).absorb (f.results r.writes) 0 (f.scalarResult r.scalar)
          some (takeTrap (r.s.setHart k h1) k { t with append := h1.appendResume.isSome } ⟨i.vtype, i.vl⟩)
        | none => some (meetResult r.s k n f { writes := r.writes, scalar := r.scalar })
    else some (meetResult s k n f (wholeResult i v))

/-- RENDEZVOUS_COMPLETE (R258): the oldest instruction at which all lanes have arrived and that can complete. -/
def execRendezvousComplete (core slot : Nat) (s : State) : Step :=
  let k := hartNo core slot
  match (s.hart k).window.zipIdx.findSome? fun p => p.1.li.bind fun i => meet s core k p.2 p.1 i with
  | some s1 => .next s1
  | none => .next s

/-! ## Retirement (R185, R251, R252, R257) -/

/-- Perform one held element (R185), checked as memory, leases and windows stand now: the state, and what it writes to the
destination. -/
def performHeld (s : State) (k : Nat) (i : LaneInstr) (v : View) (x : HeldStore) : Except AccFault (State × List VWrite) :=
  let w := (s.whoHart k).on i.strm
  match i.job with
  | .mem (.atomic op true) _ _ mw _ _ =>
    match postAtomic s k i.strm op x.addr mw x.val with
    | .error f => .error f
    | .ok s => .ok (s, [])
  | .mem (.atomic op false) ad vt mw _ _ =>
    match atomicAt s w op x.addr mw x.val x.val2 with
    | .error f => .error f
    | .ok (s, m) => .ok (s, [writeElem i vt x.e i.ew m (elemTaint i v (atomicSources op ad vt) (x.e % 16))])
  | .mem _ _ _ mw _ _ =>
    match storeAt s w x.addr mw x.val with
    | .error f => .error f
    | .ok s => .ok (s, [])
  | _ => .ok (s, [])

/-- The held element `e` of an instruction. -/
def InFlight.heldAt (f : InFlight) (e : Nat) : Option HeldStore := (f.lanes.flatMap LaneRec.held).find? fun x => x.e = e

/-- A held element meets a line that an engine owns (R320). -/
def heldRecalled (s : State) (k : Nat) (i : LaneInstr) (f : InFlight) : Bool :=
  (f.lanes.flatMap LaneRec.held).any fun x => s.recalled (s.whoHart k) (elemKind i.job).1 x.addr (elemKind i.job).2.1

/-- Perform the held elements of the oldest instruction in ascending order (R185): what they leave, with the elements done. An
element whose check now fails, under a lease or a window that has changed since, is its lane's fault (R189). -/
def releaseHeld (s : State) (k : Nat) (i : LaneInstr) (f : InFlight) : Elements :=
  let v : View := ⟨(s.hart k).vec, i.dead, i.deadZero⟩
  let one (s : State) (e : Nat) : Except AccFault (State × List VWrite) :=
    match f.heldAt e with
    | some x => performHeld s k i v (f.heldResult (elemKind i.job).2.1 x)
    | none => .ok (s, [])
  performElems k one ((List.range 2048).filter fun e => (f.heldAt e).isSome)
    { s := s, done := if isStoreClass i.job then i.skip else f.lanes.foldl (fun m r => m ||| r.done) i.skip }

/-- The result buffer of an instruction drains into the plane and VFLAGS (R252). -/
def Hart.drain (h : Hart) (f : InFlight) : Hart :=
  h.absorb (f.results (f.lanes.flatMap LaneRec.writes)) (f.flagResult (f.lanes.foldl (fun a r => a ||| r.flags) 0)) none

/-- The oldest instruction gives what it has done: its results, what its released elements wrote, and its warnings. -/
def drainWord (s : State) (k : Nat) (f : InFlight) (ws : List VWrite) : State :=
  let h := s.hart k
  let h1 := { h with vec := h.vec.applyAll (f.results ws) }
  { s with warnings := s.warnings ++ f.lanes.flatMap LaneRec.warns }.setHart k (h1.drain f)

/-- The grant write of a retired word is published: the hart reads the gang's grant until its next write (R251). -/
def clearOwn : List InFlight → List InFlight
  | [] => []
  | f :: t =>
    let g := { f with before := { f.before with ownGrant := none } }
    if f.publish.isSome then g :: t else g :: clearOwn t

/-- The oldest word leaves the window: the retire point passes it, and counts it unless it is a header's mask restore (R257). -/
def popWord (s0 : State) (k : Nat) (f : InFlight) : State :=
  let s := { s0 with warnings := s0.warnings ++ f.warns }
  let h := s.hart k
  let rest := h.window.drop 1
  let h1 := { h with window := rest, vflags := h.vflags ||| f.flags }
  let h2 := match f.publish with
    | none => h1
    | some _ =>
      let mine := rest.any fun g => g.publish.isSome
      { h1 with window := clearOwn rest, seq := if mine then h1.seq else { h1.seq with ownGrant := none } }
  let s1 := s.setHart k h2
  publishGrant (if f.header then s1 else retireCount s1 k) k f.publish

/-- The oldest word has been carried out in every lane or by the sequencer (R257). -/
def InFlight.retirable (f : InFlight) : Bool :=
  match f.li with
  | some _ => f.lanes.length = 16 && f.lanes.all fun r => r.stage = .finished
  | none => f.cmd.isNone && f.load.isNone && f.held.isNone && f.lanes.isEmpty

/-- The trap of the oldest word, a lane instruction with recorded faults, is taken: what its done elements gave stays, and
younger words are discarded. No element of a rendezvous that has not completed is done (R259). -/
def trapLaneWord (s : State) (k : Nat) (i : LaneInstr) (f : InFlight) : State :=
  let bad := f.lanes.zipIdx.filterMap fun p => p.1.stage.bad.map fun x => (p.2, x)
  let kept := !(isRendezvous i.job && !f.met)
  let r := if kept then releaseHeld s k i f else { s := s }
  match laneTrap i (liveFaults r.s (k / 4) (bad ++ r.bad)) r.done with
  | none => s
  | some t =>
    let s1 := if kept then drainWord r.s k f r.writes else r.s
    takeTrap (s1.setHart k ((s1.hart k).rewind f)) k t ⟨i.vtype, i.vl⟩

/-- The oldest word, one that the sequencer has executed, retires; a spill access that it holds is performed first, and where
that faults the word traps STKFLT (R111, R250). -/
def retireWord (s : State) (k : Nat) (f : InFlight) : State :=
  match f.spill with
  | none => popWord s k f
  | some (a, bs) =>
    let s0 := { s with focus := k }
    if s0.recalled (s0.whoHart k) 2 a bs.length then s
    else match spillWrite s0 a bs with
      | (s1, true) => popWord s1 k f
      | (_, false) =>
        let s1 := s0.setHart k ((s0.hart k).rewind f)
        takeTrap s1 k { fault := { cause := .stkflt, kind := 2, val := a }, epc := f.before.pc, blk := f.before.blk }
          (s1.grantOf k)

/-- RETIRE (R257): held elements are performed, and where one of them faults the instruction traps. -/
def execRetire (core slot : Nat) (s : State) : Step :=
  let k := hartNo core slot
  match (s.hart k).window with
  | [] => .next s
  | f :: _ =>
    if !f.retirable then .next s
    else match f.li with
      | none => .next (retireWord s k f)
      | some i =>
        if heldRecalled s k i f then .next s
        else
          let r := releaseHeld s k i f
          match laneTrap i (liveFaults r.s core r.bad) r.done with
          | none => .next (popWord (drainWord r.s k f r.writes) k f)
          | some t =>
            let s1 := drainWord r.s k f r.writes
            .next (takeTrap (s1.setHart k ((s1.hart k).rewind f)) k t ⟨i.vtype, i.vl⟩)

/-! ## Traps (R259 to R261) -/

/-- Every lane has finished, faulted, or arrived at a rendezvous that has not completed. -/
def InFlight.trapReady (f : InFlight) : Bool :=
  f.lanes.any (fun r => r.stage.bad.isSome) &&
    f.lanes.all fun r => r.stage = .finished || r.stage.bad.isSome || (r.stage = .arrived && !f.met)

/-- The trap of the oldest word is taken. -/
def trapHead (s : State) (k : Nat) (f : InFlight) : State :=
  match f.li with
  | none =>
    match (f.lane 0).stage.bad with
    | none => s
    | some x =>
      let s1 := s.setHart k ((s.hart k).rewind f)
      takeTrap s1 k { fault := x, epc := f.before.pc, blk := f.before.blk } (s1.grantOf k)
  | some i => trapLaneWord s k i f

/-- TAKE_TRAP (R132, R260): an abort condition that stands when the trap is due aborts the task (R261). -/
def execTakeTrap (core slot : Nat) (s : State) : Step :=
  let k := hartNo core slot
  let h := s.hart k
  match h.window, h.recorded with
  | [], some t => .next (takeTrap s k t (s.grantOf k))
  | f :: _, _ =>
    let aborts := s.aborts core && f.lanes.any fun r => (r.stage.bad.map AccFault.abort).getD false
    let waits := match f.li with
      | some i => heldRecalled s k i f
      | none => false
    if !f.trapReady then .next s
    else if aborts then .next (abortTask s core)
    else if waits then .next s
    else .next (trapHead s k f)
  | [], none => .next s

/-! ## Commands, waits and hints -/

/-- COMMAND_ISSUE (R206): the oldest word of the window is an engine command. -/
def execCommandIssue (core slot : Nat) (s : State) : Step :=
  let k := hartNo core slot
  match (s.hart k).window with
  | [] => .next s
  | f :: _ => match f.cmd with
    | none => .next s
    | some x => match issueCommand s k x f.before.deadV with
      | .error (.wait _) => .next s
      | .error (.trap t) =>
        let s1 := s.setHart k ((s.hart k).rewind f)
        .next (takeTrap s1 k { t with epc := f.before.pc, blk := f.before.blk } (s1.grantOf k))
      | .ok s1 => .next (popWord s1 k f)

/-- YIELD_EXPIRY (R130). -/
def execYieldExpiry (core slot : Nat) (s : State) : Step :=
  .next (s.setHart (hartNo core slot) { s.hart (hartNo core slot) with yield := 0 })

/-- WFE_TIMEOUT (R127): the deadline has passed; the WFE completes with zero, or with the events that came before. -/
def execWfeTimeout (core slot : Nat) (s : State) : Step :=
  let k := hartNo core slot
  match (s.hart k).wait with
  | some (.wfe mask phases (some dl) sd taint) =>
    if dl ≤ s.clock then
      let s1 := { s with focus := k }
      .next (finish s1 (s1.putS sd (wfeEvents (s.core core) mask phases) taint).pass)
    else .next s
  | _ => .next s

/-- A hart waits at GBAR. -/
def atGbar (h : Hart) : Bool := h.wait = some .gbar

/-- GBAR_RELEASE (R128): every member of the gang has reached a GBAR. A member that has finished never does (R243). -/
def execGbarRelease (core : Nat) (s : State) : Step :=
  let gang := gangOf s core
  if gang.isEmpty || !gang.all (fun k => atGbar (s.hart k)) then .next s
  else .next (gang.foldl (fun s k => let s1 := { s with focus := k }; finish s1 s1.sync.pass) s)

end Sys2Proof.Machine
end

