-- ==== Sys2Proof/Machine/System.lean ====
section
/-! DEFINITION. System instructions, MAJ 16 (R120 to R138), but for BREAK, which stands with the debug unit. -/

namespace Sys2Proof.Machine

/-- The word retires and then traps: TEPC is the next word (R121). -/
def trapAfter (s : State) (f : AccFault) : Step :=
  if !s.settled then .next (s.hold .lanes)
  else
    let s1 := finish s s.pass
    .next (takeTrap s1 s1.focus { fault := f, epc := s1.cur.seq.pc, blk := s.cur.seq.blk } (s1.grantOf s1.focus))

/-- TRAP (R121). -/
def execTrap (imm12 : BitVec 12) (s : State) : Step :=
  trapAfter s { cause := .trapi, kind := 0, val := imm12.setWidth 64 }

/-- RETT (R135, R38). -/
def execRett (s : State) : Step :=
  let h := s.cur
  let vt : BitVec 32 := (h.tstat.field 0 8).setWidth 32
  let vl := (h.tstat.field 8 12).toNat
  if !h.handler then settle (privileged s)
  else if !s.settled then .next (s.hold .rett)
  else if vlmax vt < vl then settle (ill s)
  else
    let g : Grant := ⟨vt, vl⟩
    let same := wideOf vt = wideOf s.vtype
    let s1 := if same then s.writeGrant g else s.switchMode g
    let s2 := finish s1 s1 (if same then some g else none)
    let s3 := s2.setCur { s2.cur with handler := h.tstat.getLsbD 20 }
    match resumeAt s3 h.tepc h.tblk with
    | .ok s4 => .next s4
    | .error (.wait _, _) => .next (s.hold .rett)
    | .error (.trap t, s4) => .next (takeTrap (s4.logTrap t.fault) s4.focus t g)

/-! ## System registers (R137) -/

/-- A hart may read the register at task level (R137). -/
def taskReads (r : BitVec 12) : Bool :=
  !((0x020 ≤ r && r ≤ 0x024) || r = 0x027 || r = 0x028 || r = 0x041)

/-- A hart may write the register at task level (R137). -/
def taskWrites (r : BitVec 12) : Bool := r = 0x000 || r = 0x002 || (0x010 ≤ r && r ≤ 0x017) || r = 0x070

/-- STKCNT (R138). -/
def Seq.stkcnt (q : Seq) : Word :=
  BitVec.ofNat 64 (q.mspill * 2 ^ 40 + q.rspill * 2 ^ 16 + q.masks.length * 2 ^ 12 + q.rets.length * 2 ^ 7 + q.loops.length)

/-- A field of a loop entry; entries at and above LDEPTH read zero (R137). -/
def Seq.loopField (q : Seq) (k : Nat) (f : LoopEntry → Word) : Word := (q.loops[k]?.map f).getD 0

/-- The context whose quota a hart reads: its task's (R303). -/
def State.energyCtx (s : State) (k : Nat) : Context :=
  match (s.core (k / 4)).task with
  | some t => s.context t.asid
  | none => s.context (s.hart k).asid

/-- ReadSys (R137). -/
def readSys (s : State) (r : BitVec 12) : Word :=
  let h := s.cur
  let q := h.seq
  match r.toNat with
  | 0x000 => s.vtype.setWidth 64
  | 0x001 => BitVec.ofNat 64 s.vl
  | 0x002 => h.vflags.setWidth 64
  | 0x020 => h.tcause
  | 0x021 => h.tepc
  | 0x022 => h.tblk
  | 0x023 => h.tval
  | 0x024 => BitVec.ofNat 64 h.tlane
  | 0x026 => h.tvec
  | 0x027 => h.tstat
  | 0x028 => h.tscr
  | 0x030 => h.partw.setWidth 64
  | 0x031 => h.taskid
  | 0x032 => h.corr.setWidth 64
  | 0x033 => h.heatcl.setWidth 64
  | 0x040 => h.asid.setWidth 64
  | 0x041 => h.ptroot
  | 0x050 => h.rspbase
  | 0x051 => q.stkcnt
  | 0x060 => (s.energyCtx s.focus).equota
  | 0x061 => (s.energyCtx s.focus).ecount
  | 0x070 => BitVec.ofNat 64 q.twindow
  | 0x080 => h.wcount
  | 0x081 => s.ref
  | 0x090 => s.capbase
  | n =>
    if 0x010 ≤ n && n ≤ 0x017 then (h.getF (BitVec.ofNat 3 (n - 0x010))).setWidth 64
    else if 0x0A0 ≤ n && n ≤ 0x0A5 then q.loopField (n - 0x0A0) LoopEntry.idx
    else if 0x0A8 ≤ n && n ≤ 0x0AD then q.loopField (n - 0x0A8) LoopEntry.cnt
    else if 0x0B0 ≤ n && n ≤ 0x0B5 then q.loopField (n - 0x0B0) LoopEntry.hdr
    else 0

/-- The write of VTYPE: WIDE is kept, and VL is clamped to the new VLMAX (R123). -/
def vtypeWrite (g : Grant) (v : BitVec 32) : Grant :=
  let vt := (v &&& 0xFB) ||| (g.vtype &&& 4)
  ⟨vt, min g.vl (vlmax vt)⟩

/-- Change a loop entry; entries at and above LDEPTH do not change (R137). -/
def Seq.setLoop (q : Seq) (k : Nat) (f : LoopEntry → LoopEntry) : Seq :=
  match q.loops[k]? with
  | some e => { q with loops := q.loops.set k (f e) }
  | none => q

/-- WriteSys (R122, R137): reserved and read-only fields are ignored. -/
def writeSys (s : State) (r : BitVec 12) (v : Word) : State :=
  let h := s.cur
  let q := h.seq
  match r.toNat with
  | 0x000 => s.writeGrant (vtypeWrite (s.grantOf s.focus) (v.setWidth 32))
  | 0x002 => s.setCur { h with vflags := (v &&& 0x1F).setWidth 32 }
  | 0x020 => s.setCur { h with tcause := v &&& 0x3FF }
  | 0x021 => s.setCur { h with tepc := v }
  | 0x022 => s.setCur { h with tblk := v }
  | 0x023 => s.setCur { h with tval := v }
  | 0x026 => s.setCur { h with tvec := v &&& ~~~7 }
  | 0x027 => s.setCur { h with tstat := v &&& 0x1FFFFF }
  | 0x028 => s.setCur { h with tscr := v }
  | 0x050 => s.setCur { h with rspbase := v &&& ~~~63 }
  | 0x070 => s.setCur { h with seq := { q with twindow := v.toNat } }
  | n =>
    if 0x010 ≤ n && n ≤ 0x017 then
      s.setCur { h with seq := { q with f := Table.set 0xAAAA0000 q.f (n - 0x010) ((v &&& 0xFFFFFF07).setWidth 32) } }
    else if 0x0A0 ≤ n && n ≤ 0x0A5 then s.setCur { h with seq := q.setLoop (n - 0x0A0) fun e => { e with idx := v } }
    else if 0x0A8 ≤ n && n ≤ 0x0AD then s.setCur { h with seq := q.setLoop (n - 0x0A8) fun e => { e with cnt := v } }
    else if 0x0B0 ≤ n && n ≤ 0x0B5 then s.setCur { h with seq := q.setLoop (n - 0x0B0) fun e => { e with hdr := v } }
    else s

/-- The grant that a write of VTYPE makes (R123). -/
def grantWrite (s : State) (r : BitVec 12) (v : Word) : Option Grant :=
  if r = 0x000 then some (vtypeWrite (s.grantOf s.focus) (v.setWidth 32)) else none

/-- The register's access waits for older lane work: VFLAGS under R63, WCOUNT and REFCNT under R123. -/
def sysWaits (r : BitVec 12) : Bool := r = 0x002 || r = 0x080 || r = 0x081

/-- CSRW, CSRS and CSRC, given the value to write (R122). -/
def writeCsr (s : State) (sd : SReg) (r : BitVec 12) (sa : SReg) (v : Word) : Step :=
  if !(s.cur.handler || taskWrites r) then settle (privileged s)
  else if s.busy [sa] then .next (s.hold .reg)
  else if sysWaits r && !s.settled then .next (s.hold .lanes)
  else if r = 0x070 && (v = 0 || 256 < v.toNat) then settle (ill s)
  else .next (finish s ((writeSys s r v).putS sd (readSys s r) (s.taintS sa)).pass (grantWrite s r v))

/-- CSRR (R122): a counter is sampled when the word retires (R123). -/
def execCsrr (sd : SReg) (sreg : BitVec 12) (s : State) : Step :=
  if !(s.cur.handler || taskReads sreg) then settle (privileged s)
  else if sysWaits sreg && !s.settled then
    (if sreg = 0x002 then .next (s.hold .lanes) else later s (.csrr sd sreg) sd none)
  else .next (finish s ((s.putS sd (readSys s sreg) false).pass))

/-- CSRW (R122). -/
def execCsrw (sd : SReg) (sreg : BitVec 12) (sa : SReg) (s : State) : Step := writeCsr s sd sreg sa (s.getS sa)

/-- CSRS (R122). -/
def execCsrs (sd : SReg) (sreg : BitVec 12) (sa : SReg) (s : State) : Step :=
  writeCsr s sd sreg sa (readSys s sreg ||| s.getS sa)

/-- CSRC (R122). -/
def execCsrc (sd : SReg) (sreg : BitVec 12) (sa : SReg) (s : State) : Step :=
  writeCsr s sd sreg sa (readSys s sreg &&& ~~~s.getS sa)

/-! ## Order, waits and hints -/

/-- The times of the last full fences, with one at a scope now: it covers every narrower scope (R25, R314). -/
def fenceAt (l : List Nat) (scope now : Nat) : List Nat := l.zipIdx.map fun p => if p.2 ≤ scope then now else p.1

/-- How a FENCE in flight orders younger accesses (R124). One of kind REL holds back none: later stores, atomics, arrivals and
commands are performed at the retire point, after every access before them. -/
def fenceOrder (scope : BitVec 3) (kind : BitVec 2) : Option Order :=
  if kind = 2 then some (.full scope.toNat) else if kind = 1 then some .acq else none

/-- FENCE (R124): each access of this machine is performed at its home as it is executed, so once the hart's older accesses
are performed the fence is complete at every scope; until then it orders the accesses of younger words. One of kind FULL is the
first part of R40's sequence. At CORE scope and beyond one of kind REL or FULL orders the hart's earlier stores before its later
engine commands. -/
def execFence (scope : BitVec 3) (kind : BitVec 2) (s : State) : Step :=
  if !s.settled then later s (.fence scope kind) 0 none (fenceOrder scope kind)
  else
    let s1 := if 2 ≤ scope.toNat && kind ≠ 1 then s.sync else s
    let s2 := if kind = 2 then s1.setCur { s1.cur with fenced := fenceAt s1.cur.fenced scope.toNat s.freeCount } else s1
    .next (finish s s2.pass)

/-- Words that hart `k` has accessed in one of some streams count as accessed in all of them (R125, R316). -/
def State.chain (s : State) (k : Nat) (mask : BitVec 8) : State :=
  { s with wrote := s.wrote.map fun e =>
      if e.2.agent = k && e.2.strms &&& mask ≠ 0 then (e.1, { e.2 with strms := e.2.strms ||| mask }) else e }

/-- SBAR (R125): in flight it orders the younger accesses in its streams after the older ones in them. -/
def execSbar (smask : BitVec 8) (s : State) : Step :=
  if !s.settled then later s (.sbar smask) 0 none (some (.sbar smask))
  else .next (finish s (s.chain s.focus smask).pass)

/-- ASIDSW (R126). -/
def execAsidsw (sa sb : SReg) (s : State) : Step :=
  if !s.cur.handler then settle (privileged s)
  else if s.busy [sa, sb] then .next (s.hold .reg)
  else if !s.settled then .next (s.hold .lanes)
  else if (s.getS sa).field 16 48 ≠ 0 || (s.getS sb).field 0 12 ≠ 0 then settle (ill s)
  else
    let s1 := s.goto s.cur.seq.fallThrough
    .next (finish s (s1.setCur { s1.cur with asid := (s.getS sa).field 0 16, ptroot := s.getS sb }))

/-- How many phases each barrier of a core has completed. -/
def phasesOf (c : Core) : List Nat := (List.range 64).map fun n => (c.barAt n).epoch

/-- A pre-emption request stands against the core's launch (R127, R344). -/
def preempted (s : State) (core : Nat) : Bool :=
  match s.coreLaunch core with
  | some l => l.phase = .draining || l.phase = .suspended
  | none => false

/-- WFE (R127): the barriers are sampled when the wait begins; the time-out is the event WFE_TIMEOUT. -/
def execWfe (sd sa sb : SReg) (s : State) : Step :=
  if s.busy [sa, sb] then .next (s.hold .reg)
  else
    let mask := s.getS sa
    let sampled : List Nat × Option Nat := match s.cur.wait with
      | some (.wfe _ ph dl _ _) => (ph, dl)
      | _ => (phasesOf s.curCore, if s.getS sb = 0 then none else some (s.clock + (s.getS sb).toNat))
    let s := s.setCurCore (s.curCore.useAll mask)
    let ev := wfeEvents s.curCore mask sampled.1
    if ev ≠ 0 || preempted s s.curCoreNo then
      .next (finish s ((s.putS sd ev (s.taintS sa || s.taintS sb)).pass))
    else .next (s.hold (.wfe mask sampled.1 sampled.2 sd (s.taintS sa || s.taintS sb)))

/-- NOP (R121). -/
def execNop (s : State) : Step := .next (finish s s.pass)

/-- MARK (R129, R409): a trace record where a session is open for the hart's queue, otherwise nothing. -/
def execMark (sa : SReg) (imm12 : BitVec 12) (s : State) : Step :=
  if s.busy [sa] then .next (s.hold .reg)
  else
    match s.coreLaunch s.curCoreNo with
    | some l =>
      if traceOpt s l.queue 0 then
        if !s.settled then later s (.mark sa imm12) 0 none
        else .next (finish s (traceWrite s l.queue 1 (.hart (s.focus % 4)) s.curCoreNo s.cur.corr imm12.toNat
          (s.getS sa).toNat).pass)
      else .next (finish s s.pass)
    | none => .next (finish s s.pass)

/-- YIELD (R130): for the period the lanes issue the hart's instructions after every other hart's. -/
def execYield (imm12 : BitVec 12) (s : State) : Step :=
  let s1 := s.pass
  .next (finish s (s1.setCur { s1.cur with yield := if imm12 = 0 then 16 else imm12.toNat }))

/-- GBAR (R128): a gang of one passes at once; otherwise the hart waits for the event GBAR_RELEASE. -/
def execGbar (s : State) : Step :=
  if !s.settled then .next (s.hold .lanes)
  else if (gangOf s s.curCoreNo).length ≤ 1 then .next (finish s s.sync.pass)
  else .next (s.hold .gbar)

/-- The running kernel is an attested mark kernel (R131, R404). -/
def attested (s : State) (core : Nat) : Bool :=
  match s.coreLaunch core with
  | some l => l.attested && s.sealedCtx l.asid
  | none => false

/-- STAMP (R131): the work it asks for is the event STAMP_COMPLETE. -/
def execStamp (sm sa sb : SReg) (bar : BitVec 6) (s : State) : Step :=
  if !attested s s.curCoreNo then settle (privileged s)
  else if s.busy [sm, sa, sb] then .next (s.hold .reg)
  else if !s.settled then later s (.stamp sm sa sb bar) 0 none
  else
    let h := s.cur
    let l := (s.curCore.task.map Task.launch).getD 0
    let key := 64 + s.freeCount
    let req : StampReq := { core := s.curCoreNo, hart := s.focus, bar := bar.toNat, region := s.getS sa, len := s.getS sb,
                            manifest := s.getS sm, asid := h.asid, ptroot := h.ptroot, launch := l, n := h.taskid,
                            handler := h.handler, corr := ((s.launch l).map Launch.corr).getD 0, key := key }
    let s1 := s.fix s.curCoreNo
    let size := if (s.getS sa).toNat % 4096 = 0 && (s.getS sb).toNat ≤ 2 ^ 28 then (s.getS sb).toNat else 0
    let lines := (s.linesAt s.who 1 (s.getS sa) size).map fun p => (⟨s.curCoreNo, key, h.asid, p.1, p.2⟩ : Held)
    let s2 := { s1 with stamps := s1.stamps ++ [req], held := s1.held ++ lines }
    .next (finish s (s2.setCurCore (s2.curCore.use bar.toNat)).pass)

end Sys2Proof.Machine
end

