-- ==== Sys2Proof/Machine/Debug.lean ====
section
/-! DEFINITION. Trust, debug and trace: BREAK (R121, R411), TRACEON and TRACEOFF (R408, R410), precise stops (R411), the
series (R412), the debug level (R407), seal policies (R401) and attestation (R400). -/

namespace Sys2Proof.Machine

/-! ## Stopping a hart (R411) -/

/-- The queue whose session may stop the harts of a core's task, and the session: at level 2 or 3, in an unsealed context,
where the option bit was granted. -/
def State.stopSession (s : State) (core bit : Nat) : Option (Nat × Trace) :=
  match s.coreLaunch core with
  | none => none
  | some l =>
    if traceOpt s l.queue bit && 2 ≤ s.debugLevel && !s.sealedCtx l.asid then
      ((s.queue l.queue).trace).map fun t => (l.queue, t)
    else none

/-- The header at which a stopped hart stands, and the address of the next word that it retires (log entry 25). -/
def Seq.stopPlace (q : Seq) : Word × Word := if q.arriving then (q.pc, q.pc + 8) else (q.blk, q.pc)

/-- The vector registers of a stopped hart's record: those of the header that it stands at, or of its block (R327). -/
def State.stopRegs (s : State) (k : Nat) : Nat :=
  let q := (s.hart k).seq
  let own := q.vhw + 1
  if !q.arriving then own
  else match fetchAt s k q.pc with
    | .ok (_, w) => if isHeader w then hVhw w + 1 else own
    | .error _ => own

/-- The dump of a stopped hart (R411): the hart record of R327 with HSTATE 2. -/
def dumpBytes (s : State) (k : Nat) : List Byte :=
  let h := s.hart k
  let p := h.seq.stopPlace
  hartRecord h (s.core (k / 4)).grant (s.stopRegs k) 2 p.1 p.2

/-- A session stops a hart: the words ahead of the retire point are discarded, the dump is made behind the session's ring,
and a stop record is written. -/
def haltHart (s : State) (k q : Nat) (t : Trace) : State :=
  let h := s.hart k
  let h1 := match h.window with
    | f :: _ => h.rewind f
    | [] => h
  let s1 := s.setHart k { h1 with status := .halted, wait := none }
  let x := s1.queue q
  let w := whoCtx (k / 4) x.asid (s1.context x.asid).ptroot true
  let bs := dumpBytes s1 k
  let s2 := (writeRun s1 w (t.base + BitVec.ofNat 64 (32 * 2 ^ t.log)) 8 (bs.length / 8) bs).1
  let n := (((s2.core (k / 4)).task).map Task.n).getD 0
  traceWrite s2 q 8 (.hart (k % 4)) (k / 4) t.corr n h.wcount.toNat

/-- The stop that a session names for a hart: the retired-work count at which it stops. -/
def stopPoint (s : State) (k : Nat) : Option (Nat × Trace) :=
  match s.stopSession (k / 4) 4, (s.core (k / 4)).task with
  | some (q, t), some x => if t.stseq.toNat = x.n && t.sthart = k % 4 then some (q, t) else none
  | _, _ => none

/-- A hart whose WCOUNT has just reached its stop is stopped (R411). -/
def stopWhenDue (s : State) (k : Nat) : State :=
  match stopPoint s k with
  | some (q, t) => if (s.hart k).status = .running && (s.hart k).wcount.toNat = t.stwc then haltHart s k q t else s
  | none => s

/-- Let a stopped hart run. -/
def releaseHart (s : State) (k : Nat) : State :=
  if (s.hart k).status = .halted then s.setHart k { s.hart k with status := .running, lastRetire := s.clock } else s

/-- Let the stopped harts of a queue's launches run (R411). -/
def releaseQueue (s : State) (q : Nat) : State :=
  (s.harts.map Prod.fst).foldl (fun s k => if ((s.coreLaunch (k / 4)).map Launch.queue) = some q then releaseHart s k else s) s

/-- BREAK (R121): a session with CLAIM stops the hart after the word retires; otherwise BRK, TVAL the word's address. -/
def execBrk (s : State) : Step :=
  match s.stopSession s.curCoreNo 3 with
  | none => trapAfter s { cause := .brk, kind := 0, val := s.cur.seq.pc }
  | some (q, t) =>
    if !s.settled then .next (s.hold .lanes)
    else .next (haltHart (finish s s.pass) s.focus q t)

/-! ## Sessions (R408 to R410) -/

/-- The parts of TOPT that a debug level grants (R407): nothing at 0, no CLAIM and no STOP at 1. -/
def grantedOpt (level topt : Nat) : Nat := if level = 0 then 0 else if level = 1 then topt % 8 else topt

/-- The series exponent that a debug level grants. -/
def grantedSk (level sk : Nat) : Nat := if level = 0 then 0 else sk

/-- The session that a TRACEON asks for, with the parts that the level grants. -/
def sessionOf (level : Nat) (p : Packet) : Trace :=
  let b := p.bytes
  { base := BitVec.ofNat 64 (leAt b 24 8), log := leAt b 32 1, opt := grantedOpt level (leAt b 33 1),
    sk := grantedSk level (leAt b 34 1), slog := leAt b 35 1, sbase := BitVec.ofNat 64 (leAt b 40 8),
    stseq := BitVec.ofNat 64 (leAt b 48 8), sthart := leAt b 56 4, stwc := leAt b 60 4, corr := p.corr }

/-- A task of the session that has reached or passed its stop when the session opens (R411). -/
def openStop (s : State) (q : Nat) (t : Trace) (core : Nat) : State :=
  let k := hartNo core t.sthart
  match stopPoint s k, (s.core core).task with
  | some _, some x =>
    if (s.hart k).status = .idle || (s.hart k).wcount.toNat < t.stwc then s
    else if (s.hart k).status = .running && (s.hart k).wcount.toNat = t.stwc then haltHart s k q t
    else if x.canAbort then abortTask s core
    else traceWrite s q 9 .sill core t.corr x.n (s.hart k).wcount.toNat
  | _, _ => s

/-- After a step: the stops of the harts whose retired-work count has changed, or that have begun to run: what a hart brings from
its image may have passed its stop (R411). -/
def afterRetire (s0 s : State) : State :=
  (s.harts.map Prod.fst).foldl (fun s k =>
    let before := s0.hart k
    if before.status = .idle && (s.hart k).status ≠ .idle then
      match stopPoint s k with
      | some (q, t) => openStop s q t (k / 4)
      | none => s
    else if (s.hart k).wcount ≠ before.wcount || before.status = .cut then stopWhenDue s k
    else s) s

/-- The iteration that a session's stop names has already ended in a launch. -/
def stopEnded (s : State) (id : Nat) (l : Launch) (t : Trace) : Bool :=
  let n := t.stseq.toNat
  n < l.next && !(l.waiting.any fun i => i.n = n) &&
    !((s.coresOf id).any fun c => ((s.core c).task.map Task.n) = some n)

/-- The stop of a new session, for what its launches run or have run. -/
def openStops (s : State) (q : Nat) (t : Trace) : State :=
  if t.opt / 16 % 2 = 0 || s.debugLevel < 2 || s.sealedCtx (s.queue q).asid then s
  else
    let ids := s.launchesOf q
    let s1 := (ids.flatMap s.coresOf).foldl (fun s c => openStop s q t c) s
    ids.foldl (fun r id => match s.launch id with
      | some l => if stopEnded s id l t then traceWrite r q 9 .sill 0 t.corr t.stseq.toNat 0 else r
      | none => r) s1

/-- Open a session (R408): its OPEN record gives the parts granted. -/
def openTrace (s : State) (q : Nat) (p : Packet) : State :=
  let t := sessionOf s.debugLevel p
  let s1 := s.setQueue q { s.queue q with trace := some t }
  openStops (traceWrite s1 q 10 .sill 0 p.corr t.opt t.sk) q t

/-- TRACEON (R408). -/
def execTraceon (s : State) : Step :=
  takePacket s (fun p => p.opc = 6) fun s q p => openTrace (closeTrace (releaseQueue s q) q 0 false p.corr) q p

/-- TRACEOFF (R408, R410). -/
def execTraceoff (s : State) : Step :=
  takePacket s (fun p => p.opc = 7) fun s q p => closeTrace (releaseQueue s q) q 0 false p.corr

/-! ## The series (R412) -/

/-- A sample of a queue's session is due. -/
def sampleDue (s : State) (q : Nat) : Bool :=
  match (s.queue q).trace with
  | some t => t.sk ≠ 0 && s.refcnt % 2 ^ t.sk = 0 && t.latched ≠ some s.refcnt && 1 ≤ s.debugLevel && s.pstate < 2
  | none => false

/-- A count of a core's sample: the lanes' cycles and waits, L1 misses and vestibule accesses are not the model's to count (log
entry 87). -/
def sampleCount (s : State) (c k : Nat) : BitVec 32 :=
  if k < 5 then Config.seriesCount s.freeCount (16 * c + k) else Table.get 0 (s.core c).counters k

/-- The 64 bytes of one core's sample. -/
def sampleBytes (s : State) (c : Nat) : List Byte :=
  leBytes 8 s.refcnt ++ leBytes 2 c ++ leBytes 2 0 ++ leBytes 4 (((s.core c).task.map fun t => t.corr.toNat).getD 0)
    ++ (List.range 12).flatMap fun k => leBytes 4 (sampleCount s c k).toNat

/-- Write the samples of every core for a queue's session. -/
def writeSamples (s : State) (q : Nat) : State :=
  let x := s.queue q
  match x.trace with
  | none => s
  | some t =>
    let w := whoCtx 0 x.asid (s.context x.asid).ptroot true
    let row := 128 * (t.samples % 2 ^ t.slog)
    let all := (List.range 128).map fun c => (t.sbase + BitVec.ofNat 64 (64 * (row + c)), sampleBytes s c)
    let s1 := s.setQueue q { x with trace := some { t with samples := t.samples + 1, latched := some s.refcnt } }
    all.foldl (fun s p => (writeRun s w p.1 8 8 p.2).1) s1

/-- The samples that are due are written (R412). -/
def writeDue (s : State) : State := ((s.queues.map Prod.fst).filter (sampleDue s)).foldl writeSamples s

/-- SERIES_SAMPLE (R412). -/
def execSeriesSample (s : State) : Step := .next (writeDue s)

/-- The reference periods, at most `n`, until a session's next sample is due. -/
def untilSample (s : State) (n : Nat) : Nat :=
  s.queues.foldl (fun m e => match (s.queue e.1).trace with
    | some t => if t.sk = 0 then m else min m (2 ^ t.sk - s.refcnt % 2 ^ t.sk)
    | none => m) n

/-! ## The debug level (R407) -/

/-- Close every session. -/
def closeAll (s : State) (reason : Nat) : State :=
  (s.queues.map Prod.fst).foldl (fun s q =>
    match (s.queue q).trace with
    | some t => closeTrace s q reason false t.corr
    | none => s) s

/-- DEBUG_LEVEL_LOWER (R407): below 2 every stopped hart resumes; at 0 every session closes with reason 3. -/
def execDebugLevelLower (level : Nat) (s : State) : Step :=
  if s.debugLevel ≤ level then .next s
  else
    let s1 := if level < 2 then (s.harts.map Prod.fst).foldl releaseHart s else s
    let s2 := if level = 0 then closeAll s1 3 else s1
    .next { s2 with debugLevel := level }

/-- The module's bring-up is still to complete (R396). -/
def State.bringUp (s : State) : Bool := s.rstBusy && (s.rstPending.map Prod.fst) = some 4

/-- The checks that the boot ROM makes of the firmware image (R399): its signature, its key, and its security version. -/
def State.firmwareOk (s : State) : Bool :=
  s.firmware.signed && s.leastVersion ≤ s.firmware.version
    && (List.range 2).any fun k => !s.revoked.getLsbD k && s.keyHashes[k]? = some s.firmware.keyHash

/-- Bring-up has stopped at its first step: no firmware of the sill runs, and nothing outside it is written (R399). -/
def State.sillStopped (s : State) : Bool := s.bringUp && !s.firmwareOk

/-- DEBUG_LEVEL_1_REQUEST (R407). -/
def execDebugLevel1Request (s : State) : Step := .next (if s.sillStopped then s else { s with debugLevel := max 1 s.debugLevel })

/-- DEBUG_TOKEN (R407): signed, and bound to the module; level 3 is refused while any policy is in force. -/
def execDebugToken (level : Nat) (signed : Bool) (module : Nat) (s : State) : Step :=
  let ok := !s.sillStopped && signed && module = s.moduleNo.toNat && (level = 2 || (level = 3 && s.policies.isEmpty))
  .next (if ok then { s with debugLevel := max level s.debugLevel } else s)

/-! ## The sill (R400, R401) -/

/-- SEAL_POLICY (R401). -/
def execSealPolicy (p : SealPolicy) (s : State) : Step :=
  let busy := (s.inFlight.any fun e => e.2.asid = p.asid) || s.sealedCtx p.asid
  .next (if s.sillStopped || p.reservedSet || busy || s.debugLevel = 3 then s else { s with policies := s.policies ++ [p] })

/-- The body of the attestation report, in the order in which R400 lists what it carries (log entry 13). -/
def reportBody (s : State) (nonce : List Byte) : List Byte :=
  leBytes 2 s.moduleNo.toNat ++ (List.range 32).map Config.romDigest
    ++ (List.range 32).map (Config.firmwareDigest s.firmware.image) ++ leBytes 4 s.firmware.version
    ++ leBytes 1 s.debugLevel ++ (s.policies.flatMap fun p => sha256 (policyBytes p)) ++ leBytes 8 s.mapGen.toNat ++ nonce

/-- SPDM_MEASUREMENT (R400): the report, signed with the identity key. The requester's nonce has 32 bytes. -/
def execSpdmMeasurement (nonce : List Byte) (s : State) : Step :=
  let b := reportBody s nonce
  if nonce.length ≠ 32 || s.sillStopped then .next s
  else .next { s with reports := s.reports ++ [b ++ (List.range 7856).map (Config.signature .identity b)] }

/-- The public part of a key of the sill. -/
def publicPart (k : Config.SillKey) : List Byte := (List.range 32).map (Config.publicKey k)

/-- The certificates of the sill's keys, Caltia's of the identity key and, once bring-up has made it, that key's of the provenance
key (R400). -/
def State.certificates (s : State) : List Byte :=
  (List.range 7856).map Config.identityCertificate ++ publicPart .identity ++
    if s.bringUp then []
    else publicPart .provenance ++ (List.range 7856).map (Config.signature .identity (publicPart .provenance))

/-- The standard measurement exchange (R400), with the certificates. -/
def standardMeasurement (s : State) (request : List Byte) : State :=
  if s.sillStopped then s
  else { s with reports := s.reports ++ [Config.spdmAnswer s.freeCount request ++ s.certificates], freeCount := s.freeCount + 1 }

end Sys2Proof.Machine
end

