-- ==== Sys2Proof/Machine/Float.lean ====
section
/-! DEFINITION. Scalar FP32 instructions, MAJ 8 (R98, R62, R63): rounding under the gang's VTYPE, flags to VFLAGS. -/

namespace Sys2Proof.Machine

/-- The rounding fields in force. -/
def State.rnd (s : State) : Rnd := rndOf s.vtype

/-- The low 32 bits of a scalar register. -/
def State.getF32 (s : State) (r : SReg) : Nat := (s.getS r).toNat % 2 ^ 32

/-- The FP32 value of a scalar register (R98, R72). -/
def State.fval (s : State) (r : SReg) : Exact := floatVal s.rnd.ftzi 10 (s.getF32 r)

/-- A flag is raised in VFLAGS (R62). -/
def State.raise (s : State) (f : Flags) : State := s.setCur { s.cur with vflags := s.cur.vflags ||| f }

/-- Write a result and raise its flags. -/
def writeFloat (s : State) (srcs : List SReg) (sd : SReg) (r : Nat × Flags) : Step :=
  if s.busy srcs then .next (s.hold .reg)
  else .next (finish s ((s.putS sd (BitVec.ofNat 64 r.1) (srcs.any s.taintS)).raise r.2).pass)

/-- An exact value and the flags of forming it, rounded once to FP32. -/
def roundF32 (r : Rnd) (x : Exact × Flags) : Nat × Flags :=
  let y := toFloat r 10 x.1
  (y.1, x.2 ||| y.2)

/-- The floating result of FCVT from a floating value: a NaN gives the default NaN without NV (R74). -/
def floatToFloat (r : Rnd) (c : Nat) (x : Exact) : Nat × Flags := toFloat r c x

/-- An integer of 64 bits as the low bits of a register. -/
def intWord (x : Int × Flags) : Nat × Flags := ((BitVec.ofInt 64 x.1).toNat, x.2)

/-- FADD (R98). -/
def execFadd (sd sa sb : SReg) (s : State) : Step :=
  writeFloat s [sa, sb] sd (roundF32 s.rnd (exAdd s.rnd (s.fval sa) (s.fval sb)))

/-- FSUB (R98). -/
def execFsub (sd sa sb : SReg) (s : State) : Step :=
  writeFloat s [sa, sb] sd (roundF32 s.rnd (exAdd s.rnd (s.fval sa) (s.fval sb).negate))

/-- FMUL (R98). -/
def execFmul (sd sa sb : SReg) (s : State) : Step :=
  writeFloat s [sa, sb] sd (roundF32 s.rnd (exMul (s.fval sa) (s.fval sb)))

/-- FFMA (R98). -/
def execFfma (sd sa sb sc : SReg) (s : State) : Step :=
  writeFloat s [sa, sb, sc] sd (roundF32 s.rnd (exFma s.rnd (s.fval sa) (s.fval sb) (s.fval sc)))

/-- The result of FMIN and FMAX: rounded under R70, without a flag (R73, R98, log entry 68). -/
def selectF32 (r : Rnd) (x : Exact) : Nat × Flags := ((toFloat r 10 x).1, 0)

/-- FMIN (R98, R73). -/
def execFmin (sd sa sb : SReg) (s : State) : Step :=
  writeFloat s [sa, sb] sd (selectF32 s.rnd (exMin (s.fval sa) (s.fval sb)))

/-- FMAX (R98, R73). -/
def execFmax (sd sa sb : SReg) (s : State) : Step :=
  writeFloat s [sa, sb] sd (selectF32 s.rnd (exMax (s.fval sa) (s.fval sb)))

/-- FCMP (R98, R26). -/
def execFcmp (cond : BitVec 4) (sd sa sb : SReg) (s : State) : Step :=
  let r := condFloats cond.toNat (s.fval sa) (s.fval sb)
  writeFloat s [sa, sb] sd (if r.1 then 1 else 0, r.2)

/-- FCVT.I64.F32 (R98, R74). -/
def execFcvtI64F32 (sd sa : SReg) (s : State) : Step :=
  writeFloat s [sa] sd (toFloat s.rnd 10 (.ofInt (s.getS sa).toInt))

/-- FCVT.U64.F32 (R98, R74). -/
def execFcvtU64F32 (sd sa : SReg) (s : State) : Step :=
  writeFloat s [sa] sd (toFloat s.rnd 10 (.ofInt (s.getS sa).toNat))

/-- FCVT.F32.I64 (R98, R74). -/
def execFcvtF32I64 (sd sa : SReg) (s : State) : Step :=
  writeFloat s [sa] sd (intWord (floatToInt s.rnd (-(2 ^ 63 : Nat)) ((2 ^ 63 : Nat) - 1) (s.fval sa)))

/-- FCVT.F32.U64 (R98, R74). -/
def execFcvtF32U64 (sd sa : SReg) (s : State) : Step :=
  writeFloat s [sa] sd (intWord (floatToInt s.rnd 0 ((2 ^ 64 : Nat) - 1) (s.fval sa)))

/-- FCVT.F32.I32 (R98, R74). -/
def execFcvtF32I32 (sd sa : SReg) (s : State) : Step :=
  writeFloat s [sa] sd (intWord (floatToInt s.rnd (-(2 ^ 31 : Nat)) ((2 ^ 31 : Nat) - 1) (s.fval sa)))

/-- FCVT.F32.BF16 (R98, R74). -/
def execFcvtF32Bf16 (sd sa : SReg) (s : State) : Step := writeFloat s [sa] sd (floatToFloat s.rnd 8 (s.fval sa))

/-- FCVT.BF16.F32 (R98, R74). -/
def execFcvtBf16F32 (sd sa : SReg) (s : State) : Step :=
  writeFloat s [sa] sd (floatToFloat s.rnd 10 (floatVal s.rnd.ftzi 8 ((s.getS sa).toNat % 2 ^ 16)))

/-- FCVT.F32.F16 (R98, R74). -/
def execFcvtF32F16 (sd sa : SReg) (s : State) : Step := writeFloat s [sa] sd (floatToFloat s.rnd 9 (s.fval sa))

/-- FCVT.F16.F32 (R98, R74). -/
def execFcvtF16F32 (sd sa : SReg) (s : State) : Step :=
  writeFloat s [sa] sd (floatToFloat s.rnd 10 (floatVal s.rnd.ftzi 9 ((s.getS sa).toNat % 2 ^ 16)))

end Sys2Proof.Machine
end

