-- ==== Sys2Proof/Machine/Fetch.lean ====
section
/-! DEFINITION. What a hart does before it runs a word: the header at the dispatch point is consumed, or the word is
fetched, decoded and checked (R29, R30, R34, R37, R41). -/

namespace Sys2Proof.Machine

/-- The last word entered into the window is a lane instruction or an engine marker that has not been broadcast (R248,
R249). -/
def unbroadcast (h : Hart) : Bool :=
  match h.window.getLast? with
  | some f => f.broadcast && f.lanes.isEmpty
  | none => false

/-- A cut stops the hart at a loop-iteration boundary (R119, R263), but not at handler level (R132). -/
def heldAtBoundary (s : State) (k : Nat) : Bool :=
  (s.hart k).seq.boundary && !(s.hart k).handler && match (s.core (k / 4)).task with
    | some t => t.phase = .cutting
    | none => false

/-- The hart makes no move in its turn; a wait that it is already in goes on. -/
def State.stall (s : State) : State := if s.cur.wait.isSome then s else s.hold .lanes

/-- A FENCE of kind FULL is in flight: a control transfer after it fetches its target when the fence is complete (R40). -/
def Hart.fencing (h : Hart) : Bool := h.window.any fun f => match f.order with
  | some (.full _) => true
  | _ => false

/-- The word at the dispatch point of hart `k`, decoded, with the state that the fetch leaves; or the step that the hart
makes instead. A block-ending instruction that is not the last word of its block traps ILL (R34). -/
def prepare (s0 : State) (k : Nat) : Except Step (Instr × State) :=
  let s := { s0 with focus := k }
  let h := s.cur
  let q := h.seq
  if h.status ≠ .running || h.recorded.isSome || heldAtBoundary s k then .error (.next s)
  else if Config.window ≤ h.inWindow || unbroadcast h then .error (.next s.stall)
  else if q.arriving then .error (settle (consumeHeader s))
  else match fetchAt s k q.pc with
    | .error f => .error (settle (fail s f))
    | .ok (s1, w) =>
      match decode w with
      | .error _ => .error (settle (fail s1 { cause := .ill, kind := 0, val := w }))
      | .ok i =>
        if i.endsBlock && q.pc ≠ q.blk + BitVec.ofNat 64 (8 * q.len) then
          .error (settle (fail s1 { cause := .ill, kind := 0, val := w }))
        else if i.endsBlock && h.fencing then .error (.next s.stall)
        else .ok (i, s1)

end Sys2Proof.Machine
end

