-- ==== Sys2Proof/Machine/ImageEvents.lean ====
section
/-! DEFINITION. The events of a cut and of a restore (R263, R291, R296, R326, R327, R344, R346). An event that is not
enabled leaves the state as it is. -/

namespace Sys2Proof.Machine

/-! ## Stage one (R119, R263, R326) -/

/-- HART_CUT_STOP: the retire point has reached the loop-iteration boundary at which the hart's dispatch has stopped. -/
def execHartCutStop (core slot : Nat) (s : State) : Step :=
  let k := hartNo core slot
  let h := s.hart k
  if h.status = .running && h.seq.arriving && h.window.isEmpty && h.recorded.isNone && heldAtBoundary s k then
    .next (s.setHart k { h with status := .cut, wait := none })
  else .next s

/-! ## Stage two (R291, R326) -/

/-- Every hart of a cut task's gang has stopped. -/
def cutStopped (s : State) (core : Nat) (t : Task) : Bool :=
  (t.phase = .cutting || t.phase = .imaging) &&
    (List.range t.gang).all fun k =>
      let st := (s.hart (hartNo core k)).status
      st = .cut || st = .finished

/-- RS of an MTILE that a cut stops after its first pass (R288). -/
def stopRs (c : Core) (x : Command) : Core :=
  match mtileArgs x.instr with
  | some a =>
    let t := c.tile a.acc.toNat
    c.setTile a.acc.toNat
      { t with rstep := x.pos, rk := x.vc.toNat, rmode := rmodeOf (mtileMode x.instr) a, rfmt := rfmtOf x.fmt }
  | none => c

/-- NOCUT of an MTILE. -/
def Command.nocut (x : Command) : Bool := ((mtileArgs x.instr).map MtileArgs.nocut).getD false

/-- What a cut does with one started matrix command, behind others of the run order (R291). -/
def cutCommand (s : State) (core : Nat) (behind : List Nat) (x : Command) : State :=
  let c := s.core core
  match x.stage with
  | .desc => if c.keeps x behind then s.setCmd core { x with stage := .kept } else s
  | .run => if c.keeps x behind then s.setCmd core { x with stage := .kept } else s
  | .starting =>
    { s.setCmd core { x with stage := .kept, quarters := 0 } with starts := s.starts.erase (core, x.quarters) }
  | .kstep =>
    if x.begun && x.nocut then s
    else
      let s1 := if x.begun then s.setCore core (stopRs c x) else s
      let s2 := (s1.release core x.key).setCmd core { x with stage := .stopping none, cut := true }
      { s2 with stops := s2.stops ++ [(core, x.quarters)] }
  | _ => s

/-- The run order under a cut, from its head. -/
def cutOrder (core : Nat) : List Nat → List Nat → State → State
  | _, [], s => s
  | behind, k :: t, s =>
    let s1 := match (s.core core).slot k with
      | some x => cutCommand s core behind x
      | none => s
    cutOrder core (behind ++ [k]) t s1

/-- CUT_STAGE_TWO (R326): once every hart has stopped, MTILEs are stopped or kept. -/
def execCutStageTwo (core : Nat) (s : State) : Step :=
  match (s.core core).task with
  | some t =>
    if cutStopped s core t then
      let s1 := setPhase s core t .imaging
      .next (cutOrder core [] (s1.core core).morder s1)
    else .next s
  | none => .next s

/-! ## The image (R327, R344) -/

/-- Everything of the core has come to rest: its commands are parked or kept, a follow-on command waits for the slot of one of
them, and nothing of it is on its way. -/
def cutQuiet (s : State) (core : Nat) : Bool :=
  let c := s.core core
  (c.follows.all fun f => (c.slot (slotKey 0 ((w64At f.bytes 0).field 22 4).toNat)).isSome) && s.arrivals.all (fun a => a.fromCore ≠ core) && c.slots.all fun e => match e.2 with
    | some x => x.stage = .parked || x.stage = .kept
    | none => true

/-- No task of a lower n of the launch is still to write its image. -/
def lowestCut (s : State) (t : Task) : Bool :=
  (s.coresOf t.launch).all fun c => match (s.core c).task with
    | some u => t.n ≤ u.n || !(u.phase = .cutting || u.phase = .imaging)
    | none => true

/-- A task that is not cut after all runs to its end: its harts resume at their boundary, and the commands that the cut
stopped or kept are issued again (R344). -/
def resumeCut (s : State) (core : Nat) (t : Task) : State :=
  let s1 := (List.range t.gang).foldl (fun s k =>
    let h := s.hart (hartNo core k)
    if h.status = .cut then s.setHart (hartNo core k) { h with status := .running } else s) s
  let c := s1.core core
  let again (x : Command) : Command :=
    { x with stage := firstStage x.instr, cut := false, begun := false, pos := 0, quarters := 0, carry := [],
             groups := [] }
  let slots := c.keptCommands.foldl (fun m x => Table.set none m x.key (some (again x))) c.slots
  s1.setCore core { c with slots := slots, task := some { t with phase := .running } }

/-- Discard a cut task's place: its commands travel, so that none of them is a warning, and its core is released. -/
def leaveCore (s : State) (core : Nat) : State :=
  releaseCore (s.setCore core { s.core core with slots := [], morder := [], torder := [] }) core

/-- Write a task's image into the rest of the area, or let the task run on where it does not fit or faults (R344). Data of the
task's own that cannot be read is such a fault, an MCHK (R383, log entry 98). -/
def writeImage (s : State) (core : Nat) (t : Task) (l : Launch) : State :=
  let bs := contextImage s core t (Record.temp l.record)
  let off := up64 l.used
  if Record.imglen l.record < off + bs.length then resumeCut s core t
  else
    let w := s.whoQueue l.asid
    let a := l.area + BitVec.ofNat 64 off
    let lose (s : State) (n : Nat) (cause : Cause) : State :=
      let junk := (List.range (n / 8 * 8)).map fun k => Config.imageByte s.freeCount k
      resumeCut (postEvent (writeRun s w a 8 (n / 8) junk).1 8 t.corr t.n cause.code) core t
    if imageBad s core t then lose s bs.length .mchk
    else match writeRun s w a 8 (bs.length / 8) bs with
    | (s1, none) =>
      let it : Iteration := { n := t.n, x := t.x, lev := t.lev, image := some a, since := s.clock }
      let s2 := s1.setLaunch t.launch (some { l with used := off + bs.length })
      requeue (leaveCore s2 core) t.launch it
    | (s1, some f) => lose (s1.logFault w f t.corr) (f.val - a).toNat f.cause

/-- IMAGE_WRITE_COMPLETE (R327). -/
def execImageWriteComplete (core : Nat) (s : State) : Step :=
  match (s.core core).task with
  | none => .next s
  | some t => match s.launch t.launch with
    | none => .next s
    | some l =>
      .next (if t.phase = .imaging && cutQuiet s core && lowestCut s t then writeImage s core t l else s)

/-! ## Restore (R346) -/

/-- A cut task whose image cannot be used ends faulted: nothing is loaded and no core is held. -/
def loseImage (s : State) (id : Nat) (l : Launch) (it : Iteration) (f : AccFault) : State :=
  let s1 := s.logFault (s.whoQueue l.asid) f l.corr
  failLaunch (postEvent (takeIteration s1 id l it) 2 l.corr 0 it.n) id f.cause.code

/-- Restore a cut task onto a core: its inputs are staged and its image loaded. -/
def restoreTask (s : State) (id : Nat) (l : Launch) (it : Iteration) (core : Nat) (bs : List Byte) : State :=
  let s1 := readyCore (takeIteration s id l it) id l it core (headGrants bs)
  match (s1.core core).task with
  | none => s1
  | some t => match stageInputs s1 core t l with
    | (s2, some f) => endByFault s2 core f
    | (s2, none) => loadImage s2 core t l bs

/-- CONTEXT_RESTORE (R346): the next cut task of a launch, in ascending n. -/
def execContextRestore (launchId core : Nat) (s : State) : Step :=
  match s.launch launchId with
  | none => .next s
  | some l => match l.candidate with
    | none => .next s
    | some it => match it.image with
      | none => .next s
      | some a => match imageHead s l it a with
        | .error (s1, f) => .next (loseImage s1 launchId l it f)
        | .ok (s1, h) => match readRun s1 (s1.whoQueue l.asid) a 8 (leAt h 4 4 / 8) with
          | .error f => .next (loseImage s1 launchId l it f)
          | .ok (s2, bs) =>
            let fits := restoreFits s2 launchId l it h
            if 128 ≤ core || !fits core || (Record.heat l.record = 2 && hotChoice s2 fits ≠ some core) || !myTurn s2 launchId l
                || !lowerStarted s2 launchId l it.n then .next s
            else .next (restoreTask s2 launchId l it core bs)

end Sys2Proof.Machine
end

