-- ==== Sys2Proof/Machine/Power.lean ====
section
/-! DEFINITION. The events of power, energy and heat (R298 to R308, R355). An event that is not enabled leaves the state as
it is. -/

namespace Sys2Proof.Machine

/-! ## Islands (R299, R300) -/

/-- An island of a core: four lanes. -/
def Core.island (c : Core) (i : Nat) : Island := Table.get {} c.islands i
/-- Replace an island. -/
def State.setIsland (s : State) (core i : Nat) (x : Island) : State :=
  s.setCore core { s.core core with islands := Table.set {} (s.core core).islands i x }

/-- What is left of a time that began in a reference period and lasts `n` of them. -/
def stillLasts (now n : Nat) (since : Option Nat) : Option Nat := since.filter fun t => now < t + n

/-- Where a hold that begins now is to be counted from: from the present one, if it has left the lanes no time to retire. -/
def Island.from_ (x : Island) (now : Nat) : Nat := if now ≤ x.until_ then x.since else now

/-- The island's lanes may be held for `n` more reference periods: no hold lasts for more than 2^10 (R307). -/
def Island.mayHold (x : Island) (now n : Nat) : Bool := now + n ≤ x.from_ now + 1024

/-- The island's lanes are held from now on, for at most `n` reference periods. -/
def Island.hold (x : Island) (now n : Nat) : Island := { x with since := x.from_ now, until_ := max x.until_ (now + n) }

/-- One sample of an island, at the reference period `now` (R299). -/
def sampleIsland (nten : Bool) (now : Nat) (x : Island) (p : IslandSample) : Island :=
  let starved := if p.starved then min 16 (x.starved + 1) else 0
  let held := if p.held then min 2 (x.held + 1) else 0
  let y := { x with starved := starved, held := held, sampled := some now }
  let change := if x.near then held = 2 || !nten || p.rendezvous else nten && starved = 16
  if (stillLasts now 1 x.pause).isNone && change && x.mayHold now 1 then
    { y.hold now 1 with near := !x.near, pause := some now, starved := 0, held := 0 }
  else y

/-- ISLAND_SAMPLE (R299): one in each reference period. The seven cycles of a near-threshold island in a reference period are
counted (R412). -/
def execIslandSample (core island : Nat) (sample : IslandSample) (s : State) : Step :=
  let c := s.core core
  let x := c.island island
  if x.sampled = some s.clock then .next s
  else
    let s1 := if x.near then s.setCore core (c.bumpBy 10 7) else s
    .next (s1.setIsland core island (sampleIsland ((s.pwrctlOf (postOf core)).getLsbD 7) s.clock x sample))

/-- ISLAND_TRANSITION_END (R299): the pause ends once its reference period has passed. -/
def execIslandTransitionEnd (core island : Nat) (s : State) : Step :=
  let x := (s.core core).island island
  .next (s.setIsland core island { x with pause := stillLasts s.clock 1 x.pause })

/-- The parts of an answer to a droop that its time limit has not ended: 40 ns of injection, which are 4 reference periods, or
1 µs of stretching, which are 100 (R300). -/
def Island.limited (x : Island) (now : Nat) : Island :=
  { x with inject := stillLasts now 4 x.inject, stretch := stillLasts now 100 x.stretch }

/-- The number of the window of 1 µs, of 100 reference periods, that is in progress. -/
def dutyWindow (now : Nat) : Nat := now / 100

/-- DROOP (R300): one injection in any 16 windows, or else a stretched clock, within the bound of R307. -/
def execDroop (core island : Nat) (s : State) : Step :=
  let x := ((s.core core).island island).limited s.clock
  if x.inject.isSome || x.stretch.isSome then .next s
  else if (s.pwrctlOf (postOf core)).getLsbD 6 && 16 ≤ x.duty + (dutyWindow s.clock - x.window) then
    let s1 := s.setCore core ((s.core core).bump 11)
    .next (s1.setIsland core island { x with inject := some s.clock, duty := 0, window := dutyWindow s.clock })
  else if x.mayHold s.clock 100 then .next (s.setIsland core island { x.hold s.clock 100 with stretch := some s.clock })
  else .next s

/-- SUPPLY_RECOVERED (R300). -/
def execSupplyRecovered (core island : Nat) (s : State) : Step :=
  let x := (s.core core).island island
  let ends := if x.stretch.isSome then min x.until_ (s.clock + 1) else x.until_
  .next (s.setIsland core island { x with inject := none, stretch := none, until_ := ends })

/-- DROOP_TIME_LIMIT (R300). -/
def execDroopTimeLimit (core island : Nat) (s : State) : Step :=
  .next (s.setIsland core island (((s.core core).island island).limited s.clock))

/-- DUTY_WINDOW_END (R300): the next window since the last injection is counted, once it has ended. -/
def execDutyWindowEnd (core island : Nat) (s : State) : Step :=
  let x := (s.core core).island island
  if x.duty < 16 && x.window < dutyWindow s.clock then
    .next (s.setIsland core island { x with duty := x.duty + 1, window := x.window + 1 })
  else .next s

/-! ## Request caps (R301) -/

/-- A lane's cap after a period above or under the post's budget. -/
def nextCap (floor : Nat) (above : Bool) (cap : Nat) : Nat :=
  if above then max 1 (min cap (max (cap / 2) floor)) else min 64 (cap + 4)

/-- REQUEST_CAP_UPDATE (R301): every lane of the post, once in each reference period. -/
def execRequestCapUpdate (post : Nat) (above : Bool) (s : State) : Step :=
  let floor := lsfloor (s.pwrctlOf post)
  if Table.get 0 s.capTimes post = s.clock + 1 then .next s
  else .next ((List.range 64).foldl (fun s k =>
    let n := 64 * post + k
    let c := s.core n
    s.setCore n { c with caps := (List.range 16).foldl (fun t l =>
      Table.set 64 t l (nextCap floor above (Table.get 64 c.caps l))) c.caps })
    { s with capTimes := Table.set 0 s.capTimes post (s.clock + 1) })

/-! ## Energy (R303, R304) -/

/-- Replace a context. -/
def State.setContext (s : State) (asid : BitVec 16) (x : Context) : State :=
  { s with contexts := Table.set {} s.contexts asid.toNat x }

/-- The pre-emption that an exhausted quota forces on one launch: its own policy, with area 0. -/
def forcePreempt (s : State) (id : Nat) (l : Launch) : State :=
  if l.phase = .suspended || l.phase = .draining || l.phase = .ended then s
  else
    let s1 := preemptPolicy s id l 0
    match s1.launch id with
    | some x => s1.setLaunch id (some { x with energy := x.phase = .suspended })
    | none => s1

/-- When ECOUNT has reached EQUOTA (R304): the context starts no new task, and its launches are pre-empted. -/
def enforceQuota (s : State) (asid : BitVec 16) : State :=
  let x := s.context asid
  if x.stopped || x.equota = 0 || x.ecount.toNat < x.equota.toNat then s
  else
    let s1 := s.setContext asid { x with stopped := true }
    (s1.inFlight.filter fun e => e.2.asid = asid).foldl (fun s e => match s.launch e.1 with
      | some l => forcePreempt s e.1 l
      | none => s) s1

/-- ECOUNT_UPDATE (R303). -/
def execEcountUpdate (asid : BitVec 16) (used : Word) (s : State) : Step :=
  let x := s.context asid
  .next (enforceQuota (s.setContext asid { x with ecount := x.ecount + used }) asid)

/-- QUOTA_GRANT (R304, R346): the overdraft is charged to the new grant; the context goes on unless it covers it. -/
def execQuotaGrant (asid : BitVec 16) (quota : Word) (s : State) : Step :=
  let x := s.context asid
  let count := BitVec.ofNat 64 (x.ecount.toNat - x.equota.toNat)
  let above := quota ≠ 0 && quota.toNat ≤ count.toNat
  let s1 := s.setContext asid { x with equota := quota, ecount := count, stopped := x.stopped && above }
  if !x.stopped then .next (enforceQuota s1 asid)
  else if above then .next s1
  else .next ((s1.inFlight.filter fun e => e.2.asid = asid && e.2.energy).foldl (fun s e => match s.launch e.1 with
    | some l => resumeLaunch s e.1 l
    | none => s) s1)

/-! ## Hangs (R305 to R307) -/

/-- A hart with a task that runs, or that a cut has stopped, is hung when it has retired no word for a full window outside
every documented wait (R306): a time in such a wait does not count (`passTime`). -/
def hung (s : State) (core slot : Nat) : Bool :=
  let h := s.hart (hartNo core slot)
  (s.core core).task.isSome && (h.status = .running || h.status = .cut) && !s.waitsWell (hartNo core slot)
    && 2 ^ hexp (s.pwrctlOf (postOf core)) ≤ s.clock - h.lastRetire

/-- HANG_REPORT (R306): the hart goes on. -/
def execHangReport (core slot : Nat) (s : State) : Step :=
  if !hung s core slot then .next s
  else
    let k := hartNo core slot
    let h := s.hart k
    let s1 := postEvent (s.setHart k { h with lastRetire := s.clock }) 1 h.corr k h.taskid.toNat
    .next (match s1.coreLaunch core with
      | some l =>
        if 1 ≤ s1.debugLevel then traceWrite s1 l.queue 7 (.hart slot) core l.corr h.taskid.toNat h.wcount.toNat else s1
      | none => s1)

/-! ## Heat (R355) and the controls (R298) -/

/-- HEATCTL after a write. -/
def heatctlNew (old v : Word) : Word :=
  BitVec.ofNat 64 (rangedField 0 64 (old.field 40 8).toNat (v.field 40 8).toNat * 2 ^ 40
    + rangedField 0 64 (old.field 32 8).toNat (v.field 32 8).toNat * 2 ^ 32 + (v.field 8 24).toNat * 256 + (v.field 0 1).toNat)

/-- HEATCTL_WRITE (R355). -/
def execHeatctlWrite (v : Word) (s : State) : Step :=
  .next { s with heatctl := heatctlNew s.heatctl v, rotStart := s.clock }

/-- COLOUR_ROTATION (R355). -/
def execColourRotation (s : State) : Step :=
  let rotp := (s.heatctl.field 8 24).toNat
  .next (if rotp ≠ 0 && s.rotStart + rotp ≤ s.clock then
    { s with heatctl := s.heatctl ^^^ 1, rotStart := s.rotStart + rotp }
  else s)

/-- PWRCTL_WRITE (R298): it takes effect at the post's next step boundary. -/
def execPwrctlWrite (post : Nat) (v : Word) (s : State) : Step := .next { s with pwrWrites := s.pwrWrites ++ [(post, v)] }

/-- RAMP_WRITE (R298). -/
def execRampWrite (post n : Nat) (v : BitVec 32) (s : State) : Step :=
  .next { s with rampWrites := s.rampWrites ++ [(16 * post + n, v)] }

/-! ## Power states (R308) -/

/-- A request for a power state: it waits until it can be entered, and replaces an older request. -/
def requestState (s : State) (k : Nat) : State := { s with pstateReq := if k = s.pstate then none else some k }

/-- PSTATE_D0_IDLE. -/
def execPstateD0Idle (s : State) : Step := .next (requestState s 1)
/-- PSTATE_D1. -/
def execPstateD1 (s : State) : Step := .next (requestState s 2)
/-- PSTATE_D2. -/
def execPstateD2 (s : State) : Step := .next (requestState s 3)
/-- PSTATE_D3. -/
def execPstateD3 (s : State) : Step := .next (requestState s 4)

/-- No task runs and no walker is active: every launch has ended, or is suspended with its images in its area, which lies in no
pool (R308, R323). -/
def State.atRest (s : State) : Bool :=
  s.cores.all (fun e => e.2.task.isNone) && s.inFlight.all fun e => e.2.phase = .suspended

/-- Cores off (D1): barriers and terms at reset, caches lost, pools, whose granules the accumulator tiles take, in retention. -/
def coresOff (s : State) : State :=
  let off (c : Core) : Core := { c.clearBars with temporal := {}, slots := [], morder := [], torder := [] }
  { s with cores := (s.cores.map fun e => (e.1, off e.2)).filter (fun e => e.2 ≠ {}), lines := [] }

/-- The pools' contents are lost (D2). -/
def poolsOff (s : State) : State :=
  let off (c : Core) : Core := { c with pool := [], valid := [], poolPoison := [], tiles := [] }
  { s with cores := (s.cores.map fun e => (e.1, off e.2)).filter (fun e => e.2 ≠ {}) }

/-- Before a policy ends and before D3, the sill writes zeros to every sealed page, and clears its seal and stamp (R402). -/
def wipeSealed (s : State) : State :=
  let wiped := s.sealed.map Prod.fst
  { s with mem := s.mem.filter (fun e => !wiped.contains (e.1 / 4096)),
           poison := s.poison.filter (fun e => !wiped.contains (e.1 * 8 / 4096)), sealed := [],
           stamped := s.stamped.filter fun e => !wiped.contains e.1 }

/-- A core as its module's reset leaves it: what is installed in it. -/
def Core.bare (c : Core) : Core := { lacks := c.lacks, live := c.live, regmax := c.regmax }

/-- What a module keeps when everything else of it is reset (R373, R394, log entry 27): installed parts, the lane swaps, what
lies outside it, the time that the modules share, and the choices that a run has still to make. -/
def State.moduleReset (s : State) : State :=
  let bare := (s.cores.map fun e => (e.1, e.2.bare)).filter fun e => e.2 ≠ {}
  { State.reset with
    cores := bare, hostMem := s.hostMem, hostAns := s.hostAns, peerMem := s.peerMem, peerAns := s.peerAns,
    moduleNo := s.moduleNo, pcie := s.pcie, bar4 := s.bar4, capbase := s.capbase, bankmapPa := s.bankmapPa, statusPa := s.statusPa,
    bankmapVa := s.bankmapVa, refcnt := s.refcnt, clock := s.clock, rotStart := s.clock, sseq := s.sseq, reports := s.reports, msix := s.msix,
    windowReads := s.windowReads, peerAnswers := s.peerAnswers, firmware := s.firmware, keyHashes := s.keyHashes,
    revoked := s.revoked, leastVersion := s.leastVersion, laneMaps := s.laneMaps,
    focus := s.focus, turns := s.turns, beat := s.beat, freeCount := s.freeCount }

/-- A firmware update: it may raise the fused minimum, and nothing lowers it (R399). -/
def State.update (s : State) (f : Firmware) (least : Nat) : State :=
  { s with firmware := f, leastVersion := max s.leastVersion least }

/-- Everything but the sill's contact with the host is off (D3): sessions close with reason 2. -/
def everythingOff (s : State) : State := { (wipeSealed (closeAll s 2)).moduleReset with pstate := 4, rstPending := none }

/-- PSTATE_D0: from a lower state the wake begins; from D3 it is a full bring-up (R308, R396). -/
def execPstateD0 (s : State) : Step := .next (if s.pstate = 4 then s.moduleReset else requestState s 0)

/-- POWER_STATE_ENTRY (R308): D0-idle at once, a lower state once nothing runs. From D2 or D1 a higher state below D0 is entered
as it is, what the lower one has lost being lost; D3 is left by the bring-up of PSTATE_D0 alone. -/
def execPowerStateEntry (s : State) : Step :=
  match s.pstateReq with
  | none => .next s
  | some k =>
    if k = 0 || s.pstate = 4 || (2 ≤ k && !s.atRest) then .next s
    else
      let s1 := if 2 ≤ k && s.pstate < 2 then coresOff s else s
      let s2 := if 3 ≤ k && s.pstate < 3 then poolsOff s1 else s1
      .next (if k = 4 then everythingOff s2 else { s2 with pstate := k, pstateReq := none })

/-- WAKE_TO_D0_COMPLETE (R308): from D0-idle, D1 or D2. -/
def execWakeToD0Complete (s : State) : Step :=
  .next (if s.pstateReq = some 0 && s.pstate < 4 then { s with pstate := 0, pstateReq := none } else s)

end Sys2Proof.Machine
end

