-- ==== Sys2Proof/Machine/XlatEvents.lean ====
section
/-! DEFINITION. The events of address translation: requests and walks (R270, R271), invalidation (R273, R274, R277), the
host fault path (R279, R388, R390), lease resolution (R245, R276) and stamps (R131, R405, R406). An event that is not
enabled leaves the state as it is. -/

namespace Sys2Proof.Machine

/-! ## Requests and walks (R270, R271) -/

/-- The level of the page that a request's walk finds in the tables as they stand; 0 where it finds none. -/
def walkLevel (s : State) (r : XlatReq) : Nat :=
  match walkFrom s r.asid r.va.toNat 5 r.ptroot.toNat false [] with
  | .ok x => x.1
  | .error _ => 0

/-- A request is to the page of a walk in progress, at that page's level, so that it joins it (R271). -/
def XlatWalk.takes (s : State) (w : XlatWalk) (r : XlatReq) : Bool :=
  let n := pageBytes (walkLevel s w.req)
  w.req.asid = r.asid && w.req.va.toNat / n = r.va.toNat / n

/-- A request joins a walk, or takes a walker of the 32; none while every walker is busy (R270, R271). -/
def XlatUnit.enter (s : State) (x : XlatUnit) (r : XlatReq) : Option XlatUnit :=
  if x.walks.any fun w => w.takes s r then
    some { x with walks := x.walks.map fun w => if w.takes s r then { w with joined := w.joined ++ [r] } else w }
  else if x.walks.length < 32 then some { x with walks := x.walks ++ [{ req := r }] }
  else none

/-- Requests in the wait list of a unit (R270). -/
def waitCap : Nat := 512

/-- A request that no walker takes goes to the end of the wait list, and while that is full the L2 slice holds it (R271). -/
def XlatUnit.receive (s : State) (x : XlatUnit) (r : XlatReq) : XlatUnit :=
  match x.enter s r with
  | some y => y
  | none =>
    if x.waits.length < waitCap then { x with waits := x.waits ++ [r] } else { x with misses := x.misses ++ [r] }

/-- What L2 holds moves into the wait list as far as it has room. -/
def XlatUnit.slide (x : XlatUnit) : XlatUnit :=
  let n := waitCap - x.waits.length
  { x with waits := x.waits ++ x.misses.take n, misses := x.misses.drop n }

/-- Waiting requests go to the walkers in their order, as many as the fuel. -/
def XlatUnit.refill (s : State) : Nat → XlatUnit → XlatUnit
  | 0, x => x
  | n + 1, x => match x.waits with
    | [] => x
    | r :: t => match ({ x with waits := t } : XlatUnit).enter s r with
      | some y => y.slide.refill s n
      | none => x

/-- A request is served: it is checked against its own kind and level and updates A and D, and the line that it asked for comes
into L2 through the directory at its home (R267, R270, R271); one that faults leaves no translation of its own. -/
def serveRequest (s : State) (r : XlatReq)
    (by_ : State → Nat → BitVec 16 → Word → Nat → Nat → Bool → Except Cause (State × Leaf)) : State :=
  match by_ s r.post r.asid r.ptroot r.va.toNat r.kind r.handler with
  | .ok (s, l) => s.keep r.post r.asid r.va.toNat l none
  | .error _ => s

/-- TRANSLATION_REQUEST (R270): served from the cache, or joined to a walk, or a walk of its own among the 32 walkers, or
put into the wait list of 512; beyond that the L2 slice holds it. -/
def execTranslationRequest (r : XlatReq) (s : State) : Step :=
  let u := unitOf r.post r.va.toNat
  let x := s.unit u
  if !canonical r.va then .next s
  else if x.leaves.any (leafFor r.asid r.va.toNat) then .next (serveRequest s r translateUnit)
  else .next (s.setUnit u (x.receive s r))

/-- An address lies in an invalidation that has begun, whose walks have stopped (step 1 of R274). -/
def State.stopped (s : State) (asid : BitVec 16) (va : Nat) : Bool :=
  s.inv.any fun i => (i.flags.getLsbD 0 || i.asid = asid) &&
    (i.pages = 0 || (i.base.toNat ≤ va && va < i.base.toNat + 4096 * i.pages.toNat))

/-- WALK_COMPLETE (R266, R271): the oldest walk of a unit ends, for every request that joined it; the waiting requests go on. -/
def execWalkComplete (unit : Nat) (s : State) : Step :=
  let x := s.unit unit
  match x.walks.find? fun w => !s.stopped w.req.asid w.req.va.toNat with
  | none => .next s
  | some w =>
    let s1 := s.setUnit unit { x with walks := x.walks.erase w }
    let s2 := (w.req :: w.joined).foldl (fun s r => serveRequest s r walk) s1
    let y := s2.unit unit
    .next (s2.setUnit unit (y.slide.refill s2 (y.waits.length + y.misses.length)))

/-! ## Invalidation (R273, R274, R277) -/

/-- What an invalidation covers. -/
structure Cover where
  base : Nat
  pages : Nat
  asid : BitVec 16
  all : Bool
  force : Bool
  global : Bool
  deriving DecidableEq, Repr

/-- A span of addresses meets the covered range. -/
def Cover.meets (c : Cover) (lo n : Nat) : Bool := c.pages = 0 || (lo < c.base + 4096 * c.pages && c.base < lo + n)

/-- The context of a translation is covered: a global translation's only under GLOBAL (R264, R273). -/
def Cover.context (c : Cover) (asid : BitVec 16) (glob : Bool) : Bool := if glob then c.global else c.all || asid = c.asid

/-- A cached leaf is covered. -/
def Cover.leaf (c : Cover) (l : Leaf) : Bool := c.context l.asid l.glob && c.meets l.page (pageBytes l.lvl)

/-- A cached ATS translation is covered (R390). -/
def Cover.ats (c : Cover) (a : AtsEntry) : Bool := (c.all || c.global || a.asid = c.asid) && c.meets (4096 * a.va) 4096

/-- A cached pointer entry is covered: a global one also for its own context. -/
def Cover.pointer (c : Cover) (p : Pointer) : Bool :=
  (c.all || p.asid = c.asid || (p.glob && c.global)) && c.meets (p.top * pageBytes p.lvl) (pageBytes p.lvl)

/-- A line of L1 and L2 is covered. -/
def Cover.line (c : Cover) (l : Line) : Bool :=
  (c.context l.asid l.leaf.glob || c.all || l.asid = c.asid) && c.meets (128 * l.va) 128

/-- Launches that pin a covered page (R277). -/
def coverPins (s : State) (c : Cover) : List Nat :=
  s.units.flatMap fun u => (u.2.leaves.filter c.leaf).flatMap Leaf.pins

/-- The bytes that commands are still to write, with the context of each command. -/
def State.engineSpans (s : State) : List (BitVec 16 × Word × Nat) :=
  s.cores.flatMap fun c => c.2.slots.flatMap fun e => match e.2 with
    | some x => (x.spans s c.1).map fun r => (x.asid, r)
    | none => []

/-- Accesses that were translated before are still to be performed (steps 3 and 4 of R274): an engine owns a covered line, a
command pins one, or a hart holds an access. Under GLOBAL, those of every context count. -/
def coverBusy (s : State) (c : Cover) : Bool :=
  let mine (asid : BitVec 16) : Bool := c.all || c.global || asid = c.asid
  (s.engineSpans.any fun r => mine r.1 && c.meets r.2.1.toNat r.2.2) ||
    (s.held.any fun h => mine h.asid && c.meets (128 * h.va) 128) ||
    s.harts.any fun h => mine h.2.asid && h.2.window.any fun f => f.lanes.any fun r =>
      r.held.any fun x => c.meets x.addr.toNat 8

/-- Remove some pages from a held range (R277); no page means every page. -/
def cutRange (base pages : Nat) (r : Range) : List Range :=
  let hi := base + 4096 * pages
  let low : List Range := if r.base < base then [{ r with len := base - r.base }] else []
  let high : List Range := if hi < r.base + r.len then [{ r with base := hi, len := r.base + r.len - hi }] else []
  if pages = 0 then [{ r with len := 0 }]
  else if hi ≤ r.base || r.base + r.len ≤ base then [r]
  else if low.isEmpty && high.isEmpty then [{ r with len := 0 }]
  else low ++ high

/-- The covered pages of a leaf: the first, and how many. -/
def Cover.span (c : Cover) (l : Leaf) : Nat × Nat :=
  let hi := l.page + pageBytes l.lvl
  if c.pages = 0 then (l.page, pageBytes l.lvl / 4096)
  else (max l.page c.base, (min hi (c.base + 4096 * c.pages) - max l.page c.base) / 4096)

/-- The covered pages that launches pin, each with its launch (R277). -/
def coverPinned (s : State) (c : Cover) : List (Nat × Nat × Nat) :=
  s.units.flatMap fun u => (u.2.leaves.filter c.leaf).flatMap fun l => l.pins.map fun p => (p, c.span l)

/-- A range that is now held, without the pages that FORCE has removed since its resolution began (R277). -/
def afterForced (forced : List (Nat × Nat)) (r : Range) : List Range :=
  forced.foldl (fun rs f => rs.flatMap (cutRange f.1 f.2)) [r]

/-- Steps 2 and 3 of R274: translations, pointers and lines are removed. -/
def dropCovered (s : State) (c : Cover) : State :=
  let units := s.units.map fun u => (u.1, { u.2 with
    leaves := u.2.leaves.filter fun l => !c.leaf l, ats := u.2.ats.filter fun a => !c.ats a, pointers := u.2.pointers.filter fun p => !c.pointer p })
  { s with units := units.filter fun u => u.2 ≠ {}, lines := s.lines.filter fun l => !c.line l }

/-- Pages leave the held ranges of a launch that pins them, and the ranges that it is still resolving (R277). -/
def forceOut (s : State) (p : Nat × Nat × Nat) : State :=
  let s1 := match s.launch p.1 with
    | some x => s.setLaunch p.1 (some { x with held := x.held.flatMap (cutRange p.2.1 p.2.2),
                                               forced := if x.resolved then [] else x.forced ++ [p.2] })
    | none => s
  { s1 with leasexs := s1.leasexs.map fun r => if r.launch = p.1 then { r with forced := r.forced ++ [p.2] } else r }

/-- Under FORCE the covered pages leave the held ranges of the launches that pin them: no page that the invalidation does not
cover, nor of a launch that does not pin it (R277). -/
def forceCut (s : State) (c : Cover) : State := (coverPinned s c).foldl forceOut s

/-- An invalidation can complete: nothing pins a covered page, or it is forced, and older accesses have been performed. -/
def coverReady (s : State) (c : Cover) : Bool := (c.force || (coverPins s c).isEmpty) && !coverBusy s c

/-- Carry out an invalidation. -/
def invalidate (s : State) (c : Cover) : State := dropCovered (if c.force then forceCut s c else s) c

/-- Write an 8-byte word at a host bus address. -/
def State.hostWord (s : State) (a : Nat) (v : Nat) : State := { s with hostMem := Memory.store s.hostMem a 8 v }

/-- The reserved bits of a request of R273 are zero and its addresses are well formed. -/
def invOk (w0 w1 w2 w3 : Word) : Bool :=
  canonical w0 && w0.toNat % 4096 = 0 && w2.toNat % 8 = 0 && w1.field 51 13 = 0 && w3 = 0

/-- INVREQ (R273): rejected with status 3, or begun. -/
def execInvreq (w0 w1 w2 w3 : Word) (s : State) : Step :=
  if !invOk w0 w1 w2 w3 then .next (s.hostWord (w2.toNat / 8 * 8) 3)
  else .next { s with inv := s.inv ++ [⟨w0, w1.field 0 32, w1.field 32 16, w1.field 48 8, .host w2⟩] }

/-- What an invalidation covers. -/
def coverOf (base : Word) (np : BitVec 32) (asid : BitVec 16) (fl : BitVec 8) : Cover :=
  ⟨base.toNat, np.toNat, asid, fl.getLsbD 0, fl.getLsbD 1, fl.getLsbD 2⟩

/-- What an invalidation that has begun covers. -/
def Invalidation.cover (i : Invalidation) : Cover := coverOf i.base i.pages i.asid i.flags

/-- The answer to a page request reaches every launch and LEASEX that waits for the page (R279). -/
def giveAnswer (s : State) (asid : BitVec 16) (page : Word) (resident : Bool) : State :=
  let mine (l : Launch) : Bool :=
    l.asid = asid && !l.resolved && (Record.leaseBase l.record l.pend).toNat / 4096 * 4096 + 4096 * l.pendPage = page.toNat
  let give (x : Option Launch) : Option Launch := x.map fun l => if mine l then { l with answer := some resident } else l
  { s with
    launches := s.launches.map fun e => (e.1, give e.2)
    leasexs := s.leasexs.map fun r =>
      if r.asid = asid && r.base.toNat / 4096 * 4096 + 4096 * r.page = page.toNat then { r with answer := some resident } else r }

/-- An invalidation has ended: who asked for it is told (R274, R279, R390). -/
def Invalidation.tell (i : Invalidation) (s : State) : State :=
  match i.src with
  | .host st => s.hostWord st.toNat 1
  | .answer asid page => giveAnswer s asid page true
  | .ats => { s with atsDone := s.atsDone + 1 }

/-- INVALIDATION_COMPLETE (R274): the oldest invalidation that need not wait ends; one with FORCE waits for no pin, and so may
pass one that does (R277). -/
def execInvalidationComplete (s : State) : Step :=
  match s.inv.find? fun i => coverReady s i.cover with
  | none => .next s
  | some i => .next (i.tell { invalidate s i.cover with inv := s.inv.erase i })

/-- ATS_INVALIDATION (R390): begun as an invalidation of one context, which the module completes after step 4. -/
def execAtsInvalidation (vbase : Word) (npages : BitVec 32) (asid : BitVec 16) (s : State) : Step :=
  .next { s with inv := s.inv ++ [⟨vbase, npages, asid, 0, .ats⟩] }

/-! ## The host fault path (R279, R388, R390) -/

/-- A request for a page is outstanding in some unit, or its answer waits for the page's invalidation. -/
def pageAsked (s : State) (asid : BitVec 16) (page : Word) : Bool :=
  (s.units.any fun u => (u.2.requests ++ u.2.held).any fun r => r.2.1 = page && r.2.2.1 = asid) ||
    s.inv.any fun i => i.src = .answer asid page

/-- FAULT_RING_POST (R279, R388): the oldest held request of a unit is written whole, and FRHEAD advances; once the host has
disabled the ring, the request is answered as refused. -/
def execFaultRingPost (unit : Nat) (s : State) : Step :=
  let x := s.unit unit
  match x.held with
  | [] => .next s
  | r :: t =>
    if s.frbase = 0 then .next (giveAnswer (s.setUnit unit { x with held := t }) r.2.2.1 r.2.1 false)
    else if 2 ^ s.frsize ≤ (s.frhead - s.frtail).toNat then .next s
    else
      let (tag, page, asid, write, origin, corr) := r
      let bytes := leBytes 8 page.toNat ++ leBytes 2 asid.toNat ++ [if write then 2 else 1, BitVec.ofNat 8 origin] ++
        leBytes 4 corr.toNat ++ leBytes 4 tag ++ [BitVec.ofNat 8 unit] ++ List.replicate 11 0
      let at_ := s.frbase.toNat + 32 * (s.frhead.toNat % 2 ^ s.frsize)
      let s1 := s.setUnit unit { x with held := t, requests := x.requests ++ [r] }
      .next { s1 with hostMem := Memory.storeBytes s1.hostMem at_ bytes, frhead := s1.frhead + 1, msix := s1.msix ++ [1] }

/-- An answer to a unit's request: on resident the page is invalidated, as any other range is, and is then walked afresh once
(R279). -/
def answerRequest (s : State) (unit : Nat) (tag : BitVec 32) (refused : Bool) : State :=
  let x := s.unit unit
  match x.requests.find? fun r => r.1 = tag.toNat with
  | none => s
  | some r =>
    let s1 := s.setUnit unit { x with requests := x.requests.erase r }
    if refused then giveAnswer s1 r.2.2.1 r.2.1 false
    else { s1 with inv := s1.inv ++ [⟨r.2.1, 1, r.2.2.1, 0, .answer r.2.2.1 r.2.1⟩] }

/-- FRESP (R279). -/
def execFresp (unit : Nat) (tag : BitVec 32) (refused : Bool) (s : State) : Step := .next (answerRequest s unit tag refused)

/-- PAGE_REQUEST_RESPONSE (R390): the host answers under the rules of R279. -/
def execPageRequestResponse (unit : Nat) (tag : BitVec 32) (refused : Bool) (s : State) : Step :=
  .next (answerRequest s unit tag refused)

/-- HOST_COMPLETION (R390): what the host completer gives for a page from now on (log entry 14): 0 data, 1 Unsupported
Request or Completer Abort, 2 a poisoned completion. -/
def execHostCompletion (page status : Nat) (s : State) : Step :=
  let a : HostAnswer := match status with
    | 0 => .data
    | 1 => .error
    | _ => .poison
  .next { s with hostAns := Table.set .data s.hostAns page a }

/-! ## Lease resolution (R245, R276) -/

/-- What resolving a page comes to: done, failed, or waiting for the host. -/
inductive Resolve where
  | done (s : State)
  | fail (s : State) (c : Cause)
  | wait (s : State)

/-- Ask the host for a page (R279, R390): refused at once while the fault ring is disabled (R388). -/
def askPage (s : State) (unit : Nat) (pri : Bool) (page : Word) (asid : BitVec 16) (write : Bool) (origin : Nat)
    (corr : BitVec 32) : Resolve :=
  if pageAsked s asid page then .wait s
  else if !pri && s.frbase = 0 then .fail s .page
  else
    let x := s.unit unit
    let r := (x.nextTag, page, asid, write, origin, corr)
    let y := { x with nextTag := (x.nextTag + 1) % 2 ^ 32 }
    .wait (s.setUnit unit (if pri then { y with requests := y.requests ++ [r] } else { y with held := y.held ++ [r] }))

/-- Pin the leaf of a page for a launch (R276). -/
def pinLeaf (s : State) (unit : Nat) (l : Leaf) (launch : Nat) : State :=
  let x := s.unit unit
  s.setUnit unit { x with leaves := x.leaves.map fun k =>
    if k.asid = l.asid && k.page = l.page && k.lvl = l.lvl && !k.pins.contains launch then
      { k with pins := launch :: k.pins } else k }

/-- Resolve one page of a range for a launch: walked as a read or, in a writable range, as a write (R276); a page that lies
outside installed memory or the live capacity is PROT (R266). An address in a peer window has no translation here (log
entry 22). -/
def resolvePage (s : State) (post launch : Nat) (asid : BitVec 16) (ptroot page : Word) (write : Bool) (origin : Nat)
    (corr : BitVec 32) (answer : Option Bool) : Resolve :=
  let u := unitOf post page.toNat
  let pri := s.pcie.getLsbD 2 && s.pcie.getLsbD 3
  if answer = some false || !canonical page then .fail s .page
  else if (s.windowOf page.toNat).isSome then .done s
  else match walk s post asid ptroot page.toNat (if write then 2 else 1) false with
    | .error .page => if answer.isSome then .fail s .page else askPage s u false page asid write origin corr
    | .error c => .fail s c
    | .ok (s1, l) =>
      let pa := leafPa l page.toNat
      if pri && isHostPa pa && !s1.atsHas u asid page.toNat (hostBus pa) && s.hostAnswer (hostBus pa) = .error then
        if answer.isSome then .fail s1 .prot else askPage s u true page asid write origin corr
      else match placeOf s1 (if write then 2 else 1) page 8 pa with
        | .error f => .fail s1 f.cause
        | .ok _ => .done (pinLeaf s1 u l launch)

/-- What resolving a range from one of its pages comes to: the failing page and its cause, or the page that waits. -/
inductive Ranged where
  | done (s : State)
  | fail (s : State) (page : Word) (c : Cause)
  | wait (s : State) (k : Nat)

/-- Resolve the pages of a range from page `k`, as many as the fuel. -/
def resolveRange (post launch : Nat) (asid : BitVec 16) (ptroot first : Word) (write : Bool) (origin : Nat)
    (corr : BitVec 32) : Nat → State → Nat → Option Bool → Ranged
  | 0, s, _, _ => .done s
  | n + 1, s, k, answer =>
    let page := first + BitVec.ofNat 64 (4096 * k)
    match resolvePage s post launch asid ptroot page write origin corr answer with
    | .done s => resolveRange post launch asid ptroot first write origin corr n s (k + 1) none
    | .fail s c => .fail s page c
    | .wait s => .wait s k

/-- The pages that `n` bytes from `base` touch. -/
def pagesOf (base n : Nat) : Nat := (base % 4096 + n + 4095) / 4096

/-- Drop a launch's pins. -/
def unpin (s : State) (l : Nat) : State :=
  { s with units := s.units.map fun u => (u.1, { u.2 with leaves := u.2.leaves.map fun k => { k with pins := k.pins.filter (· ≠ l) } }) }

/-- The post of the walker that took a launch (log entry 23). -/
def Launch.post (l : Launch) : Nat := l.walker / 4

/-- Once every declared range is held, a launch of a sealed context is measured (R404): an attested mark kernel gives the
physical pages of its code. -/
def measured (s : State) (l : Launch) : Option (List Nat) :=
  match s.policies.find? fun p => p.asid = l.asid with
  | none => none
  | some p =>
    let entry := (Record.entry l.record 0).toNat
    let page (k : Nat) : Option Nat :=
      match translate s l.post l.asid l.ptroot (p.mcode.toNat + 4096 * k) 1 true with
      | .ok (_, x) => some (leafPa x (p.mcode.toNat + 4096 * k) / 4096)
      | .error _ => none
    if p.mcode.toNat ≤ entry && entry < p.mcode.toNat + p.mlen.toNat then
      match readRun s (s.whoQueue l.asid) p.mcode 8 (p.mlen.toNat / 8) with
      | .ok (_, bs) => if sha256 bs = p.mmeas then some ((List.range (p.mlen.toNat / 4096)).filterMap page) else none
      | .error _ => none
    else none

/-- Resolve the lease slots of a launch from slot `pend`, as many as the fuel. -/
def resolveSlots : Nat → State → Nat → Launch → State
  | 0, s, id, l =>
    let ranges := (List.range (Record.nlease l.record)).map fun i =>
      (⟨(Record.leaseBase l.record i).toNat, Record.leaseLen l.record i, Record.leaseWrite l.record i, false, 0⟩ : Range)
    let phase := if l.phase = .leases then .walking else l.phase
    let code := measured s l
    s.setLaunch id (some { l with held := l.held ++ ranges.flatMap (afterForced l.forced), forced := [], resolved := true,
                                  phase := phase, attested := code.isSome, code := code.getD [] })
  | n + 1, s, id, l =>
    let r := l.record
    let i := l.pend
    let pages := pagesOf (Record.leaseBase r i).toNat (Record.leaseLen r i)
    match resolveRange l.post id l.asid l.ptroot (Record.leaseBase r i) (Record.leaseWrite r i) 1 l.corr
        (pages - l.pendPage) s l.pendPage l.answer with
    | .done s => resolveSlots n s id { l with pend := i + 1, pendPage := 0, answer := none }
    | .wait s k => s.setLaunch id (some { l with pendPage := k, answer := none })
    | .fail s page c =>
      let s := if c = .mchk then s.logBad (s.whoQueue l.asid) 1 page 1 l.corr else s
      (unpin s id).setLaunch id (some { l with phase := .ended, lcode := 6, failure := some c.code, walkDone := true })

/-- LEASE_RESOLUTION_COMPLETE (R276): the declared ranges of a launch are resolved and pinned, as far as the host has
answered, or the launch fails. -/
def execLeaseResolutionComplete (launchId : Nat) (s : State) : Step :=
  match s.launch launchId with
  | some l =>
    if l.resolved || !(l.phase = .leases || l.phase = .suspended || l.phase = .draining) then .next s
    else .next (resolveSlots (Record.nlease l.record - l.pend) s launchId l)
  | none => .next s

/-- The core still runs the task for which a barrier is to arrive. -/
def State.stillFor (s : State) (core launch : Nat) : Bool :=
  match (s.core core).task with
  | some t => t.launch = launch
  | none => true

/-- LEASEX_RESOLVED (R245): the first request that does not wait for the host. -/
def execLeasexResolved (s : State) : Step :=
  let page (r : LeaseReq) : Word := BitVec.ofNat 64 (r.base.toNat / 4096 * 4096 + 4096 * r.page)
  match s.leasexs.find? fun r => r.answer.isSome || !pageAsked s r.asid (page r) with
  | none => .next s
  | some r =>
    let rest := s.leasexs.erase r
    let first := BitVec.ofNat 64 (r.base.toNat / 4096 * 4096)
    let s1 := { s with leasexs := rest }
    let extra := (s.heldBy (some r.launch)).filter Range.extra
    let fails (s : State) (code : BitVec 16) (a : Word) : State :=
      if s.stillFor r.core r.launch then errorArrival s r.core r.bar code a .sill else s
    if 16 ≤ extra.length then .next (fails s1 (faultCode (accFault .lease 0 r.base) 6 3) r.base)
    else match resolveRange (postOf r.core) r.launch r.asid r.ptroot first r.write 2 r.corr
        (pagesOf r.base.toNat r.len.toNat - r.page) s1 r.page r.answer with
      | .fail s2 p c => .next (fails (if c = .mchk then s2.logBad (whoCtx r.core r.asid r.ptroot false) 1 p 1 r.corr else s2) (faultCode (accFault c (if r.write then 2 else 1) p) 6 0) p)
      | .wait s2 k => .next { s2 with leasexs := { r with page := k, answer := none } :: rest }
      | .done s2 =>
        let range : Range := ⟨r.base.toNat, r.len.toNat, r.write, true, r.n⟩
        let s3 := match s2.launch r.launch with
          | some l => s2.setLaunch r.launch (some { l with held := l.held ++ afterForced r.forced range })
          | none => s2
        .next (if s3.stillFor r.core r.launch then normalArrival s3 r.core r.bar .sill else s3)

/-! ## Stamps (R131, R405, R406) -/

/-- The device page of a page of a region, or none where it is not a sealed device page. -/
def sealedPage (s : State) (w : Who) (va : Word) : Except AccFault (State × Option Nat) :=
  match checkAccess s w 1 va 8 none with
  | .error f => .error { f with kind := 1 }
  | .ok (s, .dev pa) => .ok (s, if s.pageSealed pa then some (pa / 4096) else none)
  | .ok (s, _) => .ok (s, none)

/-- The device pages of a region, every one sealed: or the fault code's cause and address. -/
def sealedPages (w : Who) : Nat → State → Word → Except AccFault (State × List Nat)
  | 0, s, _ => .ok (s, [])
  | n + 1, s, va =>
    match sealedPage s w va with
    | .error f => .error f
    | .ok (_, none) => .error (accFault .seal 1 va)
    | .ok (s, some p) =>
      match sealedPages w n s (va + 4096) with
      | .error f => .error f
      | .ok (s, ps) => .ok (s, p :: ps)

/-- The first 128 bytes of a manifest (R406). -/
def manifestHead (s : State) (r : StampReq) (digest : List Byte) : List Byte :=
  let model := ((s.policies.find? fun p => p.asid = r.asid).map SealPolicy.model).getD (List.replicate 32 0)
  leBytes 4 1 ++ leBytes 2 s.moduleNo.toNat ++ [0, 0] ++ leBytes 8 s.refcnt ++ leBytes 8 r.region.toNat ++
    leBytes 8 r.len.toNat ++ digest ++ model ++ leBytes 4 r.corr.toNat ++ leBytes 4 0 ++ leBytes 8 (s.sseq + 1).toNat ++
    List.replicate 16 0

/-- A signature over a message with the provenance key (R400, R406): 7,856 bytes that the model leaves open (log entry 13). -/
def signatureOf (msg : List Byte) : List Byte := (List.range 7856).map (Config.signature .provenance msg)

/-- The places of the 8-byte words of a manifest, none on a sealed page. -/
def manifestPlaces (w : Who) : Nat → State → Word → Except AccFault (State × List Place)
  | 0, s, _ => .ok (s, [])
  | n + 1, s, va =>
    match checkAccess s w 2 va 8 none with
    | .error f => .error { f with kind := 2 }
    | .ok (s, p) =>
      let bad := match p with
        | .dev pa => s.pageSealed pa
        | _ => false
      if bad then .error (accFault .seal 2 va)
      else match manifestPlaces w n s (va + 8) with
        | .error f => .error f
        | .ok (s, ps) => .ok (s, p :: ps)

/-- Write words to their places without sealing a page: the sill's own write (R406). -/
def writePlaces (s : State) : List Place → List Byte → State
  | [], _ => s
  | p :: ps, bs =>
    let v := leAt bs 0 8
    let s1 := match p with
      | .dev pa => (s.noteWrite 640 1 p).devWrite pa 8 v
      | .host a => { s.noteWrite 640 1 p with hostMem := Memory.store s.hostMem a 8 v }
      | .pool c o => (s.noteWrite 640 1 p).setCore c ((s.core c).poolWrite o 8 v)
      | .peer _ a => { s.noteWrite 640 1 p with peerMem := Memory.store s.peerMem a 8 v }
      | _ => s
    writePlaces s1 ps (bs.drop 8)

/-- On whose behalf a STAMP is made. -/
def whoStamp (r : StampReq) : Who :=
  { core := r.core, asid := r.asid, ptroot := r.ptroot, handler := r.handler, launch := some r.launch, agent := 512 + r.core }

/-- The fault code of a STAMP: DETAIL 1 is that of its manifest, whose faults other than SEAL and PAGE are PROT (R405). -/
def stampCode (f : AccFault) (d : Nat) : BitVec 16 :=
  faultCode (if d = 1 && f.cause ≠ .seal && f.cause ≠ .page then { f with cause := .prot } else f) 3 d

/-- The fault of a manifest whose address is no multiple of 64: SEAL where a page of it is sealed, and else PROT (R405). -/
def misplaced (s : State) (r : StampReq) : AccFault :=
  match manifestPlaces (whoStamp r) 998 s (r.manifest &&& ~~~7) with
  | .error f => accFault (if f.cause = .seal then .seal else .prot) 2 r.manifest
  | .ok _ => accFault .prot 2 r.manifest

/-- Carry out a STAMP: the state with the manifest written and the pages stamped, or its fault and DETAIL (R405). -/
def stamp (s : State) (r : StampReq) : Except (AccFault × Nat) State :=
  let w := whoStamp r
  let ill := accFault .ill 0 r.region
  if r.region.toNat % 4096 ≠ 0 || r.len = 0 || r.len.toNat % 4096 ≠ 0 then .error (ill, 2)
  else if 2 ^ 28 < r.len.toNat then .error (ill, 3)
  else match sealedPages w (r.len.toNat / 4096) s r.region with
    | .error f => .error (f, 0)
    | .ok (s, pages) =>
      match readRun s w r.region 8 (r.len.toNat / 8) with
      | .error f => .error ({ f with kind := 1 }, 0)
      | .ok (s, bs) =>
        if r.manifest.toNat % 64 ≠ 0 then .error (misplaced s r, 1)
        else match manifestPlaces w 998 s r.manifest with
          | .error f => .error (f, 1)
          | .ok (s, places) =>
            let head := manifestHead s r (sha256 bs)
            let s1 := writePlaces { s with sseq := s.sseq + 1 } places (head ++ signatureOf head)
            .ok { s1 with stamped := pages.foldl (fun t p => Table.set false t p true) s1.stamped }

/-- STAMP_COMPLETE (R405): the oldest stamp is made or refused; its ownership ends and its barrier arrives. -/
def execStampComplete (s : State) : Step :=
  match s.stamps with
  | [] => .next s
  | r :: t =>
    let fin (s : State) : State := ({ s with stamps := t }).release r.core r.key
    match stamp s r with
    | .ok s1 => let s2 := fin s1; .next (if s2.stillFor r.core r.launch then normalArrival s2 r.core r.bar .sill else s2)
    | .error (f, d) =>
      let s2 := fin (s.logFault (whoStamp r) f r.corr)
      .next (if s2.stillFor r.core r.launch then errorArrival s2 r.core r.bar (stampCode f d) f.val .sill else s2)

end Sys2Proof.Machine
end

