-- ==== Sys2Proof/Machine/ResetEvents.lean ====
section
/-! DEFINITION. The events of reset (R361, R394 to R396, R401, R402). A request made while RSTSTAT.BUSY is 1 is
discarded. -/

namespace Sys2Proof.Machine

/-- The grants from a core become void and the core lends nothing any more (R361): a rerunnable BUFFERED borrower aborts. -/
def voidGrants (s : State) (core : Nat) : State :=
  let s1 := (List.range 4).foldl (fun s d =>
    match neighbour core d with
    | none => s
    | some b =>
      if (s.core core).lent.getD d 0 = 0 then s
      else match (s.core b).task with
        | none => s
        | some t =>
          if t.canAbort then abortTask s b
          else s.setCore b { s.core b with void := setBit (s.core b).void (opposite d) true }) s
  s1.setCore core { s1.core core with lent := [0, 0, 0, 0], fresh := [0, 0, 0, 0] }

/-- CORE (R394): the task, the grants, and the barriers, terms, slots and temporal array (R233) of a core. A commit that has
started is completed first (R322). -/
def coreReset (s : State) (core : Nat) : State :=
  let s0 := match (s.core core).task with
    | some t => if t.phase = .commit then endCommit s core t else s
    | none => s
  let s1 := voidGrants s0 core
  let s2 := match (s1.core core).task with
    | none => s1
    | some t =>
      if t.canAbort then abortTask s1 core else endByFault s1 core { cause := .mchk, kind := 0, val := 0, inPlane := true }
  let c := s2.core core
  s2.setCore core { c.clearBars with slots := [], morder := [], torder := [], follows := [], temporal := {} }

/-- A reset is requested: it is BUSY until it completes. -/
def requestReset (s : State) (scope target : Nat) (act : State → State) : State :=
  if s.rstBusy then s else { act s with rstBusy := true, rstPending := some (scope, target) }

/-- RESET_CORE. -/
def execResetCore (core : Nat) (s : State) : Step := .next (requestReset s 1 core fun s => coreReset s core)

/-- RESET_POST: every core of the post, and its L2: a line that cannot be written back is poisoned (R382). -/
def execResetPost (post : Nat) (s : State) : Step :=
  .next (requestReset s 2 post fun s =>
    let s1 := (List.range 64).foldl (fun s k => coreReset s (64 * post + k)) s
    dropLines s1 fun l => l.post = post)

/-- A launch completes FAULTED with cause 0, whatever it was doing (R394). -/
def dropLaunch (s : State) (id : Nat) : State :=
  let s1 := (s.coresOf id).foldl releaseCore s
  match s1.launch id with
  | none => s1
  | some l => completeLaunch s1 id { l with phase := .walking, failure := some 0 }

/-- A policy ends: every sealed page is wiped first (R401, R402). -/
def endPolicy (s : State) (asid : BitVec 16) : State :=
  if s.sealedCtx asid then { wipeSealed s with policies := s.policies.filter fun p => p.asid ≠ asid } else s

/-- CONTEXT (R394). -/
def contextReset (s : State) (asid : BitVec 16) : State :=
  let ids := (s.inFlight.filter fun e => e.2.asid = asid).map Prod.fst
  let s1 := ids.foldl dropLaunch s
  let mine := (s1.queues.filter fun e => e.2.asid = asid).map Prod.fst
  let s2 := mine.foldl (fun s q =>
    let s := closeTrace s q 2 false (((s.queue q).trace.map Trace.corr).getD 0)
    let x := s.queue q
    s.setQueue q { x with en := false, head := x.tail }) s1
  let s3 := { s2 with
    stamps := s2.stamps.filter (fun r => r.asid ≠ asid), leasexs := s2.leasexs.filter (fun r => r.asid ≠ asid),
    held := s2.held.filter fun o => !(64 ≤ o.key && o.asid = asid) }
  (endPolicy (dropCovered s3 ⟨0, 0, asid, false, false, false⟩) asid).markQueues

/-- RESET_CONTEXT. -/
def execResetContext (asid : BitVec 16) (s : State) : Step :=
  .next (requestReset s 3 asid.toNat fun s => contextReset s asid)

/-- RESET_MODULE: everything is reset, and bring-up follows (R394, R396, R410). -/
def execResetModule (s : State) : Step :=
  .next (requestReset s 4 0 fun s => (wipeSealed (closeAll s 2)).moduleReset)

/-- RESET_COMPLETE (R394, R396): BUSY clears; bring-up stops before it where the firmware fails its checks (R399). -/
def execResetComplete (s : State) : Step :=
  match s.rstPending with
  | none => .next s
  | some (scope, target) =>
    if scope = 4 && !s.firmwareOk then .next s
    else .next (postEvent { s with rstBusy := false, rstScope := scope, rstPending := none } 6 0 scope target)

end Sys2Proof.Machine
end

