-- ==== Sys2Proof/Machine/Stacks.lean ====
section
/-! DEFINITION. The stacked memory: array errors and scrubs (R364, R367, R370, R371), the vertical buses (R365, R366, R368,
R372, R373), remapping steps (R375 to R380), the clock ratio (R381) and checkpoints (R397). -/

namespace Sys2Proof.Machine

/-! ## Array errors (R367, R370, R371) -/

/-- A codeword with an error has been read (R367, R371): a single-bit error is corrected and logged, and another makes the
word uncorrectable until a write of all of it. -/
def arrayError (s : State) (e : ArrayError) (corr : Nat) : State :=
  match e.bit with
  | some b => (logArray s e corr 1 b (!e.writeFirst)).stackCount e.stack 0
  | none => (logArray (markWord s e true) e corr 2 0xFF false).stackCount e.stack 1

/-- HBM_ARRAY_READ (R367, R370): the read is that of an access to an address that exists, which an uncorrectable word delivers as
MCHK; its entry is the one made here. -/
def execHbmArrayRead (e : ArrayError) (s : State) : Step :=
  if s.liveCap ≤ e.paddr then .next s
  else
    let s1 := arrayError s (placedError e s) e.corr.toNat
    .next (if e.bit.isSome then s1 else { s1 with found := Table.set false s1.found (e.paddr / 64 * 8 + e.word % 8) true })

/-- SCRUB (R371): logged with CORR 0. -/
def execScrub (e : ArrayError) (s : State) : Step :=
  .next (if s.liveCap ≤ e.paddr then s else arrayError s (placedError e s) 0)

/-! ## The vertical buses (R365, R366, R368, R372) -/

/-- Write a vertical-bus log entry (R365): 1 retried clean, 2 swapped and then clean, 3 failed. -/
def logBus (s : State) (b : Burst) (event : Nat) : State :=
  let w1 := b.reflo + b.ch % 256 * 2 ^ 32 + b.pch % 2 * 2 ^ 40 + b.group % 256 * 2 ^ 48 + event * 2 ^ 56
  let w2 := b.tries % 256 + b.lane * 2 ^ 8 + b.spare * 2 ^ 16 + (if b.write then 2 ^ 24 else 0) + b.beats.toNat * 2 ^ 32
  let head := Table.get 0 s.counters (8 * b.stack + 6)
  { s with busLog := logEntry s.busLog b.stack head [b.paddr / 64 * 64, w1, w2, b.corr.toNat * 2 ^ 32] }.stackCount b.stack 6

/-- A transfer is of this burst. -/
def Burst.same (b : Burst) (t : BusTransfer) : Bool := b.paddr / 64 = t.paddr / 64 && b.write = t.write

/-- The burst that a first transfer begins, where it lies (R377). -/
def burstOf (t : BusTransfer) (s : State) : Burst :=
  let p := s.wordPlace (t.paddr / 64 * 8) t.corr
  { paddr := t.paddr, stack := p.stack, ch := p.ch, pch := p.pch, write := t.write, corr := t.corr, beats := t.beats,
    group := t.groups.foldl min 3, reflo := s.reflo }

/-- The channel holds new requests from the third mismatch of a burst of it, and releases them when its transfers have ended, the
write of a near-memory atomic among them (R368, R374). -/
def settleChannel (s : State) (stack ch : Nat) : State :=
  let before := Table.get false s.chanHold (chanKey stack ch)
  let held := s.bursts.any fun b => b.stack = stack && b.ch = ch && (before || 3 ≤ b.tries)
  { s with chanHold := Table.set false s.chanHold (chanKey stack ch) held }

/-- A burst has been transferred clean, or has failed: its entry is logged, and the channel is released. -/
def endBurst (s : State) (b : Burst) (event : Nat) : State :=
  let s1 := logBus { s with bursts := s.bursts.filter fun x => !(x.paddr / 64 = b.paddr / 64 && x.write = b.write) } b event
  let s2 := { s1 with badBursts := Table.set false s1.badBursts (b.paddr / 64) (event = 3) }
  settleChannel s2 b.stack b.ch

/-- VBUS_TRANSFER (R368, R372): the first transfer of a burst, or the next of one that has mismatched. After the third, the
channel walks before the fourth. -/
def execVbusTransfer (t : BusTransfer) (s : State) : Step :=
  match s.bursts.find? (fun b => b.same t) with
  | none =>
    if s.liveCap ≤ t.paddr then .next s
    else if t.groups.isEmpty then .next { s with badBursts := Table.set false s.badBursts (t.paddr / 64) false }
    else .next { s with bursts := s.bursts ++ [burstOf t s] }
  | some b =>
    if b.walk.isSome then .next s
    else
      let s1 := s.stackCount b.stack 2
      let b1 := { b with tries := b.tries + 1 }
      let clean := t.groups.isEmpty
      if clean then .next (endBurst s1 b1 (if b.spare = 0xFF then 1 else 2))
      else if b1.tries = 4 then .next (endBurst (s1.stackCount b.stack 4) b1 3)
      else
        let b2 := { b1 with walk := if b1.tries = 3 then some t.groups else none }
        .next (settleChannel { s1 with bursts := s1.bursts.map fun x => if x = b then b2 else x } b.stack b.ch)

/-- A failing lane takes the lower free spare of a channel's map: the map, and the spare wire (R366, R373). -/
def swapLane (m : BitVec 16) (lane : Nat) : BitVec 16 × Nat :=
  if m.extractLsb' 0 7 = 0x7F then (BitVec.ofNat 16 (m.toNat / 128 * 128 + lane), 64)
  else if m.extractLsb' 8 7 = 0x7F then (BitVec.ofNat 16 (m.toNat % 256 + lane * 256), 65)
  else (m, 0xFF)

/-- LANE_WALK (R368): exactly one failing lane among the groups walked is swapped. -/
def execLaneWalk (stack ch : Nat) (failing : List Nat) (s : State) : Step :=
  match s.bursts.find? (fun b => b.stack = stack && b.ch = ch && b.walk.isSome) with
  | none => .next s
  | some b =>
    let groups := b.walk.getD []
    match (failing.filter fun l => l < 64 && groups.contains (l / 16)).eraseDups with
    | [lane] =>
      let k := chanKey stack ch
      let r := swapLane (Table.get 0x7F7F s.laneMaps k) lane
      let b1 := { b with walk := none, lane := lane, spare := r.2 }
      let s1 := { s with laneMaps := Table.set 0x7F7F s.laneMaps k r.1, bursts := s.bursts.map fun x => if x = b then b1 else x }
      .next (if r.2 = 0xFF then s1 else s1.stackCount stack 3)
    | _ => .next { s with bursts := s.bursts.map fun x => if x = b then { b with walk := none } else x }

/-- CLOCK_RATIO_CHANGE (R381): nothing else changes. -/
def execClockRatioChange (ratio : Nat) (s : State) : Step := .next { s with clockRatio := ratio }

/-! ## Remapping (R379, R380) -/

/-- A step is asked for: GEN becomes odd. One is taken at a time; a return is of a bank that was retired for heat. -/
def beginRemap (s : State) (bank : Nat) (back thermal : Bool) : State :=
  if s.sillStopped then s else
  let live := !Table.get false s.dead bank
  let ok := if back then Table.get false s.therm bank else live
  if s.remap.isSome || 16384 ≤ bank || !ok then s
  else { s with remap := some (bank, back, thermal, s.clock), mapGen := s.mapGen + 1 }

/-- REMAP_RETIRE (R379). -/
def execRemapRetire (bank : Nat) (s : State) : Step := .next (beginRemap s bank false false)
/-- REMAP_RETURN (R379). -/
def execRemapReturn (bank : Nat) (s : State) : Step := .next (beginRemap s bank true false)
/-- THERMAL_RETIRE (R380). -/
def execThermalRetire (bank : Nat) (s : State) : Step := .next (beginRemap s bank false true)
/-- THERMAL_RETURN (R380). -/
def execThermalReturn (bank : Nat) (s : State) : Step := .next (beginRemap s bank true true)

/-- A page of device memory lies at or above a limit. -/
def leafAbove (cap : Nat) (l : Leaf) : Bool :=
  let pa := leafPa l l.page
  !isHostPa pa && cap < pa + pageBytes l.lvl

/-- A held lease range pins a page at or above a limit. -/
def pinnedAbove (s : State) (cap : Nat) : Bool :=
  s.units.any fun u => u.2.leaves.any fun l => !l.pins.isEmpty && leafAbove cap l

/-- Steps 4 to 6 of R379, for a new capacity: lines and translations above it go, and so do its contents. -/
def remapTo (s : State) (bank : Nat) (back thermal : Bool) : State :=
  let cap := if back then s.liveCap else s.liveCap - Config.bankBytes
  let units := s.units.map fun u => (u.1, { u.2 with
    leaves := u.2.leaves.filter (fun l => !leafAbove cap l),
    pointers := u.2.pointers.filter fun p => isHostPa p.table || p.table + 4096 ≤ cap })
  { s with
    units := units.filter (fun u => u.2 ≠ {}), lines := s.lines.filter (fun l => !leafAbove cap l.leaf),
    mem := s.mem.filter (fun e => e.1 < cap), poison := s.poison.filter (fun e => 8 * e.1 < cap),
    sealed := s.sealed.filter (fun e => 4096 * e.1 < cap), stamped := s.stamped.filter (fun e => 4096 * e.1 < cap),
    dead := Table.set false s.dead bank (!back), therm := Table.set false s.therm bank (!back && thermal),
    mapGen := s.mapGen + 1, remap := none }

/-- REMAP_PROCEED (R379). -/
def execRemapProceed (s : State) : Step :=
  match s.remap with
  | none => .next s
  | some (bank, back, thermal, _) =>
    if !back && pinnedAbove s (s.liveCap - Config.bankBytes) then .next s else .next (remapTo s bank back thermal)

/-- REMAP_WAIT_EVENT (R379): each 2^20 reference periods of the wait for a lease. -/
def execRemapWaitEvent (s : State) : Step :=
  match s.remap with
  | some (bank, false, thermal, since) =>
    if pinnedAbove s (s.liveCap - Config.bankBytes) && since + 2 ^ 20 ≤ s.clock then
      .next (postEvent { s with remap := some (bank, false, thermal, since + 2 ^ 20) } 4 0 0 0)
    else .next s
  | _ => .next s

/-! ## Checkpoints (R397) -/

/-- Put the entries of one table, moved by an offset, in place of what lies from `lo` on for `n` addresses. -/
def splice (t : Table Byte) (lo n : Nat) (new : Table Byte) : Table Byte :=
  t.filter (fun e => e.1 < lo) ++ new ++ t.filter fun e => lo + n ≤ e.1

/-- The entries of a table from `lo` on for `n` addresses, moved to `dst`. -/
def moveOut (t : Table Byte) (lo n dst : Nat) : Table Byte :=
  (t.filter fun e => lo ≤ e.1 && e.1 < lo + n).map fun e => (e.1 - lo + dst, e.2)

/-- A checkpoint is asked for: one at a time. -/
def beginCheckpoint (s : State) (restore : Bool) (v : Word) : State :=
  if s.ckpt.isSome || s.sillStopped then s else { s with ckpt := some (restore, v) }

/-- CHECKPOINT_SAVE (R397): the event carries CKPTREQ as written. -/
def execCheckpointSave (dest : Word) (s : State) : Step := .next (beginCheckpoint s false dest)
/-- CHECKPOINT_RESTORE (R397). -/
def execCheckpointRestore (dest : Word) (s : State) : Step := .next (beginCheckpoint s true dest)

/-- The stream of a save: 64 bytes that hold GEN, LIVECAP and REFCNT, and device memory, but that a sealed page that is not
stamped is zeros (R397, R403). -/
def checkpointStream (s : State) : Table Byte :=
  let head := leBytes 8 s.mapGen.toNat ++ leBytes 8 s.liveCap ++ leBytes 8 s.refcnt
  let hide (a : Nat) : Bool := Table.get false s.sealed (a / 4096) && !Table.get false s.stamped (a / 4096)
  Memory.storeBytes [] 0 head ++ (s.mem.filter fun e => !hide e.1).map fun e => (e.1 + 64, e.2)

/-- Where the stream of a checkpoint lies in peer memory: window numbers, and the bytes of each one's part (log entry 28). -/
def checkpointParts (v : Word) (total : Nat) : List Nat × Nat :=
  let ws := (List.range 16).filter fun w => v.getLsbD (8 + w)
  (ws, ((total + ws.length - 1) / ws.length + 63) / 64 * 64)

/-- The pieces of a window's part of a stream, each within one page of the peer: where it lies in the part, its address on the
peer, and its bytes. -/
def peerPieces (addr n : Nat) : List (Nat × Nat × Nat) :=
  (List.range ((addr % 4096 + n + 4095) / 4096)).map fun k =>
    let lo := max addr (addr / 4096 * 4096 + 4096 * k)
    let hi := min (addr + n) (addr / 4096 * 4096 + 4096 * (k + 1))
    (lo - addr, lo, hi - lo)

/-- The pieces of a checkpoint's parts in peer memory: where each lies in the stream, its key and its bytes; none where the peer
does not give one of its pages for an access of the kind. -/
def peerStream (s : State) (v : Word) (total kind : Nat) : Option (List (Nat × Nat × Nat)) :=
  let p := checkpointParts v total
  (p.1.zipIdx.flatMap fun q => (peerPieces (Table.get {} s.pwin q.1).roff.toNat p.2).map fun r => (q, r)).mapM fun e =>
    let w := Table.get {} s.pwin e.1.1
    match s.peerTables w e.2.2.1 with
    | .leaf l => if l.allows kind true then some (e.1.2 * p.2 + e.2.1, peerKey w l e.2.2.1, e.2.2.2) else none
    | .fault _ => none

/-- A window of a list is down. -/
def windowDown (s : State) (ws : List Nat) : Bool := ws.any fun w => !(Table.get {} s.pwin w).up

/-- Write a save's stream to its destination. -/
def saveStream (s : State) (v : Word) (stream : Table Byte) (total : Nat) : State :=
  if v.getLsbD 63 then
    { s with peerMem := ((peerStream s v total 2).getD []).foldl (fun m r =>
        splice m r.2.1 r.2.2 (moveOut stream r.1 r.2.2 r.2.1)) s.peerMem }
  else
    let at_ := v.toNat / 256 * 4096
    { s with hostMem := splice s.hostMem at_ total (moveOut stream 0 total at_) }

/-- Read a stream of `total` bytes back from where it was saved. -/
def loadStream (s : State) (v : Word) (total : Nat) : Table Byte :=
  if v.getLsbD 63 then
    ((peerStream s v total 1).getD []).flatMap fun r => moveOut s.peerMem r.2.1 r.2.2 r.1
  else moveOut s.hostMem (v.toNat / 256 * 4096) total 0

/-- LIVECAP in the header of a saved stream. -/
def savedCap (s : State) (v : Word) : Nat := Memory.load (loadStream s v 64) 8 8

/-- Restore device memory from a saved stream. -/
def restoreStream (s : State) (v : Word) : State :=
  let cap := savedCap s v
  let stream := loadStream s v (cap + 64)
  { s with mem := splice s.mem 0 cap (moveOut stream 64 cap 0), poison := s.poison.filter (fun e => cap ≤ 8 * e.1),
           stamped := s.stamped.filter fun e => cap ≤ 4096 * e.1 }

/-- CHECKPOINT_COMPLETE (R397): once the module is in D0 and no task runs. A checkpoint that one of its peers cannot serve ends
with status 2, be it that the peer is down or that it gives no translation (log entry 28). -/
def execCheckpointComplete (s : State) : Step :=
  match s.ckpt with
  | none => .next s
  | some (restore, v) =>
    if s.sillStopped || !s.busClear || s.pstate ≠ 0 || s.cores.any fun e => e.2.task.isSome then .next s
    else
      let s1 := { s with ckpt := none }
      let peers := (List.range 16).filter fun w => v.getLsbD (8 + w)
      let size := (if restore then savedCap s v else s.liveCap) + 64
      let lost := peers.isEmpty || windowDown s peers || (peerStream s v size (if restore then 1 else 2)).isNone
      if v.getLsbD 63 && lost then .next (postEvent s1 7 0 2 0)
      else if !restore then .next (postEvent (saveStream s1 v (checkpointStream s) (s.liveCap + 64)) 7 0 0 0)
      else if s.liveCap < savedCap s v then .next (postEvent s1 7 0 1 0)
      else .next (postEvent (restoreStream s1 v) 7 0 0 0)

end Sys2Proof.Machine
end

