-- ==== Sys2Proof/Machine/Peers.lean ====
section
/-! DEFINITION. The events of the peers (R5, R391 to R393). -/

namespace Sys2Proof.Machine

/-! ## Requests that a peer sends (R392) -/

/-- Answer a peer: the cause code of a fault, or 0 with the value. -/
def answerPeer (s : State) (code v : Nat) : State := { s with peerAnswers := s.peerAnswers ++ [(code, v)] }

/-- On whose behalf a peer's request is made: the context of PASID, bound by no lease. -/
def whoPeer (s : State) (r : PeerReq) : Who :=
  { whoCtx 0 r.asid (s.context r.asid).ptroot r.handler with agent := 641 }

/-- The format of a reduce copy's element: FP32 or BF16 by its width for FADD, RNS32 for RADD (R230, R231). -/
def reduceFmt (r : PeerReq) : Nat := if r.kind = 5 then 11 else if r.bytes = 4 then 10 else 8

/-- The operation of a request that is an atomic; a reduction is none that host memory serves (R231). -/
def peerOp (r : PeerReq) : Option AmoOp :=
  match r.kind with
  | 3 => some r.op
  | 4 | 5 => some .min
  | _ => none

/-- Perform a peer's request at its home: kind 1 a read, 2 a write, 3 an atomic, 4 and 5 an element of a reduce copy under FADD
and RADD (R281, R391). The pool window belongs to no context and
gives PROT. -/
def performPeer (s : State) (r : PeerReq) : State :=
  if inPool r.addr then answerPeer s Cause.prot.code 0
  else match checkAccess s (whoPeer s r) (min r.kind 3) r.addr r.bytes (peerOp r) with
    | .error f => answerPeer (s.logFault (whoPeer s r) f 0) f.cause.code 0
    | .ok (s1, p) =>
      let m := readPlace s1 p r.bytes
      match r.kind with
      | 1 => answerPeer s1 0 m
      | 2 => answerPeer (writePlace s1 (whoPeer s r) p r.bytes r.data.toNat) 0 0
      | 4 | 5 => answerPeer (writePlace s1 (whoPeer s r) p r.bytes (combine (r.kind - 3) (reduceFmt r) m r.data.toNat)) 0 0
      | _ => answerPeer (writePlace s1 (whoPeer s r) p r.bytes (amoNew r.op r.bytes m r.data.toNat r.data2.toNat)) 0 m

/-- The request is one that a peer can make: an access of 1, 2, 4 or 8 bytes, or an element of a reduce copy. -/
def peerShape (r : PeerReq) : Bool :=
  match r.kind with
  | 1 | 2 | 3 => [1, 2, 4, 8].contains r.bytes
  | 4 => r.bytes = 2 || r.bytes = 4
  | 5 => r.bytes = 4
  | _ => false

/-- PEER_REQUEST (R391, R392): it waits while an engine owns the line (R320). In D2 the links are idle (R308). -/
def execPeerRequest (r : PeerReq) (s : State) : Step :=
  .next (if !peerShape r || s.recalled (whoPeer s r) (min r.kind 3) r.addr r.bytes then s else performPeer s r)

/-! ## Ports and peers that go down (R393) -/

/-- A copy that runs has its source or its destination in a window (R384). -/
def copyUses (w : PeerWindow) (x : Command) : Bool :=
  let d := copyDesc x.descA
  let meets (a : Word) : Bool := w.has a.toNat || w.has (a + BitVec.ofNat 64 (d.rowBytes - 1)).toNat
  x.eng = 1 && x.stage = .run && d.rows.any fun r =>
    meets (copyDest x d r.1 r.2) || match x.instr with
      | .cfill .. => false
      | _ => meets (copySource x d r.1 r.2)

/-- A running copy stops because its peer is down: its fault address is that of the first destination element in source order
that it has not seen performed (R384), of its digest where only that is still to be written, and free where nothing is (log entry
99). -/
def stopCopy (s : State) (core : Nat) (x : Command) : State :=
  let d := copyDesc x.descA
  let total := d.n0 * d.n1 * d.n2
  let i := x.pos
  let dst :=
    if i < total then copyDest x d (i / (d.n0 * d.n1)) (i / d.n0 % d.n1) + BitVec.ofNat 64 (i % d.n0 * (fmtBits d.fmt / 8))
    else if i = total && d.digest then d.xaddr else Config.copyAddress s.freeCount
  failCommand s core x (accAbort s (s.whoCmd core x) .peerdn 2 dst) 0

/-- The copy that a core holds under a key stops if it runs through a window. -/
def stopIn (w : PeerWindow) (s : State) (u : Nat × Nat) : State :=
  match (s.core u.1).slot u.2 with
  | some x => if copyUses w x then stopCopy s u.1 x else s
  | none => s

/-- A window's peer goes down (R393): STATE becomes 0, its remote translations are invalidated, the copies that run through it
stop, and an event is written. Later accesses fault PEERDN. -/
def windowGone (s : State) (k : Nat) : State :=
  let w := Table.get {} s.pwin k
  let s1 := { s with pwin := Table.set {} s.pwin k { w with up := false },
                     remote := s.remote.filter fun t => t.win ≠ k }
  let slots := s1.cores.flatMap fun c => c.2.slots.map fun e => (c.1, e.1)
  postEvent (slots.foldl (stopIn w) s1) 5 0 w.peer.toNat k

/-- The windows of a state that are up and meet a condition go down. -/
def windowsGone (s : State) (lost : PeerWindow → Bool) : State :=
  ((s.pwin.map Prod.fst).filter fun k => let w := Table.get {} s.pwin k; w.up && lost w).foldl windowGone s

/-- A port is down: a window whose every port is down loses its peer. -/
def portDown (s : State) (port : Nat) : State :=
  let live := setBit s.ports port false
  windowsGone { s with ports := live } fun w => w.ports.setWidth 24 &&& live = 0

/-- LINK_LOSS. -/
def execLinkLoss (port : Nat) (s : State) : Step := .next (portDown s port)
/-- PORT_ACK_TIMEOUT. -/
def execPortAckTimeout (port : Nat) (s : State) : Step := .next (portDown s port)
/-- PEER_RESET_SIGNAL. -/
def execPeerResetSignal (peer : Nat) (s : State) : Step := .next (windowsGone s fun w => w.peer.toNat = peer)
/-- PEER_POWER_DOWN_SIGNAL. -/
def execPeerPowerDownSignal (peer : Nat) (s : State) : Step := .next (windowsGone s fun w => w.peer.toNat = peer)

/-- REFCNT_SYNC (R5, R391). -/
def execRefcntSync (v : Word) (s : State) : Step := .next { s with refcnt := v.toNat }

end Sys2Proof.Machine
end

