-- ==== Sys2Proof/Machine/Scalar.lean ====
section
/-! DEFINITION. Scalar integer instructions, MAJ 1, 2 and 3 (R96, R97, R66). -/

namespace Sys2Proof.Machine

/-- Division of R66 at 64 bits. -/
def sdiv64 (a b : Word) : Word :=
  if b = 0 then BitVec.allOnes 64 else if a = BitVec.intMin 64 && b = BitVec.allOnes 64 then a else a.sdiv b
/-- Division of R66 at 64 bits. -/
def udiv64 (a b : Word) : Word := if b = 0 then BitVec.allOnes 64 else a / b
/-- Remainder of R66 at 64 bits. -/
def srem64 (a b : Word) : Word :=
  if b = 0 then a else if a = BitVec.intMin 64 && b = BitVec.allOnes 64 then 0 else a.srem b
/-- Remainder of R66 at 64 bits. -/
def urem64 (a b : Word) : Word := if b = 0 then a else a % b

/-- One or zero. -/
def boolWord (b : Bool) : Word := if b then 1 else 0

/-- Leading zero bits, 0 to 64. -/
def clz64 (a : Word) : Nat := if a = 0 then 64 else 63 - Nat.log2 a.toNat

/-- One bits among the low `n` of a number. -/
def popcount : Nat → Nat → Nat
  | 0, _ => 0
  | n + 1, x => x % 2 + popcount n (x / 2)

/-- The high 64 bits of a 128-bit product. -/
def mulHigh (x y : Int) : Word := BitVec.ofInt 64 (x * y / (2 ^ 64 : Nat))

/-- An immediate extended to 64 bits (R96). -/
def immWord (i : BitVec 32) : Word := i.signExtend 64

/-- ADD (R96). -/
def opAdd (a b : Word) : Word := a + b
/-- ADD (R96). -/
def execAdd (sd sa sb : SReg) (s : State) : Step := writeScalar s [sa, sb] sd (opAdd (s.getS sa) (s.getS sb))

/-- SUB (R96). -/
def opSub (a b : Word) : Word := a - b
/-- SUB (R96). -/
def execSub (sd sa sb : SReg) (s : State) : Step := writeScalar s [sa, sb] sd (opSub (s.getS sa) (s.getS sb))

/-- AND (R96). -/
def opAnd (a b : Word) : Word := a &&& b
/-- AND (R96). -/
def execAnd (sd sa sb : SReg) (s : State) : Step := writeScalar s [sa, sb] sd (opAnd (s.getS sa) (s.getS sb))

/-- OR (R96). -/
def opOr (a b : Word) : Word := a ||| b
/-- OR (R96). -/
def execOr (sd sa sb : SReg) (s : State) : Step := writeScalar s [sa, sb] sd (opOr (s.getS sa) (s.getS sb))

/-- XOR (R96). -/
def opXor (a b : Word) : Word := a ^^^ b
/-- XOR (R96). -/
def execXor (sd sa sb : SReg) (s : State) : Step := writeScalar s [sa, sb] sd (opXor (s.getS sa) (s.getS sb))

/-- SHL (R96). -/
def opShl (a b : Word) : Word := a <<< (b.toNat % 64)
/-- SHL (R96). -/
def execShl (sd sa sb : SReg) (s : State) : Step := writeScalar s [sa, sb] sd (opShl (s.getS sa) (s.getS sb))

/-- SHR (R96). -/
def opShr (a b : Word) : Word := a >>> (b.toNat % 64)
/-- SHR (R96). -/
def execShr (sd sa sb : SReg) (s : State) : Step := writeScalar s [sa, sb] sd (opShr (s.getS sa) (s.getS sb))

/-- SRA (R96). -/
def opSra (a b : Word) : Word := a.sshiftRight (b.toNat % 64)
/-- SRA (R96). -/
def execSra (sd sa sb : SReg) (s : State) : Step := writeScalar s [sa, sb] sd (opSra (s.getS sa) (s.getS sb))

/-- SLT (R96). -/
def opSlt (a b : Word) : Word := boolWord (a.slt b)
/-- SLT (R96). -/
def execSlt (sd sa sb : SReg) (s : State) : Step := writeScalar s [sa, sb] sd (opSlt (s.getS sa) (s.getS sb))

/-- SLTU (R96). -/
def opSltu (a b : Word) : Word := boolWord (a.ult b)
/-- SLTU (R96). -/
def execSltu (sd sa sb : SReg) (s : State) : Step := writeScalar s [sa, sb] sd (opSltu (s.getS sa) (s.getS sb))

/-- MIN (R96). -/
def opMin (a b : Word) : Word := if a.slt b then a else b
/-- MIN (R96). -/
def execMin (sd sa sb : SReg) (s : State) : Step := writeScalar s [sa, sb] sd (opMin (s.getS sa) (s.getS sb))

/-- MAX (R96). -/
def opMax (a b : Word) : Word := if a.slt b then b else a
/-- MAX (R96). -/
def execMax (sd sa sb : SReg) (s : State) : Step := writeScalar s [sa, sb] sd (opMax (s.getS sa) (s.getS sb))

/-- MINU (R96). -/
def opMinu (a b : Word) : Word := if a.ult b then a else b
/-- MINU (R96). -/
def execMinu (sd sa sb : SReg) (s : State) : Step := writeScalar s [sa, sb] sd (opMinu (s.getS sa) (s.getS sb))

/-- MAXU (R96). -/
def opMaxu (a b : Word) : Word := if a.ult b then b else a
/-- MAXU (R96). -/
def execMaxu (sd sa sb : SReg) (s : State) : Step := writeScalar s [sa, sb] sd (opMaxu (s.getS sa) (s.getS sb))

/-- MUL (R96). -/
def opMul (a b : Word) : Word := a * b
/-- MUL (R96). -/
def execMul (sd sa sb : SReg) (s : State) : Step := writeScalar s [sa, sb] sd (opMul (s.getS sa) (s.getS sb))

/-- MULH (R96). -/
def opMulh (a b : Word) : Word := mulHigh a.toInt b.toInt
/-- MULH (R96). -/
def execMulh (sd sa sb : SReg) (s : State) : Step := writeScalar s [sa, sb] sd (opMulh (s.getS sa) (s.getS sb))

/-- MULHU (R96). -/
def opMulhu (a b : Word) : Word := mulHigh a.toNat b.toNat
/-- MULHU (R96). -/
def execMulhu (sd sa sb : SReg) (s : State) : Step := writeScalar s [sa, sb] sd (opMulhu (s.getS sa) (s.getS sb))

/-- DIV (R96). -/
def opDiv (a b : Word) : Word := sdiv64 a b
/-- DIV (R96). -/
def execDiv (sd sa sb : SReg) (s : State) : Step := writeScalar s [sa, sb] sd (opDiv (s.getS sa) (s.getS sb))

/-- DIVU (R96). -/
def opDivu (a b : Word) : Word := udiv64 a b
/-- DIVU (R96). -/
def execDivu (sd sa sb : SReg) (s : State) : Step := writeScalar s [sa, sb] sd (opDivu (s.getS sa) (s.getS sb))

/-- REM (R96). -/
def opRem (a b : Word) : Word := srem64 a b
/-- REM (R96). -/
def execRem (sd sa sb : SReg) (s : State) : Step := writeScalar s [sa, sb] sd (opRem (s.getS sa) (s.getS sb))

/-- REMU (R96). -/
def opRemu (a b : Word) : Word := urem64 a b
/-- REMU (R96). -/
def execRemu (sd sa sb : SReg) (s : State) : Step := writeScalar s [sa, sb] sd (opRemu (s.getS sa) (s.getS sb))

/-- SEL (R96). -/
def execSel (sd sa sb sc : SReg) (s : State) : Step :=
  writeScalar s [sa, sb, sc] sd (if s.getS sc ≠ 0 then s.getS sa else s.getS sb)

/-- CLZ (R96). -/
def execClz (sd sa : SReg) (s : State) : Step := writeScalar s [sa] sd (BitVec.ofNat 64 (clz64 (s.getS sa)))

/-- POPC (R96). -/
def execPopc (sd sa : SReg) (s : State) : Step := writeScalar s [sa] sd (BitVec.ofNat 64 (popcount 64 (s.getS sa).toNat))

/-- ADDI (R96). -/
def opAddi (a i : Word) : Word := a + i
/-- ADDI (R96). -/
def execAddi (sd sa : SReg) (imm : BitVec 32) (s : State) : Step :=
  writeScalar s [sa] sd (opAddi (s.getS sa) (immWord imm))

/-- ANDI (R96). -/
def opAndi (a i : Word) : Word := a &&& i
/-- ANDI (R96). -/
def execAndi (sd sa : SReg) (imm : BitVec 32) (s : State) : Step :=
  writeScalar s [sa] sd (opAndi (s.getS sa) (immWord imm))

/-- ORI (R96). -/
def opOri (a i : Word) : Word := a ||| i
/-- ORI (R96). -/
def execOri (sd sa : SReg) (imm : BitVec 32) (s : State) : Step :=
  writeScalar s [sa] sd (opOri (s.getS sa) (immWord imm))

/-- XORI (R96). -/
def opXori (a i : Word) : Word := a ^^^ i
/-- XORI (R96). -/
def execXori (sd sa : SReg) (imm : BitVec 32) (s : State) : Step :=
  writeScalar s [sa] sd (opXori (s.getS sa) (immWord imm))

/-- SHLI (R96). -/
def opShli (a i : Word) : Word := a <<< (i.toNat % 64)
/-- SHLI (R96). -/
def execShli (sd sa : SReg) (imm : BitVec 32) (s : State) : Step :=
  writeScalar s [sa] sd (opShli (s.getS sa) (immWord imm))

/-- SHRI (R96). -/
def opShri (a i : Word) : Word := a >>> (i.toNat % 64)
/-- SHRI (R96). -/
def execShri (sd sa : SReg) (imm : BitVec 32) (s : State) : Step :=
  writeScalar s [sa] sd (opShri (s.getS sa) (immWord imm))

/-- SRAI (R96). -/
def opSrai (a i : Word) : Word := a.sshiftRight (i.toNat % 64)
/-- SRAI (R96). -/
def execSrai (sd sa : SReg) (imm : BitVec 32) (s : State) : Step :=
  writeScalar s [sa] sd (opSrai (s.getS sa) (immWord imm))

/-- SLTI (R96). -/
def opSlti (a i : Word) : Word := boolWord (a.slt i)
/-- SLTI (R96). -/
def execSlti (sd sa : SReg) (imm : BitVec 32) (s : State) : Step :=
  writeScalar s [sa] sd (opSlti (s.getS sa) (immWord imm))

/-- LUI (R96). -/
def opLui (a i : Word) : Word := (i <<< 32) ||| (a &&& 0xFFFFFFFF)
/-- LUI (R96). -/
def execLui (sd sa : SReg) (imm : BitVec 32) (s : State) : Step :=
  writeScalar s [sa] sd (opLui (s.getS sa) (immWord imm))

/-- LI (R96). -/
def execLi (sd : SReg) (imm : BitVec 32) (s : State) : Step := writeScalar s [] sd (immWord imm)

end Sys2Proof.Machine
end

