-- ==== Sys2Proof/Machine/Task.lean ====
section
/-! DEFINITION. Barrier, truss and task instructions, MAJ 54 and 56 (R236 to R246). -/

namespace Sys2Proof.Machine

/-- Apply a change to the core of the hart whose word runs, naming barrier `n`. -/
def onBar (s : State) (n : Nat) (f : State → State) : State := f (s.setCurCore (s.curCore.use n))

/-- BWAIT or BTEST has read barrier `n`, and so acquires what arrived in the phases before (R232, R240). -/
def acquireBar (s : State) (n : Nat) : State := s.sync.setCur (s.sync.cur.acquire s.freeCount n (s.curCore.barAt n).epoch)

/-- The word `i` acts on barriers or terms at the retire point: once every older word has retired its effect is applied and
it completes; until then the scalar lane holds it (R239, R250), and `sd` awaits its result. -/
def atRetire (i : Instr) (sd : SReg) (s : State) (srcs : List SReg) (ok : Bool) (act : State → State)
    (order : Option Order := none) : Step :=
  if s.busy srcs then .next (s.hold .reg)
  else if !ok then settle (ill s)
  else if !s.settled then later s i sd none order
  else .next (finish s (act s).pass)

/-- BINIT (R238). -/
def execBinit (sa : SReg) (bar : BitVec 6) (s : State) : Step :=
  let n := (s.getS sa).toNat
  atRetire (.binit sa bar) 0 s [sa] (1 ≤ n && n ≤ 4095) fun s =>
    onBar s bar.toNat fun s =>
      let b := s.curCore.barAt bar.toNat
      s.setCurCore (s.curCore.setBar bar.toNat { expect := n, epoch := b.epoch + if b.phase then 1 else 0 })

/-- BARV (R239). -/
def execBarv (sa : SReg) (bar : BitVec 6) (s : State) : Step :=
  let n := (s.getS sa).toNat
  atRetire (.barv sa bar) 0 s [sa] (n ≤ 4095) fun s => onBar s.sync bar.toNat fun s => normalArrivals s s.curCoreNo bar.toNat (.hart (s.focus % 4)) n

/-- The context whose task issues an arrival. -/
def State.taskAsid (s : State) : BitVec 16 := (s.curCore.task.map Task.asid).getD s.cur.asid

/-- BARV.R (R239): the arrivals go on their way, to be applied by REMOTE_ARRIVAL. -/
def execBarvR (sa sb : SReg) (bar : BitVec 6) (s : State) : Step :=
  let n := (s.getS sa).toNat
  let target := s.getS sb
  if s.busy [sa, sb] then .next (s.hold .reg)
  else if 4095 < n then settle (ill s)
  else if 128 ≤ target.toNat || (s.core target.toNat).lacks.getLsbD 0 then
    settle (fail s { cause := .prot, kind := 0, val := target })
  else atRetire (.barvR sa sb bar) 0 s [sa, sb] true fun s =>
    let a : Arrival :=
      { core := target.toNat, bar := bar.toNat, count := n, fromCore := s.curCoreNo, asid := s.taskAsid,
        launch := s.curCore.task.map Task.launch, slot := s.focus % 4, n := (s.curCore.task.map Task.n).getD 0 }
    onBar s.sync bar.toNat fun s => if n = 0 then s else { s with arrivals := s.arrivals ++ [a] }

/-- The cause of a code (R133). -/
def Cause.ofCode (n : Nat) : Cause :=
  match n with
  | 0x02 => .hdr
  | 0x03 => .page
  | 0x04 => .prot
  | 0x05 => .lease
  | 0x06 => .uninit
  | 0x07 => .empty
  | 0x08 => .loopovf
  | 0x09 => .stkflt
  | 0x0A => .retempty
  | 0x0B => .range
  | 0x0C => .mchk
  | 0x0D => .brk
  | 0x0E => .trapi
  | 0x0F => .peerdn
  | 0x10 => .seal
  | 0x11 => .atomhost
  | _ => .ill

/-- The fault that a barrier in error hands to BWAIT.T (R240). -/
def Barrier.fault (b : Barrier) : AccFault :=
  { cause := Cause.ofCode (b.fcode.toNat / 256), kind := b.fcode.toNat / 64 % 4, val := b.faddr }

/-- The barrier that a word acts on or reads. -/
def barNamed : Instr → Option (BitVec 6)
  | .binit _ b | .barv _ b | .berr _ _ b | .berrClr b | .btest _ b | .btestA _ b => some b
  | _ => none

/-- A word in flight is still to act on a barrier or to read it. -/
def Hart.barOpen (h : Hart) (bar : BitVec 6) : Bool := h.window.any fun f => match f.held with
  | some (i, _) => barNamed i = some bar
  | none => false

/-- BWAIT in both forms: `t` is the aux bit T (R240). It waits for its barrier and for the hart's own older words on it, not for
the lanes; but where it acquires a register that the hart has used too early, for these too. -/
def waitBar (t : Bool) (sd sa : SReg) (bar : BitVec 6) (s : State) : Step :=
  let b := s.curCore.barAt bar.toNat
  let parity := (s.getS sa).getLsbD 0
  if s.busy [sa] then .next (s.hold .reg)
  else if s.cur.barOpen bar || (!s.settled && s.cur.foreign.any fun f => f.bar = bar.toNat && f.touched) then .next (s.hold .lanes)
  else if !b.err && b.phase != parity then .next (s.hold (.bwait bar.toNat parity))
  else if b.err && t then settle (fail s b.fault)
  else .next (finish s ((onBar s bar.toNat fun s => acquireBar (s.putS sd b.word (s.taintS sa)) bar.toNat).pass))

/-- BWAIT (R240). -/
def execBwait (sd sa : SReg) (bar : BitVec 6) (s : State) : Step := waitBar false sd sa bar s
/-- BWAIT.T (R240). -/
def execBwaitT (sd sa : SReg) (bar : BitVec 6) (s : State) : Step := waitBar true sd sa bar s

/-- BTEST (R240): it may be an acquire, so that in flight no younger access is made ahead of it (R317). -/
def execBtest (sd : SReg) (bar : BitVec 6) (s : State) : Step :=
  atRetire (.btest sd bar) sd s [] true (fun s =>
    onBar s bar.toNat fun s => acquireBar (s.putS sd (s.curCore.barAt bar.toNat).word false) bar.toNat) (some .test)

/-- BTEST.A (R240). -/
def execBtestA (sd : SReg) (bar : BitVec 6) (s : State) : Step :=
  atRetire (.btestA sd bar) sd s [] true fun s => onBar s bar.toNat fun s => s.putS sd (s.curCore.barAt bar.toNat).faddr false

/-- BERR (R240). -/
def execBerr (sa sb : SReg) (bar : BitVec 6) (s : State) : Step :=
  let code := (s.getS sa).toNat
  atRetire (.berr sa sb bar) 0 s [sa, sb] (code / 2 ^ 16 = 0 && 1 ≤ code / 256 && code / 256 ≤ 0x11) fun s =>
    onBar s.sync bar.toNat fun s => errorArrival s s.curCoreNo bar.toNat (BitVec.ofNat 16 code) (s.getS sb) (.hart (s.focus % 4))

/-- BERR.CLR (R240). -/
def execBerrClr (bar : BitVec 6) (s : State) : Step :=
  atRetire (.berrClr bar) 0 s [] true fun s => onBar s bar.toNat fun s =>
    s.setCurCore (s.curCore.setBar bar.toNat { s.curCore.barAt bar.toNat with err := false, fcode := 0, faddr := 0 })

/-! ## The truss (R242) -/

/-- A value that TRSET accepts. -/
def termOk (t : Word) : Bool := t.field 40 24 = 0 && t.field 36 2 ≠ 3 && (!termEn t || !(termConds t).isEmpty)

/-- TRSET (R242): the term is written and evaluated (R241). -/
def execTrset (sa : SReg) (n : BitVec 4) (s : State) : Step :=
  let t := s.getS sa
  atRetire (.trset sa n) 0 s [sa] (termOk t) fun s =>
    let c := (termConds t).foldl (fun c p => c.use p.2) s.curCore
    fireTerm (s.setCurCore { c with truss := Table.set 0 c.truss n.toNat t }) s.curCoreNo n.toNat

/-- TRCLR (R242). -/
def execTrclr (n : BitVec 4) (s : State) : Step :=
  atRetire (.trclr n) 0 s [] true fun s =>
    let c := s.curCore
    s.setCurCore { c with truss := Table.set 0 c.truss n.toNat 0,
                          pending := Table.set none c.pending (termKey (Table.get 0 c.truss n.toNat)) none }

/-! ## Tasks (R243 to R246) -/

/-- A command of a core that some of its harts issued has started, or a follow-on command of their copies is to be issued. -/
def Core.working (c : Core) (mine : Nat → Bool) : Bool :=
  c.slots.any (fun e => match e.2 with
    | some x => mine x.hart && x.stage ≠ .parked
    | none => false) || c.follows.any (fun f => mine f.hart)

/-- The hart waits at TASKEND for a command that it issued and that has started, or for a follow-on command of its copies. The
last of a gang waits for every started command of the core, those among them that a term has started after their hart had
finished: a launch completes only when every access of its commands is performed (R243, R347). -/
def taskBusy (s : State) (k : Nat) : Bool :=
  let last := (gangOf s (k / 4)).all fun j => j = k || (s.hart j).status = .finished
  (s.core (k / 4)).working fun j => last || j = k

/-- EndTask begins: parked commands are discarded and the commit starts (R243, R340). A core without a task is released. -/
def beginEnd (s : State) (core : Nat) : State :=
  let s := dropCommands s core
  match (s.core core).task with
  | some t => s.setCore core { s.core core with task := some { t with phase := .commit, moved := 0 } }
  | none => releaseCore s core

/-- TASKEND (R243): the deferral queue is discarded (R200). -/
def execTaskend (s : State) : Step :=
  if s.cur.handler then settle (ill s)
  else if !s.settled || taskBusy s s.focus then .next (s.hold .taskend)
  else
    let s1 := finish s (s.setCur { s.cur with status := .finished, defer := [] })
    .next (if (gangOf s1 s1.curCoreNo).all fun k => (s1.hart k).status = .finished then beginEnd s1 s1.curCoreNo else s1)

/-- A packet is placed and the status written (R244); an accepted one makes a BUFFERED task unrerunnable. -/
def submit (s0 s : State) (srcs : List SReg) (sd : SReg) (q : Word) (bs : List Byte) : Step :=
  match enqueuePacket s s.taskAsid q bs with
  | .error f => settle (fail s0 f)
  | .ok (s1, st) =>
    let s2 := if st = 0 then s1.markQueues.fix s1.curCoreNo else s1
    .next (finish s0 (s2.putS sd (BitVec.ofNat 64 st) (srcs.any s0.taintS)).pass)

/-- TASKQ (R244). -/
def execTaskq (sd sa sb : SReg) (s : State) : Step :=
  let a := s.getS sa
  if s.busy [sa, sb] then .next (s.hold .reg)
  else if !s.settled then later s (.taskq sd sa sb) sd (some ⟨16, 0, a, 64⟩)
  else if s.recalled s.who 1 a 64 then .next (s.hold .lanes)
  else if a.toNat % 64 ≠ 0 then settle (fail s (accFault .prot 1 a))
  else match readRun s s.who a 8 8 with
    | .error f => settle (fail s f)
    | .ok (s1, bs) => submit s s1 [sa, sb] sd (s.getS sb) bs

/-- LAUNCH (R244). -/
def execLaunch (sd sa sb sc : SReg) (s : State) : Step :=
  let a := s.getS sa
  if s.busy [sa, sb, sc] then .next (s.hold .reg)
  else if !s.settled then later s (.launch sd sa sb sc) sd none
  else if a.toNat % 64 ≠ 0 then settle (fail s (accFault .prot 0 a))
  else submit s s [sa, sb, sc] sd (s.getS sc) (launchPacketBytes a ((s.getS sb).setWidth 32))

/-- LEASEX in both forms: the request joins those that LEASEX_RESOLVED answers (R245). -/
def askLease (i : Instr) (write : Bool) (sa sb : SReg) (bar : BitVec 6) (s : State) : Step :=
  let len := s.getS sb
  atRetire i 0 s [sa, sb] (1 ≤ len.toNat && len.toNat ≤ 2 ^ 40) fun s =>
    let h := s.cur
    let r : LeaseReq :=
      { core := s.curCoreNo, bar := bar.toNat, launch := (s.curCore.task.map Task.launch).getD 0,
        n := (s.curCore.task.map Task.n).getD 0, base := s.getS sa,
        len := len, write := write, asid := h.asid, ptroot := h.ptroot, corr := h.corr }
    onBar s bar.toNat fun s => { s with leasexs := s.leasexs ++ [r] }

/-- LEASEX (R245). -/
def execLeasex (sa sb : SReg) (bar : BitVec 6) (s : State) : Step := askLease (.leasex sa sb bar) false sa sb bar s
/-- LEASEX.W (R245). -/
def execLeasexW (sa sb : SReg) (bar : BitVec 6) (s : State) : Step := askLease (.leasexW sa sb bar) true sa sb bar s

/-- What VESTQ answers for a direction (R246): of a grant that a lender's reset has made void, the bytes that were granted (log
entry 95). -/
def vestqValue (c : Core) (dir : Nat) : Nat :=
  match dir with
  | 4 => c.grantBytes 0 + c.grantBytes 1 + c.grantBytes 2 + c.grantBytes 3
  | 5 => c.spb c.partw
  | d => c.grantBytes d

/-- VESTQ (R246). -/
def execVestq (sd : SReg) (dir : BitVec 3) (s : State) : Step :=
  writeScalar s [] sd (BitVec.ofNat 64 (vestqValue s.curCore dir.toNat))

end Sys2Proof.Machine
end

