-- ==== Sys2Proof/Machine/VecArith.lean ====
section
/-! DEFINITION. Vector arithmetic, MAJ 21 (R151 to R157). -/

namespace Sys2Proof.Machine

/-- The classes of FD that an instruction of MAJ 21 accepts (R152). -/
def arithClass (op : Arith) (fd : Nat) : Bool :=
  match fmtClass fd, op with
  | .int _, .sqrt | .int _, .exp2 => false
  | .int _, _ => true
  | .float, .and | .float, .or | .float, .xor | .float, .not | .float, .shl | .float, .shr => false
  | .float, _ => true
  | .rns, .add | .rns, .sub | .rns, .mul | .rns, .fma | .rns, .fms | .rns, .fnma | .rns, .neg | .rns, .cvt => true
  | .tick, .add | .tick, .min | .tick, .max | .tick, .clamp | .tick, .cvt => true
  | _, _ => false

/-- A signed or unsigned integer format. -/
def isIntFmt (c : Nat) : Bool :=
  match fmtClass c with
  | .int _ => true
  | _ => false

/-- The formats that an instruction of MAJ 21 reads: sources, then FD (R153). -/
def arithReads (op : Arith) (f : BitVec 32) : List Nat :=
  match op with
  | .abs | .neg | .sqrt | .exp2 | .not | .cvt => [fFA f, fFD f]
  | .fma | .fms | .fnma | .clamp => [fFA f, fFB f, fFC f, fFD f]
  | _ => [fFA f, fFB f, fFD f]

/-- The widening multiply-add of R58 and R153. -/
def widening (f : BitVec 32) : Bool :=
  fFA f = fFB f && (fFA f = 8 || fFA f = 9) && fFC f = 10 && fFD f = 10

/-- The agreement and width rules of R58 and R153. -/
def arithAgree (op : Arith) (f : BitVec 32) (ew : Nat) : Bool :=
  let fd := fFD f
  match op with
  | .cvt => max (fmtBits (fFA f)) (fmtBits fd) = ew
  | .scale => fFA f = fd && fmtBits fd = ew && fmtBits (fFB f) = ew && fmtClass (fFB f) = .int true
  | .shl | .shr => fFA f = fd && fmtBits fd = ew && fmtBits (fFB f) = ew && isIntFmt (fFB f)
  | .fma | .fms | .fnma =>
    fmtBits fd = ew && ((fFA f = fd && fFB f = fd && fFC f = fd) || (widening f && ew = 32))
  | op => fmtBits fd = ew && (arithReads op f).all (fun c => c = fd)

/-- R57, R58, R152 and R153 for an instruction of MAJ 21. -/
def arithOk (op : Arith) (f : BitVec 32) (ew : Nat) : Bool :=
  fmtReadOk f (arithReads op f) (some (fFD f)) (op = .cvt) && fmtVectorOk (arithReads op f)
    && arithClass op (fFD f) && arithAgree op f ew

/-- The operand of a field that an instruction does not use. -/
def noOp : VOp := ⟨.row, false, 0⟩

/-- An instruction of MAJ 21. -/
def arith (op : Arith) (vd va vb vc : VOp) (fmt : FReg) (mask : MReg) (s : State) : Step :=
  let f := s.getF fmt
  lane s [] (arithOk op f (ewOf s.vtype)) f mask 0 (.arith op vd va vb vc)

/-- VADD (R152, R154, R155). -/
def execVadd (vd va vb : VOp) (fmt : FReg) (mask : MReg) (s : State) : Step :=
  arith .add vd va vb noOp fmt mask s

/-- VSUB (R152, R154, R155). -/
def execVsub (vd va vb : VOp) (fmt : FReg) (mask : MReg) (s : State) : Step :=
  arith .sub vd va vb noOp fmt mask s

/-- VMUL (R152, R154, R155). -/
def execVmul (vd va vb : VOp) (fmt : FReg) (mask : MReg) (s : State) : Step :=
  arith .mul vd va vb noOp fmt mask s

/-- VFMA (R152, R154, R155). -/
def execVfma (vd va vb vc : VOp) (fmt : FReg) (mask : MReg) (s : State) : Step :=
  arith .fma vd va vb vc fmt mask s

/-- VFMS (R152, R154, R155). -/
def execVfms (vd va vb vc : VOp) (fmt : FReg) (mask : MReg) (s : State) : Step :=
  arith .fms vd va vb vc fmt mask s

/-- VFNMA (R152, R154, R155). -/
def execVfnma (vd va vb vc : VOp) (fmt : FReg) (mask : MReg) (s : State) : Step :=
  arith .fnma vd va vb vc fmt mask s

/-- VMIN (R152, R154, R155). -/
def execVmin (vd va vb : VOp) (fmt : FReg) (mask : MReg) (s : State) : Step :=
  arith .min vd va vb noOp fmt mask s

/-- VMAX (R152, R154, R155). -/
def execVmax (vd va vb : VOp) (fmt : FReg) (mask : MReg) (s : State) : Step :=
  arith .max vd va vb noOp fmt mask s

/-- VABS (R152, R154, R155). -/
def execVabs (vd va : VOp) (fmt : FReg) (mask : MReg) (s : State) : Step :=
  arith .abs vd va noOp noOp fmt mask s

/-- VNEG (R152, R154, R155). -/
def execVneg (vd va : VOp) (fmt : FReg) (mask : MReg) (s : State) : Step :=
  arith .neg vd va noOp noOp fmt mask s

/-- VDIV (R152, R154, R155). -/
def execVdiv (vd va vb : VOp) (fmt : FReg) (mask : MReg) (s : State) : Step :=
  arith .div vd va vb noOp fmt mask s

/-- VSQRT (R152, R154, R155). -/
def execVsqrt (vd va : VOp) (fmt : FReg) (mask : MReg) (s : State) : Step :=
  arith .sqrt vd va noOp noOp fmt mask s

/-- VEXP2 (R152, R154, R155). -/
def execVexp2 (vd va : VOp) (fmt : FReg) (mask : MReg) (s : State) : Step :=
  arith .exp2 vd va noOp noOp fmt mask s

/-- VAND (R156). -/
def execVand (vd va vb : VOp) (fmt : FReg) (mask : MReg) (s : State) : Step :=
  arith .and vd va vb noOp fmt mask s

/-- VOR (R156). -/
def execVor (vd va vb : VOp) (fmt : FReg) (mask : MReg) (s : State) : Step :=
  arith .or vd va vb noOp fmt mask s

/-- VXOR (R156). -/
def execVxor (vd va vb : VOp) (fmt : FReg) (mask : MReg) (s : State) : Step :=
  arith .xor vd va vb noOp fmt mask s

/-- VNOT (R156). -/
def execVnot (vd va : VOp) (fmt : FReg) (mask : MReg) (s : State) : Step :=
  arith .not vd va noOp noOp fmt mask s

/-- VSHL (R156). -/
def execVshl (vd va vb : VOp) (fmt : FReg) (mask : MReg) (s : State) : Step :=
  arith .shl vd va vb noOp fmt mask s

/-- VSHR (R156). -/
def execVshr (vd va vb : VOp) (fmt : FReg) (mask : MReg) (s : State) : Step :=
  arith .shr vd va vb noOp fmt mask s

/-- VCVT (R74, R87, R88). -/
def execVcvt (vd va : VOp) (fmt : FReg) (mask : MReg) (s : State) : Step :=
  arith .cvt vd va noOp noOp fmt mask s

/-- VSCALE (R157). -/
def execVscale (vd va vb : VOp) (fmt : FReg) (mask : MReg) (s : State) : Step :=
  arith .scale vd va vb noOp fmt mask s

/-- VCLAMP (R157). -/
def execVclamp (vd va vb vc : VOp) (fmt : FReg) (mask : MReg) (s : State) : Step :=
  arith .clamp vd va vb vc fmt mask s

end Sys2Proof.Machine
end

