-- ==== Sys2Proof/Machine/VecCross.lean ====
section
/-! DEFINITION. Rendezvous instructions, MAJ 23 (R166 to R170). -/

namespace Sys2Proof.Machine

/-- VPERM (R166). -/
def execVperm (vd va vb : VOp) (fmt : FReg) (mask : MReg) (s : State) : Step :=
  let f := s.getF fmt
  let ok := fmtVec f [fFA f, fFB f, fFD f] (some (fFD f)) (ewOf s.vtype) && fFA f = fFD f && isIntFmt (fFB f)
  lane s [] ok f mask 0 (.perm vd va vb)

/-- VSLIDEUP by a register (R167). -/
def execVslideup (vd va : VOp) (ss : SReg) (mask : MReg) (s : State) : Step :=
  lane s [ss] true 0 mask 0 (.slide true vd va (s.getS ss).toNat)

/-- VSLIDEUP by an immediate (R167). -/
def execVslideupI (vd va : VOp) (imm : BitVec 13) (mask : MReg) (s : State) : Step :=
  lane s [] true 0 mask 0 (.slide true vd va imm.toNat)

/-- VSLIDEDN by a register (R167). -/
def execVslidedn (vd va : VOp) (ss : SReg) (mask : MReg) (s : State) : Step :=
  lane s [ss] true 0 mask 0 (.slide false vd va (s.getS ss).toNat)

/-- VSLIDEDN by an immediate (R167). -/
def execVslidednI (vd va : VOp) (imm : BitVec 13) (mask : MReg) (s : State) : Step :=
  lane s [] true 0 mask 0 (.slide false vd va imm.toNat)

/-- The narrow formats that VREDSUM may widen (R168). -/
def sumWidens (fa fd : Nat) : Bool :=
  [(8, 10), (9, 10), (0, 2), (0, 4), (0, 6), (1, 3), (1, 5), (1, 2), (1, 4), (1, 6), (2, 4), (2, 6), (3, 5), (3, 4), (3, 6),
   (4, 6), (5, 6)].contains (fa, fd)

/-- The checks of a reduction (R168). -/
def redOk (op : Red) (f : BitVec 32) (ew : Nat) : Bool :=
  let reads := [fFA f, fFB f, fFD f]
  fmtReadOk f reads (some (fFD f)) false && fmtVectorOk reads && fmtBits (fFD f) = ew && fFB f = fFD f
    && (fFA f = fFD f || (op = .sum && sumWidens (fFA f) (fFD f)))
    && (match fmtClass (fFD f) with
      | .int _ | .float => true
      | .rns => op = .sum
      | .tick => op ≠ .sum
      | _ => false)

/-- VREDSUM, VREDMAX and VREDMIN. -/
def reduction (op : Red) (vd va vb : VOp) (fmt : FReg) (mask : MReg) (s : State) : Step :=
  let f := s.getF fmt
  lane s [] (redOk op f (ewOf s.vtype)) f mask 0 (.red op vd va vb)

/-- VREDSUM (R89, R168). -/
def execVredsum (vd va vb : VOp) (fmt : FReg) (mask : MReg) (s : State) : Step := reduction .sum vd va vb fmt mask s

/-- VREDMAX (R90, R168). -/
def execVredmax (vd va vb : VOp) (fmt : FReg) (mask : MReg) (s : State) : Step := reduction .max vd va vb fmt mask s

/-- VREDMIN (R90, R168). -/
def execVredmin (vd va vb : VOp) (fmt : FReg) (mask : MReg) (s : State) : Step := reduction .min vd va vb fmt mask s

/-- VSCAN (R90, R169). -/
def execVscan (vd va vb : VOp) (fmt : FReg) (mask : MReg) (s : State) : Step :=
  let f := s.getF fmt
  lane s [] (redOk .sum f (ewOf s.vtype) && fFA f = fFD f) f mask 0 (.scan vd va vb)

/-- VCOMPRESS (R170). -/
def execVcompress (vd va : VOp) (mask : MReg) (s : State) : Step := lane s [] true 0 mask 0 (.compress vd va)

end Sys2Proof.Machine
end

