-- ==== Sys2Proof/Machine/VecMem.lean ====
section
/-! DEFINITION. Vector memory, atomics, spill and fill, deferral and append, MAJ 32, 33, 34 and 40 (R176 to R205). -/

namespace Sys2Proof.Machine

/-- Bytes of a memory element (R178). -/
def mwBytes (m : VMemArgs) : Nat := 2 ^ m.mw.toNat

/-- A load, store or prefetch: the memory width must not exceed EW (R178). -/
def memOp (m : VMemArgs) (srcs : List SReg) (k : MemKind) (ad : Addressing) (vt : VOp) (stride : Word) (s : State) :
    Step :=
  lane s (m.sa :: srcs) (8 * mwBytes m ≤ ewOf s.vtype) 0 m.mask m.strm (.mem k ad vt (mwBytes m) (s.getS m.sa) stride)

/-- VLD (R181). -/
def execVld (vt : VOp) (m : VMemArgs) (sx : Bool) (s : State) : Step := memOp m [] (.load sx false) .unit vt 0 s

/-- VST (R181). -/
def execVst (vt : VOp) (m : VMemArgs) (s : State) : Step := memOp m [] .store .unit vt 0 s

/-- VLDS (R181). -/
def execVlds (vt : VOp) (m : VMemArgs) (sb : SReg) (sx : Bool) (s : State) : Step :=
  memOp m [sb] (.load sx false) .strided vt (s.getS sb) s

/-- VSTS (R181). -/
def execVsts (vt : VOp) (m : VMemArgs) (sb : SReg) (s : State) : Step := memOp m [sb] .store .strided vt (s.getS sb) s

/-- VGATH (R181). -/
def execVgath (vt vi : VOp) (m : VMemArgs) (sx esc : Bool) (s : State) : Step :=
  memOp m [] (.load sx false) (.indexed vi esc) vt 0 s

/-- VSCAT (R181). -/
def execVscat (vt vi : VOp) (m : VMemArgs) (esc : Bool) (s : State) : Step := memOp m [] .store (.indexed vi esc) vt 0 s

/-- VLDC, unit (R181, R186). -/
def execVldc (vt : VOp) (m : VMemArgs) (sx : Bool) (s : State) : Step := memOp m [] (.load sx true) .unit vt 0 s

/-- VLDC, strided (R181, R186). -/
def execVldcS (vt : VOp) (m : VMemArgs) (sb : SReg) (sx : Bool) (s : State) : Step :=
  memOp m [sb] (.load sx true) .strided vt (s.getS sb) s

/-- VLDC, indexed (R181, R186). -/
def execVldcX (vt vi : VOp) (m : VMemArgs) (sx esc : Bool) (s : State) : Step :=
  memOp m [] (.load sx true) (.indexed vi esc) vt 0 s

/-- VPREF, unit (R196). -/
def execVpref (m : VMemArgs) (lvl : Bool) (s : State) : Step := memOp m [] (.prefetch lvl) .unit ⟨.row, false, 0⟩ 0 s

/-- VPREF, strided (R196). -/
def execVprefS (m : VMemArgs) (sb : SReg) (lvl : Bool) (s : State) : Step :=
  memOp m [sb] (.prefetch lvl) .strided ⟨.row, false, 0⟩ (s.getS sb) s

/-- VPREF, indexed (R196). -/
def execVprefX (vi : VOp) (m : VMemArgs) (lvl esc : Bool) (s : State) : Step :=
  memOp m [] (.prefetch lvl) (.indexed vi esc) ⟨.row, false, 0⟩ 0 s

/-- VAMO: EW is the memory width, 32 or 64, and vt is a row (R178, R179, R193). -/
def vectorAtomic (op : AmoOp) (posted : Bool) (vt vi : VOp) (m : VMemArgs) (esc : Bool) (s : State) : Step :=
  let ew := ewOf s.vtype
  let ok := 8 * mwBytes m = ew && 32 ≤ ew && opIsRow vt && (op ≠ .cas || vt.idx.toNat + 1 < s.regs)
  lane s [m.sa] ok 0 m.mask m.strm (.mem (.atomic op posted) (.indexed vi esc) vt (mwBytes m) (s.getS m.sa) 0)

/-- VAMO, immediate (R193 to R195). -/
def execVamo (op : AmoOp) (vt vi : VOp) (m : VMemArgs) (esc : Bool) (s : State) : Step := vectorAtomic op false vt vi m esc s

/-- VAMO, posted (R193 to R195). -/
def execVamoP (op : AmoOp) (vt vi : VOp) (m : VMemArgs) (esc : Bool) (s : State) : Step := vectorAtomic op true vt vi m esc s

/-- VAMO.CAS (R193 to R195). -/
def execVamoCas (vt vi : VOp) (m : VMemArgs) (esc : Bool) (s : State) : Step := vectorAtomic .cas false vt vi m esc s

/-- The register range of VSPILL and VFILL (R179, R197). -/
def rangeOk (s : State) (vt : VOp) (n : Nat) : Bool := opIsRow vt && n ≠ 0 && vt.idx.toNat + n ≤ s.regs

/-- VSPILL (R197 to R199). -/
def execVspill (vt : VOp) (sa sb : SReg) (strm : BitVec 3) (s : State) : Step :=
  let n := (s.getS sb).toNat
  lane s [sa, sb] (rangeOk s vt n) 0 0 strm (.spill vt.idx.toNat n vt.pol (s.getS sa))

/-- VFILL (R197 to R199). -/
def execVfill (vt : VOp) (sa sb : SReg) (strm : BitVec 3) (s : State) : Step :=
  let n := (s.getS sb).toNat
  lane s [sa, sb] (rangeOk s vt n) 0 0 strm (.fill vt.idx.toNat n (s.getS sa))

/-- VAPPEND (R204, R205). -/
def execVappend (vt : VOp) (sd : SReg) (m : VMemArgs) (sb : SReg) (s : State) : Step :=
  lane s [m.sa, sb] (8 * mwBytes m = ewOf s.vtype && opIsRow vt) 0 m.mask m.strm
    (.append vt sd (mwBytes m) (s.getS m.sa) (s.getS sb))

/-- VDEFER (R201). -/
def execVdefer (k : BitVec 2) (md : MReg) (vi : VOp) (sc : SReg) (mask : MReg) (s : State) : Step :=
  lane s [] (rangeOk s vi (k.toNat + 1)) 0 mask 0 (.defer (k.toNat + 1) md vi.idx.toNat vi.pol sc)

/-- VDRAIN (R202). -/
def execVdrain (k : BitVec 2) (vt : VOp) (sc : SReg) (s : State) : Step :=
  lane s [] (rangeOk s vt (k.toNat + 1)) 0 0 0 (.drain (k.toNat + 1) vt.idx.toNat sc)

/-- VDQ.COUNT (R203). -/
def execVdqCount (sc : SReg) (s : State) : Step := lane s [] true 0 0 0 (.dqCount sc)

/-- VDQ.FREE (R203). -/
def execVdqFree (sc : SReg) (s : State) : Step := lane s [] true 0 0 0 (.dqFree sc)

/-- VDQ.CLEAR (R203). -/
def execVdqClear (sc : SReg) (s : State) : Step := lane s [] true 0 0 0 (.dqClear sc)

end Sys2Proof.Machine
end

