-- ==== Sys2Proof/Machine/VecMove.lean ====
section
/-! DEFINITION. Compare, select, move, mask and single-element instructions, MAJ 22 (R158 to R165), and the full/empty
instructions, MAJ 24 (R150). -/

namespace Sys2Proof.Machine

/-- The conditions that VCMP allows for a class (R158, R26). -/
def cmpAllowed (cond : Nat) (fa : Nat) : Bool :=
  match fmtClass fa with
  | .int _ => cond < 10
  | .float => cond < 6 || cond = 10 || cond = 11
  | .rns => cond < 2
  | .tick => cond < 2 || (6 ≤ cond && cond < 10)
  | _ => false

/-- VCMP (R158). -/
def execVcmp (cond : BitVec 4) (md : MReg) (va vb : VOp) (fmt : FReg) (mask : MReg) (s : State) : Step :=
  let f := s.getF fmt
  let ok := fmtVec f [fFA f, fFB f] none (ewOf s.vtype) && fFA f = fFB f && cmpAllowed cond.toNat (fFA f)
  lane s [] ok f mask 0 (.cmp cond md va vb)

/-- VSEL (R159). -/
def execVsel (vd va vb : VOp) (mk : MReg) (fmt : FReg) (mask : MReg) (s : State) : Step :=
  let f := s.getF fmt
  let ok := fmtVec f [fFA f, fFB f, fFD f] (some (fFD f)) (ewOf s.vtype) && fFA f = fFD f && fFB f = fFD f
  lane s [] ok f mask 0 (.sel vd va vb mk)

/-- VMOV between registers (R160): all EW bits. -/
def execVmov (vd va : VOp) (mask : MReg) (s : State) : Step := lane s [] true 0 mask 0 (.mov vd va)

/-- VMOV between masks (R160). -/
def execVmovMask (md ma : MReg) (mask : MReg) (s : State) : Step := lane s [] true 0 mask 0 (.movMask md ma)

/-- VMOV from a mask (R160). -/
def execVmovFromMask (vd : VOp) (ma : MReg) (mask : MReg) (s : State) : Step := lane s [] true 0 mask 0 (.movFromMask vd ma)

/-- VMOV to a mask (R160). -/
def execVmovToMask (md : MReg) (va : VOp) (mask : MReg) (s : State) : Step := lane s [] true 0 mask 0 (.movToMask md va)

/-- VMOV from a system register (R161): a register that the hart cannot read at its level traps as CSRR would. -/
def execVmovSysreg (vd : VOp) (sreg : BitVec 12) (mask : MReg) (s : State) : Step :=
  if !(s.cur.handler || taskReads sreg) then settle (privileged s)
  else if sysWaits sreg && !s.settled then .next (s.hold .lanes)
  else lane s [] true 0 mask 0 (.splat vd (readSys s sreg))

/-- VMOV from TDONE (R161). -/
def execVmovTdone (md : MReg) (mask : MReg) (s : State) : Step := lane s [] true 0 mask 0 (.setMask md s.cur.tdone)

/-- VSPLAT from a register (R162). -/
def execVsplat (vd : VOp) (ss : SReg) (mask : MReg) (s : State) : Step := lane s [ss] true 0 mask 0 (.splat vd (s.getS ss))

/-- VSPLAT of an immediate, sign-extended (R162). -/
def execVsplatI (vd : VOp) (imm : BitVec 13) (mask : MReg) (s : State) : Step :=
  lane s [] true 0 mask 0 (.splat vd (imm.signExtend 64))

/-- VIOTA (R163). -/
def execViota (vd : VOp) (ma : MReg) (fmt : FReg) (mask : MReg) (s : State) : Step :=
  let f := s.getF fmt
  lane s [] (fmtVec f [fFD f] (some (fFD f)) (ewOf s.vtype) && isIntFmt (fFD f)) f mask 0 (.iota vd ma)

/-- VPOPM (R163). -/
def execVpopm (sd : SReg) (ma : MReg) (mask : MReg) (s : State) : Step := lane s [] true 0 mask 0 (.popm sd ma)

/-- VFIRST (R163). -/
def execVfirst (sd : SReg) (ma : MReg) (mask : MReg) (s : State) : Step := lane s [] true 0 mask 0 (.first sd ma)

/-- VMAND (R164). -/
def execVmand (md ma mb : MReg) (mask : MReg) (s : State) : Step := lane s [] true 0 mask 0 (.maskLogic .and md ma mb)

/-- VMOR (R164). -/
def execVmor (md ma mb : MReg) (mask : MReg) (s : State) : Step := lane s [] true 0 mask 0 (.maskLogic .or md ma mb)

/-- VMXOR (R164). -/
def execVmxor (md ma mb : MReg) (mask : MReg) (s : State) : Step := lane s [] true 0 mask 0 (.maskLogic .xor md ma mb)

/-- VMNOT (R164). -/
def execVmnot (md ma : MReg) (mask : MReg) (s : State) : Step := lane s [] true 0 mask 0 (.maskLogic .not md ma 0)

/-- VEXTR (R165), given the index. -/
def extract (sd : SReg) (va : VOp) (srcs : List SReg) (x : Nat) (fmt : FReg) (s : State) : Step :=
  let f := s.getF fmt
  lane s srcs (fmtVec f [fFA f] none (ewOf s.vtype)) f 0 0 (.extr sd va x (fmtClass (fFA f) = .int true))

/-- VEXTR with the index in a register (R165). -/
def execVextr (sd : SReg) (va : VOp) (ss : SReg) (fmt : FReg) (s : State) : Step :=
  extract sd va [ss] (s.getS ss).toNat fmt s

/-- VEXTR with an immediate index (R165). -/
def execVextrI (sd : SReg) (va : VOp) (imm : BitVec 13) (fmt : FReg) (s : State) : Step := extract sd va [] imm.toNat fmt s

/-- VINS with the index in a register (R165). -/
def execVins (vd : VOp) (sa ss : SReg) (s : State) : Step :=
  lane s [sa, ss] true 0 0 0 (.ins vd (s.getS ss) (s.getS sa).toNat)

/-- VINS with an immediate index (R165). -/
def execVinsI (vd : VOp) (ss : SReg) (imm : BitVec 13) (s : State) : Step :=
  lane s [ss] true 0 0 0 (.ins vd (s.getS ss) imm.toNat)

/-- VFE.EMPTY and VFE.FULL (R150). -/
def fullEmpty (full : Bool) (vd : VOp) (n : BitVec 6) (mask : MReg) (s : State) : Step :=
  lane s [] (opIsRow vd && vd.idx.toNat + n.toNat < s.regs) 0 mask 0 (.vfe full vd.idx.toNat (n.toNat + 1))

/-- VFE.EMPTY (R150). -/
def execVfeEmpty (vd : VOp) (n : BitVec 6) (mask : MReg) (s : State) : Step := fullEmpty false vd n mask s

/-- VFE.FULL (R150). -/
def execVfeFull (vd : VOp) (n : BitVec 6) (mask : MReg) (s : State) : Step := fullEmpty true vd n mask s

/-- VFE.TEST (R150). -/
def execVfeTest (md : MReg) (va : VOp) (mask : MReg) (s : State) : Step :=
  lane s [] (opIsRow va && !va.pol && va.idx.toNat < s.regs) 0 mask 0 (.vfeTest md va.idx.toNat)

end Sys2Proof.Machine
end

