-- ==== Sys2Proof/Machine/VecState.lean ====
section
/-! DEFINITION. Vector state instructions, MAJ 20 (R139 to R143). -/

namespace Sys2Proof.Machine

/-- The grant that SETVL writes for a new VTYPE and a requested length (R140). -/
def setvlGrant (vt : BitVec 32) (avl : Nat) : Grant := ⟨vt, min avl (vlmax vt)⟩

/-- VTYPE under an immediate: WIDE is kept (R140). -/
def setvlType (old : BitVec 32) (vt : Byte) : BitVec 32 := (vt.setWidth 32 &&& 0xFB) ||| (old &&& 4)

/-- SETVL and SETVLI (R140, R141): one write of the grant, and the new VL to Sd. -/
def setLength (s : State) (srcs : List SReg) (sd : SReg) (vt : BitVec 32) (avl : Nat) : Step :=
  if s.busy srcs then .next (s.hold .reg)
  else
    let g := setvlGrant vt avl
    .next (finish s ((s.writeGrant g).putS sd (BitVec.ofNat 64 g.vl) (srcs.any s.taintS)).pass (some g))

/-- SETVL (R140). -/
def execSetvl (sd sa : SReg) (vt : Byte) (s : State) : Step :=
  setLength s [sa] sd (setvlType s.vtype vt) (s.getS sa).toNat

/-- SETVL.K (R140). -/
def execSetvlK (sd sa : SReg) (s : State) : Step := setLength s [sa] sd s.vtype (s.getS sa).toNat

/-- SETVLI (R140). -/
def execSetvli (sd : SReg) (avl : BitVec 12) (vt : Byte) (s : State) : Step :=
  setLength s [] sd (setvlType s.vtype vt) avl.toNat

/-- SETVLI.K (R140). -/
def execSetvliK (sd : SReg) (avl : BitVec 12) (s : State) : Step := setLength s [] sd s.vtype avl.toNat

/-- A query of VLQ: a lane instruction, which retires at the sequencer where VL is zero (R43, R142, R248). -/
def query (s : State) (srcs : List SReg) (sd : SReg) (x : Word) : Step :=
  if s.vl = 0 then writeScalar s srcs sd x else lane s srcs true 0 0 0 (.query sd x)

/-- VLQ.MAX (R142). -/
def execVlqMax (sd : SReg) (code : BitVec 3) (s : State) : Step :=
  query s [] sd (BitVec.ofNat 64 (vlmaxOf (8 * 2 ^ (code.extractLsb' 0 2).toNat) (code.getLsbD 2)))

/-- VLQ.REGS (R142). -/
def execVlqRegs (sd : SReg) (s : State) : Step := query s [] sd (BitVec.ofNat 64 s.regs)

/-- Bytes of one register's record in a spill frame (R197). -/
def recordBytes (vl ew : Nat) : Nat := (vl * ew + 511) / 512 * 64

/-- VLQ.FRAME (R142). -/
def execVlqFrame (sd sa : SReg) (s : State) : Step :=
  query s [sa] sd (BitVec.ofNat 64 (64 + (s.getS sa).toNat * recordBytes s.vl (ewOf s.vtype)))

/-- VMODE (R143): a change of mode waits for every older instruction, sets VL to zero and leaves every vector register of
every member undefined and full. With VL not zero it is a lane instruction, a change or not (R43, R248). -/
def execVmode (wide : Bool) (s : State) : Step :=
  let same := wide = wideOf s.vtype
  let job : Job := .query 0 0
  let counted (t : State) : State := if s.vl = 0 then t else t.countLane
  if !same && !s.settled then .next (s.hold .lanes)
  else if same && s.vl ≠ 0 && (s.cur.slip || !s.cur.window.isEmpty) then
    .next (stageFrom s (s.goto s.cur.seq.fallThrough) (s.laneInstr [] 0 0 0 job))
  else if s.vl ≠ 0 && lanesHeld s s.curCoreNo job then .next (s.hold .lanes)
  else
    let vt := (s.vtype &&& ~~~4) ||| (if wide then 4 else 0)
    let s1 := if same then s else s.switchMode ⟨vt, 0⟩
    .next (finish s ((counted s1).goto s.cur.seq.fallThrough))

end Sys2Proof.Machine
end

