-- ==== Sys2Proof/Machine/Windows.lean ====
section
/-! DEFINITION. The host's windows: the register window (R386, R388), the queue window (R328), and the memory window (R389,
R403). -/

namespace Sys2Proof.Machine

/-! ## Rings -/

/-- QTAIL_WRITE (R328, R389): ignored where it would overfill the ring, and discarded during bring-up (R396). -/
def execQtailWrite (queue : Nat) (v : BitVec 32) (s : State) : Step :=
  let x := s.queue queue
  let booting := s.rstBusy && (s.rstPending.map Prod.fst) = some 4
  .next (if booting || 4096 ≤ queue || 2 ^ x.log2sz < (v - x.head).toNat then s
    else (s.setQueue queue { x with tail := v }).markQueues)

/-- FRTAIL_WRITE (R388). -/
def execFrtailWrite (v : BitVec 32) (s : State) : Step :=
  .next (if 2 ^ s.frsize < (s.frhead - v).toNat then s else { s with frtail := v })

/-- ERTAIL_WRITE (R388). -/
def execErtailWrite (v : BitVec 32) (s : State) : Step :=
  .next (if 2 ^ s.ersize < (s.erhead - v).toNat then s else { s with ertail := v })

/-- Entry `i` of a ring (R388). -/
def ringPlace (base : Word) (size i : Nat) : Nat := base.toNat + 32 * (i % 2 ^ size)

/-- The contents of a ring whose BASE or SIZE the host has written while HEAD differs from TAIL are undefined (R388, log
entry 16): each entry that the host has still to take is free. -/
def loseRing (s : State) (base : Word) (size : Nat) (head tail : BitVec 32) : State :=
  if base = 0 then s
  else { s with hostMem := (List.range (min (head - tail).toNat (2 ^ size))).foldl (fun m i =>
      let at_ := ringPlace base size (tail.toNat + i)
      Memory.storeBytes m at_ ((List.range 32).map fun k => Config.ringByte s.freeCount (at_ + k))) s.hostMem }

/-- A write of FRBASE or FRSIZE (R386, R388). -/
def moveFaultRing (s : State) (base : Word) (size : Nat) : State :=
  loseRing { s with frbase := base, frsize := size } base size s.frhead s.frtail

/-- A write of ERBASE or ERSIZE (R386, R388). -/
def moveEventRing (s : State) (base : Word) (size : Nat) : State :=
  loseRing { s with erbase := base, ersize := size } base size s.erhead s.ertail

/-! ## Registers with no behaviour of their own -/

/-- QCFG after a write (R328): LOG2SZ outside 4 to 16 is left unchanged. -/
def Queue.configure (x : Queue) (v : Word) : Queue :=
  { x with en := v.getLsbD 63, asid := v.field 24 16, weight := v.field 16 8, prio := (v.field 8 3).toNat,
           log2sz := rangedField 4 16 x.log2sz (v.field 0 5).toNat }

/-- A write to the queue window (R328): discarded during bring-up (R396). -/
def writeQueueWindow (s : State) (off : Nat) (v : Word) : State :=
  let q := off / 64
  if s.rstBusy && (s.rstPending.map Prod.fst) = some 4 || 4096 ≤ q then s
  else match off % 64 with
    | 0 => (s.setQueue q { s.queue q with base := v &&& ~~~ 63 }).markQueues
    | 8 => (s.setQueue q ((s.queue q).configure v)).markQueues
    | _ => s

/-- A write to a peer window's register (R392): word `k` of its 32 bytes. -/
def PeerWindow.write (w : PeerWindow) (k : Nat) (v : Word) : PeerWindow :=
  match k with
  | 0 => { w with base := v &&& 0xFFFFFFFF00000000 }
  | 1 => { w with size := v.field 0 32, peer := (v.field 32 12).setWidth 16, pasid := v.field 48 16 }
  | 2 => { w with ports := (v.field 0 24).setWidth 32, up := v.field 32 8 = 1 }
  | _ => { w with roff := v }

/-- A write to a register that has no behaviour of its own (R386); any other offset discards it. A window that comes up with every
port of its PORTS down loses its peer at once (R393). -/
def writePlain (s : State) (off : Nat) (v : Word) : State :=
  if 0x4000 ≤ off && off < 0x4200 && off % 8 = 0 then
    let k := (off - 0x4000) / 32
    let w := (Table.get {} s.pwin k).write (off % 32 / 8) v
    let s1 := { s with pwin := Table.set {} s.pwin k w, remote := s.remote.filter fun e => e.win ≠ k }
    if w.up && w.ports.setWidth 24 &&& s.ports = 0 then windowGone s1 k else s1
  else match off with
    | 0x100 => { s with agep := v.field 0 32 }
    | 0x2000 => { s with invBytes := s.invBytes.set 0 v }
    | 0x2008 => { s with invBytes := s.invBytes.set 1 v }
    | 0x2010 => { s with invBytes := s.invBytes.set 2 v }
    | 0x2100 => moveFaultRing s (v &&& ~~~ 4095) s.frsize
    | 0x2108 => moveFaultRing s s.frbase (rangedField 4 16 s.frsize (v.field 0 5).toNat)
    | 0x3000 => moveEventRing s (v &&& ~~~ 4095) s.ersize
    | 0x3008 => moveEventRing s s.erbase (rangedField 4 16 s.ersize (v.field 0 5).toNat)
    | _ => s

/-- A write of RSTREQ (R394). -/
def writeRstreq (v : Word) (s : State) : Step :=
  match (v.field 0 8).toNat with
  | 1 => execResetCore (v.field 16 7).toNat s
  | 2 => execResetPost (v.field 16 1).toNat s
  | 3 => execResetContext (v.field 16 16) s
  | 4 => execResetModule s
  | _ => .next s

/-- A write of PSTATE (R308). -/
def writePstate (v : Word) (s : State) : Step :=
  match v.toNat with
  | 0 => execPstateD0 s
  | 1 => execPstateD0Idle s
  | 2 => execPstateD1 s
  | 3 => execPstateD2 s
  | 4 => execPstateD3 s
  | _ => .next s

/-- A write to the register window (R386): the events that some offsets have of their own, or a plain register. -/
def writeRegisterWindow (s : State) (off : Nat) (v : Word) : Step :=
  let post := (off - 0x1000) / 0x100
  let ramp := (off - 0x1000) % 0x100
  if 0x1000 ≤ off && off < 0x1200 && ramp % 8 = 0 && ramp ≤ 0x80 then
    (if ramp = 0 then execPwrctlWrite post v s else execRampWrite post (ramp / 8 - 1) (v.field 0 32) s)
  else if 0x2200 ≤ off && off < 0x2280 && off % 8 = 0 then
    execFresp ((off - 0x2200) / 8) (v.field 0 32) (v.getLsbD 32) s
  else match off with
    | 0 => writeRstreq v s
    | 0x200 => execHeatctlWrite v s
    | 0x1200 => writePstate v s
    | 0x2018 => execInvreq (s.invBytes.getD 0 0) (s.invBytes.getD 1 0) (s.invBytes.getD 2 0) v s
    | 0x2118 => execFrtailWrite (v.field 0 32) s
    | 0x3018 => execErtailWrite (v.field 0 32) s
    | 0x5000 =>
      if v.getLsbD 15 then execRemapReturn (v.field 0 14).toNat s else execRemapRetire (v.field 0 14).toNat s
    | 0x6000 => match (v.field 0 4).toNat with
      | 1 => execCheckpointSave v s
      | 2 => execCheckpointRestore v s
      | _ => .next s
    | _ => .next (writePlain s off v)

/-- REGISTER_WRITE (R328, R386): 8 bytes at an offset of the queue window or of the register window. -/
def execRegisterWrite (queueWindow : Bool) (off : Nat) (v : Word) (s : State) : Step :=
  if !queueWindow then writeRegisterWindow s off v
  else if off % 64 = 16 then execQtailWrite (off / 64) (v.field 0 32) s
  else .next (writeQueueWindow s off v)

/-! ## What the host reads (R328, R386) -/

/-- The host's read of 8 bytes of the register window: a write-only register, and an offset not named, read zero. -/
def readRegisterWindow (s : State) (off : Nat) : Word :=
  let post := (off - 0x1000) / 0x100
  let ramp := (off - 0x1000) % 0x100
  if 0x1000 ≤ off && off < 0x1200 && ramp % 8 = 0 && ramp ≤ 0x80 then
    (if ramp = 0 then s.pwrctlOf post else (Table.get 0x408 s.ramp (16 * post + (ramp / 8 - 1))).setWidth 64)
  else if 0x4000 ≤ off && off < 0x4200 && off % 8 = 0 then
    let w := Table.get {} s.pwin ((off - 0x4000) / 32)
    match off % 32 / 8 with
    | 0 => w.base
    | 1 => w.size.setWidth 64 ||| w.peer.setWidth 64 <<< 32 ||| w.pasid.setWidth 64 <<< 48
    | 2 => w.ports.setWidth 64 ||| (if w.up then 0x100000000 else 0)
    | _ => w.roff
  else match off with
    | 0x8 => BitVec.ofNat 64 ((if s.rstBusy then 1 else 0) + 256 * s.rstScope)
    | 0x100 => s.agep.setWidth 64
    | 0x200 => s.heatctl
    | 0x1200 => BitVec.ofNat 64 (s.pstateReq.getD s.pstate)
    | 0x2100 => s.frbase
    | 0x2108 => BitVec.ofNat 64 s.frsize
    | 0x2110 => s.frhead.setWidth 64
    | 0x2118 => s.frtail.setWidth 64
    | 0x3000 => s.erbase
    | 0x3008 => BitVec.ofNat 64 s.ersize
    | 0x3010 => s.erhead.setWidth 64
    | 0x3018 => s.ertail.setWidth 64
    | _ => 0

/-- The host's read of 8 bytes of the queue window (R328). -/
def readQueueWindow (s : State) (off : Nat) : Word :=
  let x := s.queue (off / 64)
  match off % 64 with
  | 0 => x.base
  | 8 => BitVec.ofNat 64 ((if x.en then 2 ^ 63 else 0) + x.asid.toNat * 2 ^ 24 + x.weight.toNat * 2 ^ 16 + x.prio * 2 ^ 8 + x.log2sz)
  | 16 => x.tail.setWidth 64
  | 24 => x.head.setWidth 64
  | 32 => BitVec.ofNat 64 ((if x.blocked.isSome then 1 else 0) + 256 * x.code.toNat)
  | _ => 0

/-! ## The memory window (R389, R403) -/

/-- A byte range of device memory lies in a sealed page. -/
def sealedRange (s : State) (a n : Nat) : Bool :=
  (List.range ((a + n - 1) / 4096 - a / 4096 + 1)).any fun k => Table.get false s.sealed (a / 4096 + k)

/-- Bytes at a device address lie in BAR 4 (R385); no request for others reaches the module. -/
def State.inBar4 (s : State) (a n : Nat) : Bool := a + n ≤ 2 ^ s.bar4

/-- MEMORY_WINDOW_READ: performed at the home, or a Completer Abort for a sealed page or an address that does not exist. -/
def execMemoryWindowRead (paddr bytes : Nat) (s : State) : Step :=
  let answer : WindowAnswer :=
    if bytes = 0 || s.liveCap < paddr + bytes || sealedRange s paddr bytes then .abort
    else if s.poisoned paddr bytes || s.heldUp paddr bytes then .poisoned
    else .data (Memory.loadBytes s.mem paddr bytes)
  let s1 := if answer = .poisoned then ((wordsOf paddr bytes).filter fun k => Table.get false s.poison k).foldl (State.readBad · 0) s
    else s
  .next (if s.inBar4 paddr bytes then { s1 with windowReads := s.windowReads ++ [answer] } else s)

/-- The host's write of up to 8 bytes at one word: discarded on a sealed page, on the code of an attested mark kernel and
beyond the capacity; not performed where it would change part of a poisoned word (R371). -/
def hostWriteWord (s : State) (a : Nat) (bs : List Byte) : State :=
  let n := bs.length
  let partialBad := (wordsOf a n).any fun k => Table.get false s.poison k && !(a ≤ 8 * k && 8 * k + 8 ≤ a + n)
  if n = 0 || s.heldUp a n || s.liveCap < a + n || sealedRange s a n || s.markCode a || partialBad then s
  else (s.noteWrite 641 1 (.dev a)).devWrite a n (leAt bs 0 n)

/-- The host's write, word by word in address order. -/
def hostWriteWords : Nat → State → Nat → List Byte → State
  | 0, s, _, _ => s
  | fuel + 1, s, a, bs =>
    if bs.isEmpty then s
    else
      let n := min bs.length (8 - a % 8)
      hostWriteWords fuel (hostWriteWord s a (bs.take n)) (a + n) (bs.drop n)

/-- MEMORY_WINDOW_WRITE. -/
def execMemoryWindowWrite (paddr : Nat) (bytes : List Byte) (s : State) : Step :=
  .next (if s.inBar4 paddr bytes.length then hostWriteWords bytes.length s paddr bytes else s)

/-! ## What the host does by itself (R385, R390, R407) -/

/-- The host enables features and sets BAR 4's size, 4 GiB to 512 GiB (R385): a unit keeps no ATS translation once ATS is off. -/
def hostEnable (s : State) (pcie : BitVec 4) (bar4 : Nat) : State :=
  if bar4 < 32 || 39 < bar4 then s
  else
    let s1 := { s with pcie := pcie, bar4 := bar4 }
    if pcie.getLsbD 2 then s1 else { s1 with units := (s.units.map fun u => (u.1, { u.2 with ats := [] })).filter fun u => u.2 ≠ {} }

/-- The host's own store of 1, 2, 4 or 8 aligned bytes to its memory, single-copy atomic (R390). -/
def hostStore (s : State) (a n v : Nat) : State :=
  if !([1, 2, 4, 8].contains n) || a % n ≠ 0 then s
  else { s.noteWrite 641 1 (.host a) with hostMem := Memory.store s.hostMem a n v }

/-- A write of the sill, word by word in address order: it changes no part of a poisoned word (R371). -/
def sillWrite : Nat → State → Nat → List Byte → State
  | 0, s, _, _ => s
  | fuel + 1, s, a, bs =>
    if bs.isEmpty then s
    else
      let n := min bs.length (8 - a % 8)
      let s1 := if s.heldUp a n || (n < 8 && Table.get false s.poison (a / 8)) then s
        else (s.noteWrite 641 1 (.dev a)).devWrite a n (leAt bs 0 n)
      sillWrite fuel s1 (a + n) (bs.drop n)

/-- The host's access through the sill at debug level 3, in D0 and D0-idle (R407). -/
def sillAccess (s : State) (place : SillPlace) (n : Nat) (write : Option Nat) : State :=
  if s.debugLevel ≠ 3 || 2 ≤ s.pstate then s
  else match place, write with
    | .pool c o, none => { s with windowReads := s.windowReads ++ [if (s.core c).poolBad o n then .poisoned else
        .data (leBytes n ((s.core c).poolRead o n))] }
    | .pool c o, some v => s.setCore c ((s.core c).poolWrite o n v)
    | .page a, none => { s with windowReads := s.windowReads ++ [if s.liveCap < a + n then .abort else
        if s.poisoned a n || s.heldUp a n then .poisoned else .data (Memory.loadBytes s.mem a n)] }
    | .page a, some v => if s.liveCap < a + n then s else sillWrite n s a (leBytes n v)

end Sys2Proof.Machine
end

