-- ==== Sys2Proof/Machine/Dispatch.lean ====
section
/-! DEFINITION. The one match over the instructions and events: each arm is one direct call of a meaning. -/

namespace Sys2Proof.Machine

def exec (i : Instr) (s : State) : Host.Outcome State Fault Refusal :=
  match i with
  | .add sd sa sb => Sys2Proof.Machine.execAdd sd sa sb s
  | .sub sd sa sb => Sys2Proof.Machine.execSub sd sa sb s
  | .and sd sa sb => Sys2Proof.Machine.execAnd sd sa sb s
  | .or sd sa sb => Sys2Proof.Machine.execOr sd sa sb s
  | .xor sd sa sb => Sys2Proof.Machine.execXor sd sa sb s
  | .shl sd sa sb => Sys2Proof.Machine.execShl sd sa sb s
  | .shr sd sa sb => Sys2Proof.Machine.execShr sd sa sb s
  | .sra sd sa sb => Sys2Proof.Machine.execSra sd sa sb s
  | .slt sd sa sb => Sys2Proof.Machine.execSlt sd sa sb s
  | .sltu sd sa sb => Sys2Proof.Machine.execSltu sd sa sb s
  | .min sd sa sb => Sys2Proof.Machine.execMin sd sa sb s
  | .max sd sa sb => Sys2Proof.Machine.execMax sd sa sb s
  | .minu sd sa sb => Sys2Proof.Machine.execMinu sd sa sb s
  | .maxu sd sa sb => Sys2Proof.Machine.execMaxu sd sa sb s
  | .sel sd sa sb sc => Sys2Proof.Machine.execSel sd sa sb sc s
  | .clz sd sa => Sys2Proof.Machine.execClz sd sa s
  | .popc sd sa => Sys2Proof.Machine.execPopc sd sa s
  | .mul sd sa sb => Sys2Proof.Machine.execMul sd sa sb s
  | .mulh sd sa sb => Sys2Proof.Machine.execMulh sd sa sb s
  | .mulhu sd sa sb => Sys2Proof.Machine.execMulhu sd sa sb s
  | .div sd sa sb => Sys2Proof.Machine.execDiv sd sa sb s
  | .divu sd sa sb => Sys2Proof.Machine.execDivu sd sa sb s
  | .rem sd sa sb => Sys2Proof.Machine.execRem sd sa sb s
  | .remu sd sa sb => Sys2Proof.Machine.execRemu sd sa sb s
  | .addi sd sa imm => Sys2Proof.Machine.execAddi sd sa imm s
  | .andi sd sa imm => Sys2Proof.Machine.execAndi sd sa imm s
  | .ori sd sa imm => Sys2Proof.Machine.execOri sd sa imm s
  | .xori sd sa imm => Sys2Proof.Machine.execXori sd sa imm s
  | .shli sd sa imm => Sys2Proof.Machine.execShli sd sa imm s
  | .shri sd sa imm => Sys2Proof.Machine.execShri sd sa imm s
  | .srai sd sa imm => Sys2Proof.Machine.execSrai sd sa imm s
  | .slti sd sa imm => Sys2Proof.Machine.execSlti sd sa imm s
  | .li sd imm => Sys2Proof.Machine.execLi sd imm s
  | .lui sd sa imm => Sys2Proof.Machine.execLui sd sa imm s
  | .fadd sd sa sb => Sys2Proof.Machine.execFadd sd sa sb s
  | .fsub sd sa sb => Sys2Proof.Machine.execFsub sd sa sb s
  | .fmul sd sa sb => Sys2Proof.Machine.execFmul sd sa sb s
  | .ffma sd sa sb sc => Sys2Proof.Machine.execFfma sd sa sb sc s
  | .fmin sd sa sb => Sys2Proof.Machine.execFmin sd sa sb s
  | .fmax sd sa sb => Sys2Proof.Machine.execFmax sd sa sb s
  | .fcmp cond sd sa sb => Sys2Proof.Machine.execFcmp cond sd sa sb s
  | .fcvtI64F32 sd sa => Sys2Proof.Machine.execFcvtI64F32 sd sa s
  | .fcvtU64F32 sd sa => Sys2Proof.Machine.execFcvtU64F32 sd sa s
  | .fcvtF32I64 sd sa => Sys2Proof.Machine.execFcvtF32I64 sd sa s
  | .fcvtF32U64 sd sa => Sys2Proof.Machine.execFcvtF32U64 sd sa s
  | .fcvtF32I32 sd sa => Sys2Proof.Machine.execFcvtF32I32 sd sa s
  | .fcvtF32Bf16 sd sa => Sys2Proof.Machine.execFcvtF32Bf16 sd sa s
  | .fcvtBf16F32 sd sa => Sys2Proof.Machine.execFcvtBf16F32 sd sa s
  | .fcvtF32F16 sd sa => Sys2Proof.Machine.execFcvtF32F16 sd sa s
  | .fcvtF16F32 sd sa => Sys2Proof.Machine.execFcvtF16F32 sd sa s
  | .ld strm wid sd sa imm => Sys2Proof.Machine.execLd strm wid sd sa imm s
  | .ldU strm wid sd sa imm => Sys2Proof.Machine.execLdU strm wid sd sa imm s
  | .st strm wid sd sa imm => Sys2Proof.Machine.execSt strm wid sd sa imm s
  | .ldc strm wid zeroExt sd sa imm => Sys2Proof.Machine.execLdc strm wid zeroExt sd sa imm s
  | .amo strm op wid sd sa sb => Sys2Proof.Machine.execAmo strm op wid sd sa sb s
  | .amoCas strm wid sd sa sb sc => Sys2Proof.Machine.execAmoCas strm wid sd sa sb sc s
  | .amoP strm op wid sa sb => Sys2Proof.Machine.execAmoP strm op wid sa sb s
  | .br off => Sys2Proof.Machine.execBr off s
  | .bc cond sa sb off => Sys2Proof.Machine.execBc cond sa sb off s
  | .bcv bmode msel off => Sys2Proof.Machine.execBcv bmode msel off s
  | .call off => Sys2Proof.Machine.execCall off s
  | .brkloop off => Sys2Proof.Machine.execBrkloop off s
  | .brkloopCond cond sa sb off => Sys2Proof.Machine.execBrkloopCond cond sa sb off s
  | .callr sa => Sys2Proof.Machine.execCallr sa s
  | .ret => Sys2Proof.Machine.execRet s
  | .jmpr sa => Sys2Proof.Machine.execJmpr sa s
  | .loop sa => Sys2Proof.Machine.execLoop sa s
  | .loopi imm => Sys2Proof.Machine.execLoopi imm s
  | .endloop => Sys2Proof.Machine.execEndloop s
  | .trap imm12 => Sys2Proof.Machine.execTrap imm12 s
  | .rett => Sys2Proof.Machine.execRett s
  | .csrr sd sreg => Sys2Proof.Machine.execCsrr sd sreg s
  | .csrw sd sreg sa => Sys2Proof.Machine.execCsrw sd sreg sa s
  | .csrs sd sreg sa => Sys2Proof.Machine.execCsrs sd sreg sa s
  | .csrc sd sreg sa => Sys2Proof.Machine.execCsrc sd sreg sa s
  | .fence scope kind => Sys2Proof.Machine.execFence scope kind s
  | .sbar smask => Sys2Proof.Machine.execSbar smask s
  | .asidsw sa sb => Sys2Proof.Machine.execAsidsw sa sb s
  | .wfe sd sa sb => Sys2Proof.Machine.execWfe sd sa sb s
  | .nop => Sys2Proof.Machine.execNop s
  | .brk => Sys2Proof.Machine.execBrk s
  | .mark sa imm12 => Sys2Proof.Machine.execMark sa imm12 s
  | .yield imm12 => Sys2Proof.Machine.execYield imm12 s
  | .gbar => Sys2Proof.Machine.execGbar s
  | .stamp sm sa sb bar => Sys2Proof.Machine.execStamp sm sa sb bar s
  | .setvl sd sa vt => Sys2Proof.Machine.execSetvl sd sa vt s
  | .setvlK sd sa => Sys2Proof.Machine.execSetvlK sd sa s
  | .setvli sd avl vt => Sys2Proof.Machine.execSetvli sd avl vt s
  | .setvliK sd avl => Sys2Proof.Machine.execSetvliK sd avl s
  | .vlqMax sd code => Sys2Proof.Machine.execVlqMax sd code s
  | .vlqRegs sd => Sys2Proof.Machine.execVlqRegs sd s
  | .vlqFrame sd sa => Sys2Proof.Machine.execVlqFrame sd sa s
  | .vmode wide => Sys2Proof.Machine.execVmode wide s
  | .vadd vd va vb fmt mask => Sys2Proof.Machine.execVadd vd va vb fmt mask s
  | .vsub vd va vb fmt mask => Sys2Proof.Machine.execVsub vd va vb fmt mask s
  | .vmul vd va vb fmt mask => Sys2Proof.Machine.execVmul vd va vb fmt mask s
  | .vfma vd va vb vc fmt mask => Sys2Proof.Machine.execVfma vd va vb vc fmt mask s
  | .vfms vd va vb vc fmt mask => Sys2Proof.Machine.execVfms vd va vb vc fmt mask s
  | .vfnma vd va vb vc fmt mask => Sys2Proof.Machine.execVfnma vd va vb vc fmt mask s
  | .vmin vd va vb fmt mask => Sys2Proof.Machine.execVmin vd va vb fmt mask s
  | .vmax vd va vb fmt mask => Sys2Proof.Machine.execVmax vd va vb fmt mask s
  | .vabs vd va fmt mask => Sys2Proof.Machine.execVabs vd va fmt mask s
  | .vneg vd va fmt mask => Sys2Proof.Machine.execVneg vd va fmt mask s
  | .vdiv vd va vb fmt mask => Sys2Proof.Machine.execVdiv vd va vb fmt mask s
  | .vsqrt vd va fmt mask => Sys2Proof.Machine.execVsqrt vd va fmt mask s
  | .vexp2 vd va fmt mask => Sys2Proof.Machine.execVexp2 vd va fmt mask s
  | .vand vd va vb fmt mask => Sys2Proof.Machine.execVand vd va vb fmt mask s
  | .vor vd va vb fmt mask => Sys2Proof.Machine.execVor vd va vb fmt mask s
  | .vxor vd va vb fmt mask => Sys2Proof.Machine.execVxor vd va vb fmt mask s
  | .vnot vd va fmt mask => Sys2Proof.Machine.execVnot vd va fmt mask s
  | .vshl vd va vb fmt mask => Sys2Proof.Machine.execVshl vd va vb fmt mask s
  | .vshr vd va vb fmt mask => Sys2Proof.Machine.execVshr vd va vb fmt mask s
  | .vcvt vd va fmt mask => Sys2Proof.Machine.execVcvt vd va fmt mask s
  | .vscale vd va vb fmt mask => Sys2Proof.Machine.execVscale vd va vb fmt mask s
  | .vclamp vd va vb vc fmt mask => Sys2Proof.Machine.execVclamp vd va vb vc fmt mask s
  | .vcmp cond md va vb fmt mask => Sys2Proof.Machine.execVcmp cond md va vb fmt mask s
  | .vsel vd va vb mk fmt mask => Sys2Proof.Machine.execVsel vd va vb mk fmt mask s
  | .vmov vd va mask => Sys2Proof.Machine.execVmov vd va mask s
  | .vmovMask md ma mask => Sys2Proof.Machine.execVmovMask md ma mask s
  | .vmovFromMask vd ma mask => Sys2Proof.Machine.execVmovFromMask vd ma mask s
  | .vmovToMask md va mask => Sys2Proof.Machine.execVmovToMask md va mask s
  | .vmovSysreg vd sreg mask => Sys2Proof.Machine.execVmovSysreg vd sreg mask s
  | .vmovTdone md mask => Sys2Proof.Machine.execVmovTdone md mask s
  | .vsplat vd ss mask => Sys2Proof.Machine.execVsplat vd ss mask s
  | .vsplatI vd imm mask => Sys2Proof.Machine.execVsplatI vd imm mask s
  | .viota vd ma fmt mask => Sys2Proof.Machine.execViota vd ma fmt mask s
  | .vpopm sd ma mask => Sys2Proof.Machine.execVpopm sd ma mask s
  | .vfirst sd ma mask => Sys2Proof.Machine.execVfirst sd ma mask s
  | .vmand md ma mb mask => Sys2Proof.Machine.execVmand md ma mb mask s
  | .vmor md ma mb mask => Sys2Proof.Machine.execVmor md ma mb mask s
  | .vmxor md ma mb mask => Sys2Proof.Machine.execVmxor md ma mb mask s
  | .vmnot md ma mask => Sys2Proof.Machine.execVmnot md ma mask s
  | .vextr sd va ss fmt => Sys2Proof.Machine.execVextr sd va ss fmt s
  | .vextrI sd va imm fmt => Sys2Proof.Machine.execVextrI sd va imm fmt s
  | .vins vd sa ss => Sys2Proof.Machine.execVins vd sa ss s
  | .vinsI vd ss imm => Sys2Proof.Machine.execVinsI vd ss imm s
  | .vperm vd va vb fmt mask => Sys2Proof.Machine.execVperm vd va vb fmt mask s
  | .vslideup vd va ss mask => Sys2Proof.Machine.execVslideup vd va ss mask s
  | .vslideupI vd va imm mask => Sys2Proof.Machine.execVslideupI vd va imm mask s
  | .vslidedn vd va ss mask => Sys2Proof.Machine.execVslidedn vd va ss mask s
  | .vslidednI vd va imm mask => Sys2Proof.Machine.execVslidednI vd va imm mask s
  | .vredsum vd va vb fmt mask => Sys2Proof.Machine.execVredsum vd va vb fmt mask s
  | .vredmax vd va vb fmt mask => Sys2Proof.Machine.execVredmax vd va vb fmt mask s
  | .vredmin vd va vb fmt mask => Sys2Proof.Machine.execVredmin vd va vb fmt mask s
  | .vscan vd va vb fmt mask => Sys2Proof.Machine.execVscan vd va vb fmt mask s
  | .vcompress vd va mask => Sys2Proof.Machine.execVcompress vd va mask s
  | .vfeEmpty vd n mask => Sys2Proof.Machine.execVfeEmpty vd n mask s
  | .vfeFull vd n mask => Sys2Proof.Machine.execVfeFull vd n mask s
  | .vfeTest md va mask => Sys2Proof.Machine.execVfeTest md va mask s
  | .vld vt m sx => Sys2Proof.Machine.execVld vt m sx s
  | .vst vt m => Sys2Proof.Machine.execVst vt m s
  | .vlds vt m sb sx => Sys2Proof.Machine.execVlds vt m sb sx s
  | .vsts vt m sb => Sys2Proof.Machine.execVsts vt m sb s
  | .vgath vt vi m sx esc => Sys2Proof.Machine.execVgath vt vi m sx esc s
  | .vscat vt vi m esc => Sys2Proof.Machine.execVscat vt vi m esc s
  | .vldc vt m sx => Sys2Proof.Machine.execVldc vt m sx s
  | .vldcS vt m sb sx => Sys2Proof.Machine.execVldcS vt m sb sx s
  | .vldcX vt vi m sx esc => Sys2Proof.Machine.execVldcX vt vi m sx esc s
  | .vpref m lvl => Sys2Proof.Machine.execVpref m lvl s
  | .vprefS m sb lvl => Sys2Proof.Machine.execVprefS m sb lvl s
  | .vprefX vi m lvl esc => Sys2Proof.Machine.execVprefX vi m lvl esc s
  | .vamo op vt vi m esc => Sys2Proof.Machine.execVamo op vt vi m esc s
  | .vamoP op vt vi m esc => Sys2Proof.Machine.execVamoP op vt vi m esc s
  | .vamoCas vt vi m esc => Sys2Proof.Machine.execVamoCas vt vi m esc s
  | .vspill vt sa sb strm => Sys2Proof.Machine.execVspill vt sa sb strm s
  | .vfill vt sa sb strm => Sys2Proof.Machine.execVfill vt sa sb strm s
  | .vappend vt sd m sb => Sys2Proof.Machine.execVappend vt sd m sb s
  | .vdefer k md vi sc mask => Sys2Proof.Machine.execVdefer k md vi sc mask s
  | .vdrain k vt sc => Sys2Proof.Machine.execVdrain k vt sc s
  | .vdqCount sc => Sys2Proof.Machine.execVdqCount sc s
  | .vdqFree sc => Sys2Proof.Machine.execVdqFree sc s
  | .vdqClear sc => Sys2Proof.Machine.execVdqClear sc s
  | .mtile a => Sys2Proof.Machine.execMtile a s
  | .mtileAcc a => Sys2Proof.Machine.execMtileAcc a s
  | .mtileDecay a => Sys2Proof.Machine.execMtileDecay a s
  | .mzero acc fmt c => Sys2Proof.Machine.execMzero acc fmt c s
  | .mconv sa acc fmt c => Sys2Proof.Machine.execMconv sa acc fmt c s
  | .mconvV sb sc acc vo fmt c => Sys2Proof.Machine.execMconvV sb sc acc vo fmt c s
  | .mload sa sb acc c => Sys2Proof.Machine.execMload sa sb acc c s
  | .aspill sa acc c => Sys2Proof.Machine.execAspill sa acc c s
  | .afill sa acc c => Sys2Proof.Machine.execAfill sa acc c s
  | .cpy sa c => Sys2Proof.Machine.execCpy sa c s
  | .cpyg sa sb c => Sys2Proof.Machine.execCpyg sa sb c s
  | .cpys sa sb c => Sys2Proof.Machine.execCpys sa sb c s
  | .cfill sa sb c => Sys2Proof.Machine.execCfill sa sb c s
  | .twin sa vo c => Sys2Proof.Machine.execTwin sa vo c s
  | .twld sa c => Sys2Proof.Machine.execTwld sa c s
  | .tlaunch c => Sys2Proof.Machine.execTlaunch c s
  | .tlaunchAnd c => Sys2Proof.Machine.execTlaunchAnd c s
  | .tlaunchMix sa c => Sys2Proof.Machine.execTlaunchMix sa c s
  | .tcapt vo c => Sys2Proof.Machine.execTcapt vo c s
  | .tcaptFirstk sb vo c => Sys2Proof.Machine.execTcaptFirstk sb vo c s
  | .tcaptCount sd c => Sys2Proof.Machine.execTcaptCount sd c s
  | .treset c => Sys2Proof.Machine.execTreset c s
  | .binit sa bar => Sys2Proof.Machine.execBinit sa bar s
  | .barv sa bar => Sys2Proof.Machine.execBarv sa bar s
  | .barvR sa sb bar => Sys2Proof.Machine.execBarvR sa sb bar s
  | .bwait sd sa bar => Sys2Proof.Machine.execBwait sd sa bar s
  | .bwaitT sd sa bar => Sys2Proof.Machine.execBwaitT sd sa bar s
  | .btest sd bar => Sys2Proof.Machine.execBtest sd bar s
  | .btestA sd bar => Sys2Proof.Machine.execBtestA sd bar s
  | .berr sa sb bar => Sys2Proof.Machine.execBerr sa sb bar s
  | .berrClr bar => Sys2Proof.Machine.execBerrClr bar s
  | .trset sa n => Sys2Proof.Machine.execTrset sa n s
  | .trclr n => Sys2Proof.Machine.execTrclr n s
  | .taskend => Sys2Proof.Machine.execTaskend s
  | .taskq sd sa sb => Sys2Proof.Machine.execTaskq sd sa sb s
  | .launch sd sa sb sc => Sys2Proof.Machine.execLaunch sd sa sb sc s
  | .leasex sa sb bar => Sys2Proof.Machine.execLeasex sa sb bar s
  | .leasexW sa sb bar => Sys2Proof.Machine.execLeasexW sa sb bar s
  | .vestq sd dir => Sys2Proof.Machine.execVestq sd dir s
  | .laneBroadcast core slot => Sys2Proof.Machine.execLaneBroadcast core slot s
  | .laneIssue core lane memory => Sys2Proof.Machine.execLaneIssue core lane memory s
  | .elementAccessResponse core slot lane => Sys2Proof.Machine.execElementAccessResponse core slot lane s
  | .scalarLoadResponse core slot => Sys2Proof.Machine.execScalarLoadResponse core slot s
  | .rendezvousComplete core slot => Sys2Proof.Machine.execRendezvousComplete core slot s
  | .retire core slot => Sys2Proof.Machine.execRetire core slot s
  | .takeTrap core slot => Sys2Proof.Machine.execTakeTrap core slot s
  | .yieldExpiry core slot => Sys2Proof.Machine.execYieldExpiry core slot s
  | .wfeTimeout core slot => Sys2Proof.Machine.execWfeTimeout core slot s
  | .gbarRelease core => Sys2Proof.Machine.execGbarRelease core s
  | .commandIssue core slot => Sys2Proof.Machine.execCommandIssue core slot s
  | .descriptorReadComplete core eng slot => Sys2Proof.Machine.execDescriptorReadComplete core eng slot s
  | .operandFetchResponse core => Sys2Proof.Machine.execOperandFetchResponse core s
  | .kStepPass core => Sys2Proof.Machine.execKStepPass core s
  | .fillerKStep core => Sys2Proof.Machine.execFillerKStep core s
  | .slewLimiterStep post => Sys2Proof.Machine.execSlewLimiterStep post s
  | .commandCompletion core eng slot => Sys2Proof.Machine.execCommandCompletion core eng slot s
  | .remoteArrival => Sys2Proof.Machine.execRemoteArrival s
  | .followOnIssue core slot => Sys2Proof.Machine.execFollowOnIssue core slot s
  | .waveComplete core => Sys2Proof.Machine.execWaveComplete core s
  | .stampComplete => Sys2Proof.Machine.execStampComplete s
  | .leasexResolved => Sys2Proof.Machine.execLeasexResolved s
  | .translationRequest r => Sys2Proof.Machine.execTranslationRequest r s
  | .walkComplete unit => Sys2Proof.Machine.execWalkComplete unit s
  | .faultRingPost unit => Sys2Proof.Machine.execFaultRingPost unit s
  | .fresp unit tag refused => Sys2Proof.Machine.execFresp unit tag refused s
  | .invreq w0 w1 w2 w3 => Sys2Proof.Machine.execInvreq w0 w1 w2 w3 s
  | .invalidationComplete => Sys2Proof.Machine.execInvalidationComplete s
  | .atsInvalidation vbase npages asid => Sys2Proof.Machine.execAtsInvalidation vbase npages asid s
  | .pageRequestResponse unit tag refused => Sys2Proof.Machine.execPageRequestResponse unit tag refused s
  | .hostCompletion page status => Sys2Proof.Machine.execHostCompletion page status s
  | .launchPacket => Sys2Proof.Machine.execLaunchPacket s
  | .launchResume => Sys2Proof.Machine.execLaunchResume s
  | .waitmem => Sys2Proof.Machine.execWaitmem s
  | .waitmemRecheck queue => Sys2Proof.Machine.execWaitmemRecheck queue s
  | .signal => Sys2Proof.Machine.execSignal s
  | .signalAdd queue => Sys2Proof.Machine.execSignalAdd queue s
  | .preemptDrain => Sys2Proof.Machine.execPreemptDrain s
  | .preemptCut => Sys2Proof.Machine.execPreemptCut s
  | .preemptAbort => Sys2Proof.Machine.execPreemptAbort s
  | .preemptPolicy => Sys2Proof.Machine.execPreemptPolicy s
  | .preemptResume => Sys2Proof.Machine.execPreemptResume s
  | .resetq => Sys2Proof.Machine.execResetq s
  | .traceon => Sys2Proof.Machine.execTraceon s
  | .traceoff => Sys2Proof.Machine.execTraceoff s
  | .leaseResolutionComplete launchId => Sys2Proof.Machine.execLeaseResolutionComplete launchId s
  | .walkerEnumerate launchId => Sys2Proof.Machine.execWalkerEnumerate launchId s
  | .cohortReserve launchId => Sys2Proof.Machine.execCohortReserve launchId s
  | .taskPlacement launchId core => Sys2Proof.Machine.execTaskPlacement launchId core s
  | .stagingComplete core => Sys2Proof.Machine.execStagingComplete core s
  | .taskStart core => Sys2Proof.Machine.execTaskStart core s
  | .commitComplete core => Sys2Proof.Machine.execCommitComplete core s
  | .launchCompletion launchId => Sys2Proof.Machine.execLaunchCompletion launchId s
  | .hartCutStop core slot => Sys2Proof.Machine.execHartCutStop core slot s
  | .cutStageTwo core => Sys2Proof.Machine.execCutStageTwo core s
  | .imageWriteComplete core => Sys2Proof.Machine.execImageWriteComplete core s
  | .contextRestore launchId core => Sys2Proof.Machine.execContextRestore launchId core s
  | .islandSample core island sample => Sys2Proof.Machine.execIslandSample core island sample s
  | .islandTransitionEnd core island => Sys2Proof.Machine.execIslandTransitionEnd core island s
  | .droop core island => Sys2Proof.Machine.execDroop core island s
  | .supplyRecovered core island => Sys2Proof.Machine.execSupplyRecovered core island s
  | .dutyWindowEnd core island => Sys2Proof.Machine.execDutyWindowEnd core island s
  | .requestCapUpdate post above => Sys2Proof.Machine.execRequestCapUpdate post above s
  | .ecountUpdate asid used => Sys2Proof.Machine.execEcountUpdate asid used s
  | .quotaGrant asid quota => Sys2Proof.Machine.execQuotaGrant asid quota s
  | .hangReport core slot => Sys2Proof.Machine.execHangReport core slot s
  | .pstateD0 => Sys2Proof.Machine.execPstateD0 s
  | .pstateD0Idle => Sys2Proof.Machine.execPstateD0Idle s
  | .pstateD1 => Sys2Proof.Machine.execPstateD1 s
  | .pstateD2 => Sys2Proof.Machine.execPstateD2 s
  | .pstateD3 => Sys2Proof.Machine.execPstateD3 s
  | .powerStateEntry => Sys2Proof.Machine.execPowerStateEntry s
  | .heatctlWrite v => Sys2Proof.Machine.execHeatctlWrite v s
  | .colourRotation => Sys2Proof.Machine.execColourRotation s
  | .pwrctlWrite post v => Sys2Proof.Machine.execPwrctlWrite post v s
  | .rampWrite post n v => Sys2Proof.Machine.execRampWrite post n v s
  | .qtailWrite queue v => Sys2Proof.Machine.execQtailWrite queue v s
  | .frtailWrite v => Sys2Proof.Machine.execFrtailWrite v s
  | .ertailWrite v => Sys2Proof.Machine.execErtailWrite v s
  | .registerWrite queueWindow off v => Sys2Proof.Machine.execRegisterWrite queueWindow off v s
  | .resetCore core => Sys2Proof.Machine.execResetCore core s
  | .resetPost post => Sys2Proof.Machine.execResetPost post s
  | .resetContext asid => Sys2Proof.Machine.execResetContext asid s
  | .resetModule => Sys2Proof.Machine.execResetModule s
  | .resetComplete => Sys2Proof.Machine.execResetComplete s
  | .remapRetire bank => Sys2Proof.Machine.execRemapRetire bank s
  | .remapReturn bank => Sys2Proof.Machine.execRemapReturn bank s
  | .remapProceed => Sys2Proof.Machine.execRemapProceed s
  | .remapWaitEvent => Sys2Proof.Machine.execRemapWaitEvent s
  | .thermalRetire bank => Sys2Proof.Machine.execThermalRetire bank s
  | .thermalReturn bank => Sys2Proof.Machine.execThermalReturn bank s
  | .checkpointSave dest => Sys2Proof.Machine.execCheckpointSave dest s
  | .checkpointRestore dest => Sys2Proof.Machine.execCheckpointRestore dest s
  | .checkpointComplete => Sys2Proof.Machine.execCheckpointComplete s
  | .memoryWindowRead paddr bytes => Sys2Proof.Machine.execMemoryWindowRead paddr bytes s
  | .memoryWindowWrite paddr bytes => Sys2Proof.Machine.execMemoryWindowWrite paddr bytes s
  | .hbmArrayRead e => Sys2Proof.Machine.execHbmArrayRead e s
  | .vbusTransfer t => Sys2Proof.Machine.execVbusTransfer t s
  | .laneWalk stack ch failing => Sys2Proof.Machine.execLaneWalk stack ch failing s
  | .scrub e => Sys2Proof.Machine.execScrub e s
  | .clockRatioChange ratio => Sys2Proof.Machine.execClockRatioChange ratio s
  | .peerRequest r => Sys2Proof.Machine.execPeerRequest r s
  | .linkLoss port => Sys2Proof.Machine.execLinkLoss port s
  | .portAckTimeout port => Sys2Proof.Machine.execPortAckTimeout port s
  | .peerResetSignal peer => Sys2Proof.Machine.execPeerResetSignal peer s
  | .peerPowerDownSignal peer => Sys2Proof.Machine.execPeerPowerDownSignal peer s
  | .refcntSync v => Sys2Proof.Machine.execRefcntSync v s
  | .spdmMeasurement nonce => Sys2Proof.Machine.execSpdmMeasurement nonce s
  | .sealPolicy p => Sys2Proof.Machine.execSealPolicy p s
  | .debugToken level signed module => Sys2Proof.Machine.execDebugToken level signed module s
  | .debugLevelLower level => Sys2Proof.Machine.execDebugLevelLower level s
  | .seriesSample => Sys2Proof.Machine.execSeriesSample s
  | .engineAccessResponse core eng slot => Sys2Proof.Machine.execEngineAccessResponse core eng slot s
  | .wakeToD0Complete => Sys2Proof.Machine.execWakeToD0Complete s
  | .debugLevel1Request => Sys2Proof.Machine.execDebugLevel1Request s
  | .droopTimeLimit core island => Sys2Proof.Machine.execDroopTimeLimit core island s

end Sys2Proof.Machine
end

