-- ==== Sys2Proof/Machine/Agenda.lean ====
section
/-! DEFINITION. What moves next (log entry 5): the turn that State names, or else, in rotation, the next running hart, the
first internal event that is enabled, and time. -/

namespace Sys2Proof.Machine

/-! ## What the power state holds back (R308) -/

/-- Events of the cores, whose clocks are gated in D0-idle and below. -/
def isCoreEvent : Instr → Bool
  | .laneBroadcast .. | .laneIssue .. | .elementAccessResponse .. | .scalarLoadResponse .. | .rendezvousComplete ..
  | .retire .. | .takeTrap .. | .yieldExpiry .. | .wfeTimeout .. | .gbarRelease .. | .commandIssue ..
  | .descriptorReadComplete .. | .operandFetchResponse .. | .kStepPass .. | .fillerKStep .. | .commandCompletion ..
  | .followOnIssue .. | .waveComplete .. | .engineAccessResponse .. | .stagingComplete .. | .taskStart .. | .commitComplete ..
  | .hartCutStop .. | .cutStageTwo .. | .imageWriteComplete .. | .contextRestore .. | .taskPlacement .. => true
  | _ => false

/-- Events of the queues and the walkers, which are off in D1 and below. -/
def isQueueEvent : Instr → Bool
  | .launchPacket | .launchResume | .waitmem | .waitmemRecheck _ | .signal | .signalAdd _ | .preemptDrain | .preemptCut
  | .preemptAbort | .preemptPolicy | .preemptResume | .resetq | .traceon | .traceoff | .leaseResolutionComplete _
  | .walkerEnumerate _ | .cohortReserve _ | .launchCompletion _ => true
  | _ => false

/-- Events of UALink, which is idle in D2. -/
def isPeerEvent : Instr → Bool
  | .peerRequest .. | .refcntSync _ => true
  | _ => false

/-- What the host does that reaches a module in D3, whose sill, links and memory are off: it begins the bring-up. -/
def isWake : Instr → Bool
  | .pstateD0 | .resetModule => true
  | .registerWrite false off v => (off = 0 && v.field 0 8 = 4) || (off = 0x1200 && v = 0)
  | _ => false

/-- The module's power state lets an event happen. -/
def powered (s : State) (i : Instr) : Bool :=
  !((s.pstate = 4 && !isWake i) || (s.pstate ≠ 0 && isCoreEvent i) || (2 ≤ s.pstate && isQueueEvent i) || (3 ≤ s.pstate && isPeerEvent i))

/-! ## Internal events -/

/-- An internal event: the lowest power state that holds it back (5 for none), and its meaning. -/
abbrev Agendum := Nat × (State → Step)

/-- Events of one hart. -/
def hartEvents (s : State) (core slot : Nat) : List Agendum :=
  let h := s.hart (hartNo core slot)
  (if h.window.isEmpty then [] else
    [(1, execRetire core slot), (1, execTakeTrap core slot), (1, execCommandIssue core slot),
      (1, execRendezvousComplete core slot), (1, execScalarLoadResponse core slot), (1, execLaneBroadcast core slot)] ++
      (List.range 16).map fun l => (1, execElementAccessResponse core slot l)) ++
  (if h.recorded.isSome then [(1, execTakeTrap core slot)] else []) ++
  (if h.yield = 0 then [] else [(1, execYieldExpiry core slot)]) ++
  (if h.wait.isSome then [(1, execWfeTimeout core slot)] else []) ++
  (if h.status = .running then [(1, execHartCutStop core slot), (4, execHangReport core slot)] else [])

/-- Events of one command slot. -/
def slotEvents (core key : Nat) : List Agendum :=
  [(1, execDescriptorReadComplete core (key / 16) (key % 16)), (1, execCommandCompletion core (key / 16) (key % 16)),
    (1, execEngineAccessResponse core (key / 16) (key % 16))]

/-- Events of one core: its harts, lanes and engines, and its task. -/
def coreEvents (s : State) (core : Nat) : List Agendum :=
  let c := s.core core
  let slipped := (List.range 4).any fun k => !(s.hart (hartNo core k)).window.isEmpty
  (List.range 4).flatMap (hartEvents s core)
    ++ (if slipped then (List.range 16).flatMap fun l => [(1, execLaneIssue core l false), (1, execLaneIssue core l true)]
        else [])
    ++ [(1, execGbarRelease core)] ++ (c.slots.flatMap fun e => slotEvents core e.1)
    ++ [(1, execOperandFetchResponse core), (1, execKStepPass core), (1, execWaveComplete core)]
    ++ (c.follows.map fun f => (1, execFollowOnIssue core ((w64At f.bytes 0).field 22 4).toNat))
    ++ (c.islands.flatMap fun e =>
      [(4, execIslandTransitionEnd core e.1), (4, execDroopTimeLimit core e.1), (4, execDutyWindowEnd core e.1)])
    ++ (if c.task.isNone then [] else
      [(1, execStagingComplete core), (1, execTaskStart core), (1, execCommitComplete core), (1, execCutStageTwo core),
        (1, execImageWriteComplete core)])

/-- Events of one launch. -/
def launchEvents (id : Nat) : List Agendum :=
  [(2, execLeaseResolutionComplete id), (2, execWalkerEnumerate id), (2, execCohortReserve id)]
    ++ ((List.range 128).flatMap fun c => [(1, execContextRestore id c), (1, execTaskPlacement id c)])
    ++ [(2, execLaunchCompletion id)]

/-- Events of one queue. -/
def queueEvents (q : Nat) : List Agendum := [(2, execWaitmemRecheck q), (2, execSignalAdd q)]

/-- Packets that the arbiter may take. -/
def packetEvents : List Agendum :=
  [(2, execLaunchPacket), (2, execLaunchResume), (2, execWaitmem), (2, execSignal), (2, execPreemptDrain),
    (2, execPreemptCut), (2, execPreemptAbort), (2, execPreemptPolicy), (2, execPreemptResume), (2, execResetq),
    (2, execTraceon), (2, execTraceoff)]

/-- The cores that something is known of. -/
def State.coreKeys (s : State) : List Nat := ((s.harts.map Prod.fst).map (· / 4) ++ s.cores.map Prod.fst).eraseDups

/-- The internal events that may be enabled, in the order in which a step looks at them. -/
def internalEvents (s : State) : List Agendum :=
  [(5, execResetComplete), (4, execSeriesSample)] ++ s.coreKeys.flatMap (coreEvents s)
    ++ [(4, execSlewLimiterStep 0), (4, execSlewLimiterStep 1), (4, execRemoteArrival), (4, execLeasexResolved),
      (4, execStampComplete), (4, execInvalidationComplete)]
    ++ (s.units.flatMap fun u => [(4, execWalkComplete u.1), (4, execFaultRingPost u.1)]) ++ packetEvents
    ++ (s.queues.flatMap fun e => queueEvents e.1) ++ ((s.inFlight.map Prod.fst).flatMap launchEvents)
    ++ [(4, execColourRotation), (4, execPowerStateEntry), (4, execWakeToD0Complete), (4, execRemapProceed),
      (4, execRemapWaitEvent), (4, execCheckpointComplete)]

/-! ## Turns -/

/-- Change the state that an outcome gives. -/
def onNext (f : State → State) : Step → Step
  | .next s => .next (f s)
  | o => o

/-- The oldest word of a hart's window, where the scalar lane holds it for the retire point (R250). -/
def heldWord (h : Hart) : Option (InFlight × Instr × SReg) :=
  match h.window with
  | f :: _ => f.held.map fun x => (f, x.1, x.2)
  | [] => none

/-- The hart with its oldest word alone at the retire point: the state before that word, and nothing younger. -/
def atWord (s : State) (k : Nat) (f : InFlight) : State :=
  { s with focus := k }.setHart k { s.hart k with seq := f.before, window := [], recorded := none, wait := none }

/-- The held word `f` of hart `k` has run alone from `s`, leaving `t`: where it has retired, the younger words stand again and
its result is bound; where it still waits, nothing has changed; where it has trapped, the younger words are discarded (R260). -/
def rejoin (s : State) (k : Nat) (f : InFlight) (sd : SReg) (t : State) : State :=
  let h := s.hart k
  let x := t.hart k
  if x.wcount ≠ h.wcount then
    let y := { x with seq := h.seq, window := h.window.drop 1, recorded := h.recorded, wait := h.wait, skip := h.skip,
                      resume := h.resume }
    t.setHart k (y.bind f.tok sd (Table.get 0 x.seq.s sd.toNat) (x.taintS sd))
  else if x.wait.isSome then { s with focus := k }
  else t

/-- Hart `k` runs: a held word that has reached the retire point, the word at its dispatch point, or what stands before that.
Its clock must run. -/
def runHart (s : State) (k : Nat) : Step :=
  if s.pstate ≠ 0 then .next s
  else match heldWord (s.hart k) with
    | some (f, i, sd) => onNext (rejoin s k f sd) (exec i (atWord s k f))
    | none => match prepare s k with
      | .error o => o
      | .ok (i, s1) => exec i s1

/-- The next running hart after the one that ran last, cyclically. -/
def nextHart (s : State) : Option Nat :=
  let ks := (s.harts.filter fun e => e.2.status = .running).map Prod.fst
  match ks.find? fun k => s.focus < k with
  | some k => some k
  | none => ks.head?

/-- Reference periods pass. For a hart in a documented wait they are none without a retirement (R306). -/
def passTime (s : State) (n : Nat) : State :=
  let age (e : Nat × Hart) : Nat × Hart := (e.1, if s.waitsWell e.1 then { e.2 with lastRetire := s.clock + n } else e.2)
  { s with refcnt := s.refcnt + n, clock := s.clock + n, harts := s.harts.map age }

/-- A unit drops a cached translation that no held range pins (R273). -/
def evictLeaf (s : State) (u k : Nat) : State :=
  let x := s.unit u
  match x.leaves[k]? with
  | some l => if l.pins.isEmpty then s.setUnit u { x with leaves := x.leaves.eraseIdx k } else s
  | none => s

/-- L2 gives up a line that no operand pins, or L1 alone gives it up (R269, R285). -/
def dropLine (s : State) (k : Nat) (l1 : Bool) : State :=
  match s.lines[k]? with
  | some x =>
    if l1 then { s with lines := s.lines.set k { x with l1 := x.l1.drop 1 } }
    else if s.held.any fun h => h.pa = x.home && h.key < 64 then s
    else { s with lines := s.lines.eraseIdx k }
  | none => s

/-- The work of a turn. -/
def turnWork (t : Turn) (s : State) : Step :=
  match t with
  | .event i => exec i s
  | .hart c k => runHart s (4 * c + k)
  | .time n => .next (passTime s n)
  | .piece c k => .next (nextPiece s c k)
  | .evict u k => .next (evictLeaf s u k)
  | .peerPage k a => .next { s with peerAns := Table.set (.fault .page) s.peerAns k a }
  | .dropRemote k => .next { s with remote := s.remote.eraseIdx k }
  | .dropLine k l1 => .next (dropLine s k l1)
  | .hostEnable p b => .next (hostEnable s p b)
  | .hostStore a n v => .next (hostStore s a n v)
  | .sill p n w => .next (sillAccess s p n w)
  | .spdm r => .next (standardMeasurement s r)
  | .update f k => .next (s.update f k)
  | .revoke k => .next { s with revoked := s.revoked ||| BitVec.ofNat 2 (2 ^ (k % 2)) }
  | .upset u => .next (upset s u)

/-- A turn can be taken: one that names an instruction word is empty, since words come from memory alone, and the power state lets
it happen (R308). -/
def mayTake (s : State) : Turn → Bool
  | .event i => !i.hasWord && powered s i
  | .piece .. => s.pstate = 0
  | .spdm _ | .update .. => s.pstate ≠ 4
  | _ => true

/-! ## What waits at the stacks, and for lines (R285, R368, R405) -/

/-- What some work leads to would differ without data that the stacks keep back. -/
def asks (s : State) (run : State → Step) (h : Holdup) : Bool :=
  match run s, run { s with blocking := some h } with
  | .next t, .next u => t ≠ { u with blocking := none }
  | _, _ => false

/-- The channels that hold requests, or that have yet to release some. -/
def State.channels (s : State) : List Nat :=
  ((s.chanHold.map Prod.fst).filter (Table.get false s.chanHold) ++ s.queued.map Prod.snd).eraseDups

/-- The requests that a channel has to release before those of a turn, or before those of work that is no turn's. -/
def State.ahead (s : State) (key : Option Turn) : List (Turn × Nat) := s.queued.takeWhile fun e => some e.1 ≠ key

/-- A channel keeps the requests of some work back: it holds new requests, or has still to release one that has come before
(R368). -/
def keptBack (s : State) (key : Option Turn) (run : State → Step) (c : Nat) : Bool :=
  asks s run (.chan c) && (Table.get false s.chanHold c ||
    (s.ahead key).any fun e => e.2 = c && asks s (turnWork e.1) (.chan c))

/-- The channels that keep the requests of some work back. -/
def keepers (s : State) (key : Option Turn) (run : State → Step) : List Nat :=
  if s.busClear then [] else s.channels.filter (keptBack s key run)

/-- Some work needs a burst whose transfer is being repeated, or a channel keeps its requests back (R368). -/
def waitsAtStacks (s : State) (key : Option Turn) (run : State → Step) : Bool :=
  !s.busClear && (s.bursts.any (fun b => asks s run (.burst (b.paddr / 64))) || !(keepers s key run).isEmpty)

/-- The requests of a turn that waits take their place among those that channels hold. -/
def State.enqueue (s : State) (key : Option Turn) (run : State → Step) : State :=
  match key with
  | none => s
  | some t => { s with queued := s.queued ++ ((keepers s key run).map fun c => (t, c)).filter fun e => !s.queued.contains e }

/-- Work waits: a hart whose turn it was makes no move. -/
def State.idle (s : State) : Option Turn → State
  | some (.hart c k) => { s with focus := 4 * c + k }.stall
  | _ => s

/-- Some work is done, that of a turn or an internal event, unless it needs what the stacks keep back (R368), or would write a line
that an operand pins or a stamp owns (R285, R405): it then waits, and is to be tried again. -/
def guarded (s : State) (key : Option Turn) (run : State → Step) : Step :=
  if waitsAtStacks s key run then .next ((s.enqueue key run).idle key)
  else match run s with
    | .next u =>
      .next (if s.keepsHeld u then { u with queued := u.queued.filter fun e => some e.1 ≠ key } else s.idle key)
    | o => o

/-- A turn of the machine's own work. -/
def guardedTurn (s : State) (t : Turn) : Step := guarded s (some t) (turnWork t)

/-- What some work leads to, or the state as it was where that waits. -/
def unlessKept (s : State) (f : State → State) : State :=
  if waitsAtStacks s none (fun s => .next (f s)) || !s.keepsHeld (f s) then s else f s

/-- A turn of time: the samples that are due are written before it passes, and it ends where the next one is due, so that none is
missed (R412). -/
def tick (s : State) (n : Nat) : State := let s1 := unlessKept s writeDue; passTime s1 (untilSample s1 n)

/-- The first of some events that changes the state; none where each leaves it as it is. -/
def firstEnabled (s : State) : List Agendum → Step
  | [] => .next s
  | e :: t =>
    if e.1 ≤ s.pstate then firstEnabled s t
    else match guarded s none e.2 with
      | .next s1 => if s1 = s then firstEnabled s t else .next s1
      | o => o

/-- What happens where no turn is named. -/
def autoTurn (s : State) : Step :=
  let s1 := { s with beat := s.beat + 1 }
  match s.beat % 3 with
  | 0 => match nextHart s1 with
    | some k => guardedTurn s1 (.hart (k / 4) (k % 4))
    | none => .next s1
  | 1 => firstEnabled s1 (internalEvents s1)
  | _ => .next (tick s1 1)

/-- The turn that a state names, or the automatic one. -/
def takeTurn (s : State) : Step :=
  match s.turns with
  | [] => autoTurn s
  | t :: rest =>
    let s1 := { s with turns := rest }
    match t with
    | .time n => .next (tick s1 n)
    | t => if mayTake s1 t then guardedTurn s1 t else .next s1

/-- No turn is taken: the one that was named, or the automatic one, has passed. -/
def State.passTurn (s : State) : State :=
  match s.turns with
  | [] => { s with beat := s.beat + 1 }
  | _ :: rest => { s with turns := rest }

/-- The precise stops that a turn makes due (R411) come with it: where a stop's dump would write a line that is held, or waits at
the stacks, the turn waits. -/
def withStops (s : State) : Step → Step
  | .next t =>
    let u := afterRetire s t
    .next (if u = t || unlessKept t (afterRetire s) = u then u else s.passTurn)
  | o => o

/-! ## A word in place -/

/-- Where a placed word's block starts, and the tables that map it: a page of code at 0x10000 (R264, R265). -/
def placedHeader : Word := 0x10000

/-- A header for the block of one placed word (R28). -/
def placedHeaderWord (len : Nat) : Word := BitVec.ofNat 64 (63 * 2 ^ 58 + len * 2 ^ 50 + 63 * 2 ^ 44 + 31 * 2 ^ 39)

/-- Device memory with the tables of five levels, the header and the word. -/
def placeMemory (m : Table Byte) (len : Nat) (w : Word) : Table Byte :=
  let put (m : Table Byte) (a v : Nat) : Table Byte := Memory.store m a 8 v
  put (put (put (put (put (put (put m 0x1000 0x801) 0x2000 0xC01) 0x3000 0x1001) 0x4000 0x1401) (0x5000 + 8 * 16)
    0x185B) 0x6000 (placedHeaderWord len).toNat) 0x6008 w.toNat

end Sys2Proof.Machine
end

