-- ==== Sys2Proof/Machine/Step.lean ====
section
/-! DEFINITION. One step of the module, and placing a word where the next step runs it. -/

namespace Sys2Proof.Machine

/-- One step: the next turn, and then the precise stops that it makes due (R411). -/
def step (s : State) : Host.Outcome State Fault Refusal :=
  let s0 := { s with freeCount := s.freeCount + 1 }
  withStops s0 (takeTurn s0)

/-- The state with a word at the dispatch point of core 0's first hart, in a block of its own, and the next turn that
hart's (log entry 5). -/
def State.withFetchWord (s : State) (nbits w : Nat) : State :=
  let v := bytesWord (wordBytes (BitVec.ofNat 64 (w % 2 ^ min nbits 64)))
  let ends := match decode v with
    | .ok i => i.endsBlock
    | .error _ => true
  let len := if ends then 1 else 2
  let h := s.hart 0
  let q := { h.seq with pc := placedHeader + 8, arriving := false, boundary := false, blk := placedHeader, len := len,
                        vhw := 63, shw := 31, reconv := 0, deadS := 0, deadV := 0, ownGrant := none }
  let h1 := { h with status := .running, seq := q, window := [], recorded := none, wait := none, slip := false,
                     asid := 0, ptroot := 0x1000 }
  { s.setHart 0 h1 with
    mem := placeMemory s.mem len v, wrote := [], units := [], lines := [], held := [], poison := [], badBursts := [], bursts := [], chanHold := [], queued := [], sealed := [], pwin := [],
    pstate := 0, turns := .hart 0 0 :: s.turns }

end Sys2Proof.Machine
end

