-- ==== Sys2Proof/Safety.lean ====
section
/-! DEFINITION. What counts as a safe run of this machine, the invariant that its steps keep, and the terms in which claims
say what a word leaves: what has changed, and that nothing else has. Every fault of the manual is a trap, an error
arrival, an abort or a status, after which the machine goes on, so that a safe step is one that answers a next state. -/

namespace Sys2Proof.Machine

/-- The outcome is a next state. -/
def goesOn (o : Host.Outcome State Fault Refusal) : Prop := ∃ t, o = .next t

/-- The machine runs on for ever from a state. -/
def Safe (s : State) : Prop := ∀ n, ∃ t, Host.Core.run Sys2Proof.core n s = .next t

/-- Device memory, host memory and peer memory are in their canonical form: addresses strictly rising, and no entry equal
to what an unlisted address reads as. -/
structure State.MemoryOk (s : State) : Prop where
  device : Memory.wf s.mem = true
  host : Memory.wf s.hostMem = true
  peer : Memory.wf s.peerMem = true

/-! ## What a word finds -/

/-- The hart at work has no older word in flight and so no grant of its own to publish (R251), its lane words complete in
one step (log entry 7), and no register that the word reads awaits a late result (R94). -/
structure Ready (s : State) (srcs : List SReg) : Prop where
  window : s.cur.window = []
  grant : s.cur.seq.ownGrant = none
  direct : s.cur.slip = false
  sources : s.busy srcs = false

/-- The hart at work runs at task level and TVEC holds the address of a valid header (R132). -/
structure HasHandler (s : State) : Prop where
  level : s.cur.handler = false
  vector : tvecOk s s.focus = true

/-! ## What a word leaves -/

/-- Nothing but the hart at work has changed: no memory, no other hart, no core, no engine, no queue. -/
structure OnlyHart (s t : State) : Prop where
  others : ∀ j, j ≠ s.focus → t.hart j = s.hart j
  rest : { t with harts := s.harts } = s

/-- Nothing but the hart at work and its core has changed. -/
structure OnlyCore (s t : State) : Prop where
  others : ∀ j, j ≠ s.focus → t.hart j = s.hart j
  cores : ∀ c, c ≠ s.curCoreNo → t.core c = s.core c
  rest : { t with harts := s.harts, cores := s.cores } = s

/-- The state with what the logs of the stacks hold in `t`: an access that reads an uncorrectable word writes them (R367, R369). -/
def State.loggedAs (s t : State) : State := { s with arrayLog := t.arrayLog, counters := t.counters, found := t.found }

/-- The hart `h` once its word has retired: the word is counted (R257), the hart waits for nothing, the next word skips no
element, and the grant that it wrote is published. -/
def State.retired (s : State) (h : Hart) : Hart :=
  { h with wcount := h.wcount + 1, lastRetire := s.clock, wait := none, skip := 0, resume := none,
           seq := { h.seq with ownGrant := none } }

/-- The sequencer's place after the word: the next word, or the header behind the block's last word. -/
def Seq.passes (q : Seq) : Seq :=
  { q with pc := q.pc + 8, arriving := q.arriving || q.pc = q.blk + BitVec.ofNat 64 (8 * q.len) }

/-- The sequencer's place after a transfer to the header at `a`. -/
def Seq.goes (q : Seq) (a : Word) : Seq := { q with pc := a, arriving := true }

/-- The hart `h` with its sequencer past the word. -/
def Hart.passes (h : Hart) : Hart := { h with seq := h.seq.passes }
/-- The hart `h` with its sequencer at the header at `a`. -/
def Hart.goes (h : Hart) (a : Word) : Hart := { h with seq := h.seq.goes a }

/-- The hart `h` with its sequencer transferred to the header at `a`: what was written before its last FENCE is fetched from there
on (R40). -/
def Hart.jumps (h : Hart) (a : Word) : Hart := { h.goes a with synced := h.fenced }

/-- The scalar registers after a write of `v` to `sd` with a taint bit: S0 reads zero still, and every other register is
as it was (R94, R95). -/
structure WritesScalar (s t : State) (sd : SReg) (v : Word) (taint : Bool) : Prop where
  value : t.getS sd = if sd = 0 then 0 else v
  taint : t.taintS sd = (sd ≠ 0 && taint)
  others : ∀ r, r ≠ sd → t.getS r = s.getS r ∧ t.taintS r = s.taintS r

/-- The hart `h` with its scalar registers, and what a write to one of them changes, as `h0` has them. -/
def Hart.unwritten (h h0 : Hart) : Hart :=
  { h with seq := { h.seq with s := h0.seq.s, sTaint := h0.seq.sTaint, deadS := h0.seq.deadS, late := h0.seq.late } }

/-- A word has written `v` to `sd`, has made the hart at work `h` otherwise, and has retired. -/
structure ScalarWord (s t : State) (sd : SReg) (v : Word) (taint : Bool) (h : Hart) : Prop where
  writes : WritesScalar s t sd v taint
  hart : t.cur.unwritten s.cur = s.retired h

/-- The hart at work has trapped (R132): it stands at the header at TVEC, at handler level, and the trap registers hold
the fault, the word's address and its block. -/
structure Trapped (t : State) (f : AccFault) (epc blk : Word) : Prop where
  cause : t.cur.tcause = BitVec.ofNat 64 (f.kind * 256 + f.cause.code)
  epc : t.cur.tepc = epc
  blk : t.cur.tblk = blk
  val : t.cur.tval = f.val
  level : t.cur.handler = true
  place : t.cur.seq.pc = t.cur.tvec ∧ t.cur.seq.arriving = true

/-! ## Memory as its places read -/

/-- A place of memory: the pool, device memory, host memory or a peer's. -/
def Place.isMemory : Place → Bool
  | .pool _ _ | .dev _ | .host _ | .peer _ _ => true
  | _ => false

/-- The byte place `q` lies among the `n` bytes at `p`. -/
def Place.covers (p : Place) (n : Nat) (q : Place) : Bool :=
  match p, q with
  | .pool c o, .pool d x => c = d && o ≤ x && x < o + n
  | .dev a, .dev x | .host a, .host x => a ≤ x && x < a + n
  | .peer _ a, .peer _ x => a ≤ x && x < a + n
  | _, _ => false

/-- Every byte of memory reads in `t` as it reads in `s`. -/
def SameMemory (s t : State) : Prop := ∀ q : Place, q.isMemory = true → readPlace t q 1 = readPlace s q 1

/-- The `n` bytes at `p` hold `v`, and every other byte of memory reads as before. -/
structure StoresAt (s t : State) (p : Place) (n v : Nat) : Prop where
  stored : readPlace t p n = v % 2 ^ (8 * n)
  others : ∀ q : Place, q.isMemory = true → p.covers n q = false → readPlace t q 1 = readPlace s q 1

/-- Nothing has changed but the hart at work, memory with its marks and who wrote it, its core's pool and its task's mark that it
cannot be rerun, what the translation units, the caches and the remote translation cache hold, and the warnings. -/
structure OnlyMemory (s t : State) : Prop where
  others : ∀ j, j ≠ s.focus → t.hart j = s.hart j
  cores : ∀ c, c ≠ s.curCoreNo → t.core c = s.core c
  core : { t.curCore with pool := s.curCore.pool, valid := s.curCore.valid, poolPoison := s.curCore.poolPoison,
                          task := s.curCore.task } = s.curCore
  rest : { t with harts := s.harts, cores := s.cores, mem := s.mem, hostMem := s.hostMem, peerMem := s.peerMem,
                  poison := s.poison, found := s.found, sealed := s.sealed, stamped := s.stamped,
                  units := s.units, lines := s.lines, remote := s.remote, wrote := s.wrote, warnings := s.warnings } = s

end Sys2Proof.Machine
end

