-- ==== Sys2Proof/Certificates/Slice0/Obligations.lean ====
section
/-! DEFINITION. The statements for the provers, and the tables of rules that they are written in. -/

section Statements

open Sys2Proof Sys2Proof.Machine

/-! ## Encoding -/

/-- Every well-formed instruction word decodes to the instruction that it encodes (R16 to R27, R47): no field is dropped,
and no two instructions share a word. -/
def Obligations.DecodeEncode : Prop := ∀ i : Instr, i.wf = true → i.hasWord = true → decode (encode i) = .ok i

/-- A word decodes to one instruction alone and that instruction encodes to the word again: every bit of the word is a
field of the instruction or a reserved bit that is zero (R17). -/
def Obligations.EncodeDecode : Prop := ∀ (w : Word) (i : Instr), decode w = .ok i → encode i = w ∧ i.wf = true

/-- Words written out from the encodings of R16 to R27 and from the worked programs. -/
def Obligations.SampleWords : Prop :=
  (decode 0x0C04A40000000001).toOption = some (.addi 9 9 1) ∧
  (decode 0x2C0298E0000C0000).toOption = some (.amo 0 .add 3 5 6 7) ∧
  (decode 0x30119080FFFFFFFB).toOption = some (.bc 2 3 4 0xFFFFFFFB) ∧
  (decode 0x3450000000000004).toOption = some (.loopi 4) ∧
  (decode 0x540022148C004C00).toOption = some (.vadd ⟨.row, false, 4⟩ ⟨.col, false, 5⟩ ⟨.row, true, 6⟩ 2 3) ∧
  (decode 0x5C30481C12000000).toOption = some (.vredsum ⟨.row, false, 9⟩ ⟨.row, false, 7⟩ ⟨.row, false, 9⟩ 0 0) ∧
  (decode 0x84004009202001A0).toOption = some (.vamoP .add ⟨.row, false, 8⟩ ⟨.row, false, 2⟩ ⟨1, 2, 9, 0⟩ true)

namespace Sys2Proof.Claim

/-! ## Scalar words -/

/-- One for true, zero for false. -/
def truth (b : Bool) : Word := if b then 1 else 0

/-- The scalar integer words (R96, R97, R66, R246): the registers that a word reads, its destination, and the value
that the rules give it. -/
def intRule (s : State) : Instr → Option (List SReg × SReg × Word)
  | .add d a b => some ([a, b], d, s.getS a + s.getS b)
  | .sub d a b => some ([a, b], d, s.getS a - s.getS b)
  | .and d a b => some ([a, b], d, s.getS a &&& s.getS b)
  | .or d a b => some ([a, b], d, s.getS a ||| s.getS b)
  | .xor d a b => some ([a, b], d, s.getS a ^^^ s.getS b)
  | .shl d a b => some ([a, b], d, s.getS a <<< ((s.getS b).toNat % 64))
  | .shr d a b => some ([a, b], d, s.getS a >>> ((s.getS b).toNat % 64))
  | .sra d a b => some ([a, b], d, (s.getS a).sshiftRight ((s.getS b).toNat % 64))
  | .slt d a b => some ([a, b], d, truth ((s.getS a).toInt < (s.getS b).toInt))
  | .sltu d a b => some ([a, b], d, truth ((s.getS a).toNat < (s.getS b).toNat))
  | .min d a b => some ([a, b], d, if (s.getS a).toInt < (s.getS b).toInt then s.getS a else s.getS b)
  | .max d a b => some ([a, b], d, if (s.getS a).toInt < (s.getS b).toInt then s.getS b else s.getS a)
  | .minu d a b => some ([a, b], d, if (s.getS a).toNat < (s.getS b).toNat then s.getS a else s.getS b)
  | .maxu d a b => some ([a, b], d, if (s.getS a).toNat < (s.getS b).toNat then s.getS b else s.getS a)
  | .sel d a b c => some ([a, b, c], d, if s.getS c ≠ 0 then s.getS a else s.getS b)
  | .clz d a => some ([a], d, (s.getS a).clz)
  | .popc d a => some ([a], d, BitVec.ofNat 64 ((List.range 64).countP fun k => (s.getS a).getLsbD k))
  | .mul d a b => some ([a, b], d, s.getS a * s.getS b)
  | .mulh d a b => some ([a, b], d, BitVec.ofInt 64 ((s.getS a).toInt * (s.getS b).toInt / (2 ^ 64 : Nat)))
  | .mulhu d a b => some ([a, b], d, BitVec.ofNat 64 ((s.getS a).toNat * (s.getS b).toNat / 2 ^ 64))
  | .div d a b => some ([a, b], d, sdiv64 (s.getS a) (s.getS b))
  | .divu d a b => some ([a, b], d, udiv64 (s.getS a) (s.getS b))
  | .rem d a b => some ([a, b], d, srem64 (s.getS a) (s.getS b))
  | .remu d a b => some ([a, b], d, urem64 (s.getS a) (s.getS b))
  | .addi d a i => some ([a], d, s.getS a + i.signExtend 64)
  | .andi d a i => some ([a], d, s.getS a &&& i.signExtend 64)
  | .ori d a i => some ([a], d, s.getS a ||| i.signExtend 64)
  | .xori d a i => some ([a], d, s.getS a ^^^ i.signExtend 64)
  | .shli d a i => some ([a], d, s.getS a <<< (i.toNat % 64))
  | .shri d a i => some ([a], d, s.getS a >>> (i.toNat % 64))
  | .srai d a i => some ([a], d, (s.getS a).sshiftRight (i.toNat % 64))
  | .slti d a i => some ([a], d, truth ((s.getS a).toInt < (i.signExtend 64).toInt))
  | .li d i => some ([], d, i.signExtend 64)
  | .lui d a i => some ([a], d, i ++ (s.getS a).extractLsb' 0 32)
  | .vestq d k => some ([], d, BitVec.ofNat 64 (match k.toNat with
    | 4 => 65536 * s.curCore.granted.getD 0 0 + 65536 * s.curCore.granted.getD 1 0 + 65536 * s.curCore.granted.getD 2 0
        + 65536 * s.curCore.granted.getD 3 0
    | 5 => s.curCore.spb s.curCore.partw
    | n => 65536 * s.curCore.granted.getD n 0))
  | _ => none

/-- The queries of VLQ (R142), which are lane words (R248): the registers that a word reads, its destination, and its answer. -/
def queryRule (s : State) : Instr → Option (List SReg × SReg × Word)
  | .vlqMax d c => some ([], d, BitVec.ofNat 64 ((if c.getLsbD 2 then 16384 else 4096) / (8 * 2 ^ (c.toNat % 4))))
  | .vlqRegs d => some ([], d, BitVec.ofNat 64 s.regs)
  | .vlqFrame d a => some ([a], d, BitVec.ofNat 64 (64 + (s.getS a).toNat * ((s.vl * ewOf s.vtype + 511) / 512 * 64)))
  | _ => none

/-- The hart past a lane word, which its lane sequence number counts (R248). -/
def lanePassed (s : State) : Hart := { s.cur.passes with laneSeq := s.cur.laneSeq + 1 }

/-- No island of the core is held (R299, R300). -/
def LanesRun (s : State) : Prop := ∀ l, l < 16 → s.curCore.laneHeld s.clock l = false

/-- The scalar FP32 words (R98, R72 to R74, R26): the registers that a word reads, its destination, the bits that it writes
and the flags that it raises, rounded once under the gang's VTYPE. -/
def floatRule (s : State) : Instr → Option (List SReg × SReg × Nat × Flags)
  | .fadd d a b => some ([a, b], d, roundF32 s.rnd (exAdd s.rnd (s.fval a) (s.fval b)))
  | .fsub d a b => some ([a, b], d, roundF32 s.rnd (exAdd s.rnd (s.fval a) (s.fval b).negate))
  | .fmul d a b => some ([a, b], d, roundF32 s.rnd (exMul (s.fval a) (s.fval b)))
  | .ffma d a b c => some ([a, b, c], d, roundF32 s.rnd (exFma s.rnd (s.fval a) (s.fval b) (s.fval c)))
  | .fmin d a b => some ([a, b], d, (toFloat s.rnd 10 (exMin (s.fval a) (s.fval b))).1, 0)
  | .fmax d a b => some ([a, b], d, (toFloat s.rnd 10 (exMax (s.fval a) (s.fval b))).1, 0)
  | .fcmp k d a b =>
    let r := condFloats k.toNat (s.fval a) (s.fval b)
    some ([a, b], d, if r.1 then 1 else 0, r.2)
  | .fcvtI64F32 d a => some ([a], d, toFloat s.rnd 10 (.ofInt (s.getS a).toInt))
  | .fcvtU64F32 d a => some ([a], d, toFloat s.rnd 10 (.ofInt (s.getS a).toNat))
  | .fcvtF32I64 d a => some ([a], d, intWord (floatToInt s.rnd (-(2 ^ 63 : Nat)) ((2 ^ 63 : Nat) - 1) (s.fval a)))
  | .fcvtF32U64 d a => some ([a], d, intWord (floatToInt s.rnd 0 ((2 ^ 64 : Nat) - 1) (s.fval a)))
  | .fcvtF32I32 d a => some ([a], d, intWord (floatToInt s.rnd (-(2 ^ 31 : Nat)) ((2 ^ 31 : Nat) - 1) (s.fval a)))
  | .fcvtF32Bf16 d a => some ([a], d, floatToFloat s.rnd 8 (s.fval a))
  | .fcvtBf16F32 d a => some ([a], d, floatToFloat s.rnd 10 (floatVal s.rnd.ftzi 8 ((s.getS a).toNat % 2 ^ 16)))
  | .fcvtF32F16 d a => some ([a], d, floatToFloat s.rnd 9 (s.fval a))
  | .fcvtF16F32 d a => some ([a], d, floatToFloat s.rnd 10 (floatVal s.rnd.ftzi 9 ((s.getS a).toNat % 2 ^ 16)))
  | _ => none

end Sys2Proof.Claim

open Sys2Proof.Claim

/-- Every scalar integer word writes the value that R96, R97 or R246 gives and taints its destination with the OR of
its sources' taints (R95); S0 discards the write (R94). It passes to the next word and retires, and no other register, no
flag and no byte of memory changes. -/
def Sys2Proof.Claim.IntegerWords : Prop :=
  ∀ (s : State) (i : Instr) (srcs : List SReg) (sd : SReg) (v : Word), intRule s i = some (srcs, sd, v) → Ready s srcs →
    ∃ t, exec i s = .next t ∧ OnlyHart s t ∧ ScalarWord s t sd v (srcs.any s.taintS) s.cur.passes

/-- A query of VLQ gives its answer to a scalar register (R142). Where VL is not zero it is a lane word, which the hart's lane
sequence number counts (R43, R248) and which waits for the clock of its lanes (R299); nothing else changes. -/
def Sys2Proof.Claim.Queries : Prop :=
  ∀ (s : State) (i : Instr) (srcs : List SReg) (sd : SReg) (v : Word), queryRule s i = some (srcs, sd, v) → Ready s srcs →
    (s.vl = 0 ∨ LanesRun s) →
    ∃ t, exec i s = .next t ∧ OnlyHart s t ∧
      ScalarWord s t sd v (srcs.any s.taintS) (if s.vl = 0 then s.cur.passes else lanePassed s)

/-- Every scalar FP32 word writes its result, rounded once, and raises its flags in VFLAGS (R98, R62), FMIN and FMAX none (R73, in the reading of log entry 68); nothing else
changes. -/
def Obligations.FloatWords : Prop :=
  ∀ (s : State) (i : Instr) (srcs : List SReg) (sd : SReg) (r : Nat × Flags), floatRule s i = some (srcs, sd, r) →
    Ready s srcs → ∃ t, exec i s = .next t ∧ OnlyHart s t ∧
      ScalarWord s t sd (BitVec.ofNat 64 r.1) (srcs.any s.taintS) { s.cur.passes with vflags := s.cur.vflags ||| r.2 }

/-- Division by zero and the overflowing signed division give the results of R66, and the word goes on. -/
def Sys2Proof.Claim.DivisionCorners : Prop :=
  ∀ (s : State) (sd sa sb : SReg), sd ≠ 0 → Ready s [sa, sb] →
    (s.getS sb = 0 →
      (∃ t, exec (.div sd sa sb) s = .next t ∧ t.getS sd = BitVec.allOnes 64) ∧
      (∃ t, exec (.divu sd sa sb) s = .next t ∧ t.getS sd = BitVec.allOnes 64) ∧
      (∃ t, exec (.rem sd sa sb) s = .next t ∧ t.getS sd = s.getS sa) ∧
      (∃ t, exec (.remu sd sa sb) s = .next t ∧ t.getS sd = s.getS sa)) ∧
    (s.getS sa = BitVec.intMin 64 ∧ s.getS sb = BitVec.allOnes 64 →
      (∃ t, exec (.div sd sa sb) s = .next t ∧ t.getS sd = BitVec.intMin 64) ∧
      (∃ t, exec (.rem sd sa sb) s = .next t ∧ t.getS sd = 0)) ∧
    (s.getS sb ≠ 0 ∧ ¬(s.getS sa = BitVec.intMin 64 ∧ s.getS sb = BitVec.allOnes 64) →
      (∃ t, exec (.div sd sa sb) s = .next t ∧ (t.getS sd).toInt = (s.getS sa).toInt.tdiv (s.getS sb).toInt) ∧
      (∃ t, exec (.rem sd sa sb) s = .next t ∧ (t.getS sd).toInt = (s.getS sa).toInt.tmod (s.getS sb).toInt)) ∧
    (s.getS sb ≠ 0 →
      (∃ t, exec (.divu sd sa sb) s = .next t ∧ (t.getS sd).toNat = (s.getS sa).toNat / (s.getS sb).toNat) ∧
      (∃ t, exec (.remu sd sa sb) s = .next t ∧ (t.getS sd).toNat = (s.getS sa).toNat % (s.getS sb).toNat))

/-- A word that reads a register whose value an older instruction is still to produce waits, and changes nothing but the
hart's wait (R94, in the reading of log entry 30); a read of a dead register never waits (R31), so `busy` leaves those
out. -/
def Sys2Proof.Claim.ReadersWait : Prop :=
  ∀ (s : State) (i : Instr) (srcs : List SReg) (sd : SReg) (v : Word),
    (intRule s i = some (srcs, sd, v) ∨ queryRule s i = some (srcs, sd, v)) → s.busy srcs = true →
    ∃ t, exec i s = .next t ∧ OnlyHart s t ∧ t.cur = { s.cur with wait := some .reg }

/-- The scalar integer words: their results and frames, the queries of VLQ, the corners of division, and their wait for late operands. -/
def Obligations.IntegerWords : Prop := Claim.IntegerWords ∧ Claim.Queries ∧ Claim.ReadersWait ∧ Claim.DivisionCorners

/-! ## Scalar memory -/

namespace Sys2Proof.Claim

/-- No trace session records events of an option bit for a core's task (R408). -/
def Untraced (s : State) (core bit : Nat) : Prop := ∀ l, s.coreLaunch core = some l → traceOpt s l.queue bit = false

/-- A load of scalar memory (R99): its width, whether it extends the sign and whether it taints (R95), its destination,
base and offset. -/
def loadRule : Instr → Option (BitVec 2 × Bool × Bool × SReg × SReg × BitVec 32)
  | .ld _ wid sd sa imm => some (wid, true, false, sd, sa, imm)
  | .ldU _ wid sd sa imm => some (wid, false, false, sd, sa, imm)
  | .ldc _ wid zero sd sa imm => some (wid, !zero, true, sd, sa, imm)
  | _ => none

/-- A value of `8 * n` bits extended to 64 (R99). -/
def extended (signed : Bool) (n v : Nat) : Word :=
  if signed && 2 ^ (8 * n - 1) ≤ v then BitVec.ofInt 64 ((v : Int) - 2 ^ (8 * n)) else BitVec.ofNat 64 v

/-- An atomic that gives its old value (R103): stream, operation, width, destination, address register, operand registers and the
second operand. -/
def atomicRule (s : State) : Instr → Option (BitVec 3 × AmoOp × BitVec 2 × SReg × SReg × SReg × List SReg × Word)
  | .amo strm op wid sd sa sb => some (strm, op, wid, sd, sa, sb, [sa, sb], 0)
  | .amoCas strm wid sd sa sb sc => some (strm, .cas, wid, sd, sa, sb, [sa, sb, sc], s.getS sc)
  | _ => none

/-- A scalar access of memory (R99, R103): the registers that it reads, the kind of its access, its width and its address. -/
def accessRule (s : State) : Instr → Option (List SReg × Nat × BitVec 2 × Word)
  | .ld _ wid _ sa imm | .ldU _ wid _ sa imm | .ldc _ wid _ _ sa imm => some ([sa], 1, wid, s.getS sa + imm.signExtend 64)
  | .st _ wid sd sa imm => some ([sd, sa], 2, wid, s.getS sa + imm.signExtend 64)
  | .amo _ _ wid _ sa sb | .amoP _ _ wid sa sb => some ([sa, sb], 3, wid, s.getS sa)
  | .amoCas _ wid _ sa sb sc => some ([sa, sb, sc], 3, wid, s.getS sa)
  | _ => none

/-- The new value of an atomic of `n` bytes whose old value is `m` (R103). -/
def atomicNew (op : AmoOp) (n m v v2 : Nat) : Nat :=
  let a : BitVec (8 * n) := BitVec.ofNat _ m
  let b : BitVec (8 * n) := BitVec.ofNat _ v
  match op with
  | .add => (a + b).toNat
  | .swap => b.toNat
  | .cas => if a = b then v2 % 2 ^ (8 * n) else a.toNat
  | .min => if a.toInt ≤ b.toInt then a.toNat else b.toNat
  | .max => if a.toInt ≤ b.toInt then b.toNat else a.toNat
  | .and => (a &&& b).toNat
  | .or => (a ||| b).toNat
  | .xor => (a ^^^ b).toNat

end Sys2Proof.Claim

/-- A load whose access is allowed writes the value at its address, extended, and taints its destination where it is an
LDC and at no other time (R99, R95); no byte of memory differs from what the access's own translation left. -/
def Sys2Proof.Claim.Loads : Prop :=
  ∀ (s s1 : State) (i : Instr) (wid : BitVec 2) (signed taint : Bool) (sd sa : SReg) (imm : BitVec 32) (v : Nat),
    loadRule i = some (wid, signed, taint, sd, sa, imm) → Ready s [sa] →
    s.recalled s.who 1 (s.getS sa + imm.signExtend 64) (2 ^ wid.toNat) = false →
    scalarLoad s s.who (s.getS sa + imm.signExtend 64) (2 ^ wid.toNat) = .ok (s1, v) →
    ∃ t, exec i s = .next t ∧ OnlyMemory s t ∧ SameMemory s1 t ∧
      ScalarWord s t sd (extended signed (2 ^ wid.toNat) v) taint s.cur.passes

/-- An aligned access is one access of its place, and a misaligned one reads its bytes one after another (R100, R188): the
value is little-endian (R99). -/
def Sys2Proof.Claim.LoadedValue : Prop :=
  ∀ (s s1 : State) (w : Who) (va : Word) (n : Nat) (p : Place), 0 < n →
    (va.toNat % n = 0 → checkAccess s w 1 va n none = .ok (s1, p) →
      ∃ t, scalarLoad s w va n = .ok (t, readPlace s1 p n) ∧ SameMemory s1 t) ∧
    (va.toNat % n ≠ 0 → ∀ b, loadAt s w va 1 = .ok (s1, b) →
      ∀ t v, loadBytesAt s1 w (va + 1) (n - 1) = .ok (t, v) → scalarLoad s w va n = .ok (t, b + 256 * v))

/-- An aligned ST stores the low bytes of its source at the place that its access is allowed, and changes no other byte of
memory, no register and no flag (R99); a direct store outside the pool window makes a BUFFERED task whose commit
has not begun unrerunnable (R102, R341). -/
def Sys2Proof.Claim.Stores : Prop :=
  ∀ (s s1 : State) (strm : BitVec 3) (wid : BitVec 2) (sd sa : SReg) (imm : BitVec 32) (p : Place), Ready s [sd, sa] →
    s.recalled s.who 2 (s.getS sa + imm.signExtend 64) (2 ^ wid.toNat) = false →
    checkAccess s (s.who.on strm) 2 (s.getS sa + imm.signExtend 64) (2 ^ wid.toNat) none = .ok (s1, p) →
    ∃ t, exec (.st strm wid sd sa imm) s = .next t ∧ OnlyMemory s t ∧
      StoresAt s1 t p (2 ^ wid.toNat) (s.getS sd).toNat ∧ t.cur = s.retired s.cur.passes ∧
      t.curCore.task = s.curCore.task.map fun k => { k with fixed := k.fixed || (k.canAbort && p.outside) }

/-- A misaligned ST stores its bytes one after another (R100): where one faults, the bytes below it stay, the word traps on
that byte, and nothing above it is written, but for what the walk of its page leaves where that succeeded (R266, R267); an
uncorrectable word is logged first (R369). -/
def Sys2Proof.Claim.MisalignedStores : Prop :=
  ∀ (s s1 : State) (strm : BitVec 3) (wid : BitVec 2) (sd sa : SReg) (imm : BitVec 32) (f : Option AccFault), Ready s [sd, sa] →
    s.recalled s.who 2 (s.getS sa + imm.signExtend 64) (2 ^ wid.toNat) = false →
    (s.getS sa + imm.signExtend 64).toNat % 2 ^ wid.toNat ≠ 0 →
    storeBytesAt s (s.who.on strm) (s.getS sa + imm.signExtend 64) (2 ^ wid.toNat) ((s.getS sd).toNat % 2 ^ (8 * 2 ^ wid.toNat)) = (s1, f) →
    (f = none → ∃ t, exec (.st strm wid sd sa imm) s = .next t ∧ OnlyMemory s t ∧ SameMemory s1 t ∧
      t.cur = s.retired s.cur.passes) ∧
    (∀ x, f = some x → x.abort = false → Untraced s s.curCoreNo 2 → HasHandler (s1.logFault s1.who x s1.cur.corr) →
      ∃ t, exec (.st strm wid sd sa imm) s = .next t ∧ OnlyMemory (s.loggedAs t) t ∧ SameMemory (s1.keepWalks s1.who x) t ∧
        (x.cause ≠ .mchk → t.arrayLog = s.arrayLog ∧ t.counters = s.counters) ∧ Trapped t x s.cur.seq.pc s.cur.seq.blk)

/-- An immediate atomic gives its old value, sign-extended, and stores the new one; nothing else in memory changes (R103);
its destination takes the OR of its sources' taints. Outside the pool window it makes a BUFFERED task whose commit has not begun
unrerunnable (R106, R341). -/
def Sys2Proof.Claim.Atomics : Prop :=
  ∀ (s s1 : State) (i : Instr) (strm : BitVec 3) (op : AmoOp) (wid : BitVec 2) (sd sa sb : SReg) (srcs : List SReg)
    (v2 : Word) (p : Place), atomicRule s i = some (strm, op, wid, sd, sa, sb, srcs, v2) → Ready s srcs →
    s.recalled s.who 3 (s.getS sa) (2 ^ wid.toNat) = false →
    checkAccess s (s.who.on strm) 3 (s.getS sa) (2 ^ wid.toNat) (some op) = .ok (s1, p) →
    ∃ t, exec i s = .next t ∧ OnlyMemory s t ∧
      StoresAt s1 t p (2 ^ wid.toNat)
        (atomicNew op (2 ^ wid.toNat) (readPlace s1 p (2 ^ wid.toNat)) (s.getS sb).toNat v2.toNat) ∧
      ScalarWord s t sd (extended true (2 ^ wid.toNat) (readPlace s1 p (2 ^ wid.toNat))) (srcs.any s.taintS) s.cur.passes ∧
      t.curCore.task = s.curCore.task.map fun k => { k with fixed := k.fixed || (k.canAbort && p.outside) }

/-- A posted atomic has no destination (R103): in a BUFFERED task one outside the pool window waits in the commit queue
and changes no memory (R106); any other is performed at once. Neither makes the task unrerunnable (R341). -/
def Sys2Proof.Claim.PostedAtomics : Prop :=
  ∀ (s s1 : State) (strm : BitVec 3) (op : AmoOp) (wid : BitVec 2) (sa sb : SReg) (p : Place), Ready s [sa, sb] →
    s.recalled s.who 3 (s.getS sa) (2 ^ wid.toNat) = false →
    checkAccess s (s.who.on strm) 3 (s.getS sa) (2 ^ wid.toNat) (some op) = .ok (s1, p) →
    (p.outside = true ∧ s.buffered s.curCoreNo = true →
      ∃ t, exec (.amoP strm op wid sa sb) s = .next t ∧ OnlyMemory s t ∧ SameMemory s1 t ∧
        t.cur = s.retired { s.cur.passes with commitQ := s.cur.commitQ ++
          [⟨s.getS sa, 2 ^ wid.toNat, op, (s.getS sb).toNat, s.cur.handler⟩] } ∧ t.curCore.task = s.curCore.task) ∧
    ((p.outside && s.buffered s.curCoreNo) = false →
      ∃ t, exec (.amoP strm op wid sa sb) s = .next t ∧ OnlyMemory s t ∧ t.cur = s.retired s.cur.passes ∧
        t.curCore.task = s.curCore.task ∧
        StoresAt s1 t p (2 ^ wid.toNat)
          (atomicNew op (2 ^ wid.toNat) (readPlace s1 p (2 ^ wid.toNat)) (s.getS sb).toNat 0))

/-- Any scalar access at an address that is not canonical traps PAGE, and an atomic, immediate or posted, whose address is
canonical and no multiple of its width traps PROT (R104, R188): the address is in TVAL, and no memory changes. -/
def Sys2Proof.Claim.AccessTraps : Prop :=
  ∀ (s : State) (i : Instr) (srcs : List SReg) (kind : Nat) (wid : BitVec 2) (a : Word),
    accessRule s i = some (srcs, kind, wid, a) → Ready s srcs → HasHandler s →
    Untraced s s.curCoreNo 2 → s.recalled s.who kind a (2 ^ wid.toNat) = false →
    (canonical a = false → ∃ t, exec i s = .next t ∧ OnlyHart s t ∧
      Trapped t { cause := .page, kind := kind, val := a } s.cur.seq.pc s.cur.seq.blk) ∧
    (kind = 3 → canonical a = true → a.toNat % 2 ^ wid.toNat ≠ 0 → ∃ t, exec i s = .next t ∧ OnlyHart s t ∧
      Trapped t { cause := .prot, kind := 3, val := a } s.cur.seq.pc s.cur.seq.blk)

/-- A translation changes nothing but what its unit holds and the 8 bytes of the leaf entry it used, in which A, and for a
store D, are set and nothing is cleared (R267). -/
def Sys2Proof.Claim.TranslationFrame : Prop :=
  ∀ (s s1 : State) (post : Nat) (asid : BitVec 16) (ptroot : Word) (va kind : Nat) (handler : Bool) (l : Leaf),
    translate s post asid ptroot va kind handler = .ok (s1, l) →
    { s1 with mem := s.mem, hostMem := s.hostMem, units := s.units, poison := s.poison, found := s.found, stamped := s.stamped } = s ∧
    (∀ a, (isHostPa l.entry = true ∨ a < l.entry ∨ l.entry + 8 ≤ a) → Memory.byte s1.mem a = Memory.byte s.mem a) ∧
    (∀ a, (isHostPa l.entry = false ∨ a < hostBus l.entry ∨ hostBus l.entry + 8 ≤ a) →
      Memory.byte s1.hostMem a = Memory.byte s.hostMem a) ∧
    (let at_ (x : State) := if isHostPa l.entry then Memory.load x.hostMem (hostBus l.entry) 8 else Memory.load x.mem l.entry 8
     at_ s1 = at_ s ∨ at_ s1 = at_ s ||| 0x40 ||| (if 2 ≤ kind then 0x80 else 0))

/-- The scalar loads: results and frames, and what an aligned and a misaligned access reads. -/
def Obligations.Loads : Prop := Claim.Loads ∧ Claim.LoadedValue

/-- The scalar stores, aligned and misaligned: what they store, and that nothing else changes. -/
def Obligations.Stores : Prop := Claim.Stores ∧ Claim.MisalignedStores

/-- The scalar atomics, immediate and posted: what they give and store, and that nothing else changes. -/
def Obligations.Atomics : Prop := Claim.Atomics ∧ Claim.PostedAtomics

/-- Where a scalar access traps, and what a translation changes. -/
def Obligations.AccessTraps : Prop := Claim.AccessTraps ∧ Claim.TranslationFrame

/-! ## Control transfers, the return store, the mask stack, loops -/

namespace Sys2Proof.Claim

/-- The target of a format B word (R27): the word's address plus 8 times its signed offset. -/
def branchTarget (s : State) (off : BitVec 32) : Word := s.cur.seq.pc + 8 * off.signExtend 64

/-- The fall-through address of the block (R29): that of the header behind its last word. -/
def fallAddress (s : State) : Word := s.cur.seq.blk + BitVec.ofNat 64 (8 * (s.cur.seq.len + 1))

/-- A condition on two 64-bit integers, integer column of R26. -/
def holdsCond (cond : Nat) (a b : Word) : Bool :=
  match cond with
  | 0 => a = b
  | 1 => a ≠ b
  | 2 => a.toInt < b.toInt
  | 3 => a.toInt ≤ b.toInt
  | 4 => b.toInt < a.toInt
  | 5 => b.toInt ≤ a.toInt
  | 6 => a.toNat < b.toNat
  | 7 => a.toNat ≤ b.toNat
  | 8 => b.toNat < a.toNat
  | 9 => b.toNat ≤ a.toNat
  | _ => false

/-- A word that transfers without a condition, or whose condition holds (R107, R108): the registers it reads and its
target. -/
def jumpRule (s : State) : Instr → Option (List SReg × Word)
  | .br off => some ([], branchTarget s off)
  | .jmpr sa => some ([sa], s.getS sa)
  | .bc cond sa sb off => if holdsCond cond.toNat (s.getS sa) (s.getS sb) then some ([sa, sb], branchTarget s off) else none
  | _ => none

/-- A call (R107, R108): the registers it reads and its target. -/
def callRule (s : State) : Instr → Option (List SReg × Word)
  | .call off => some ([], branchTarget s off)
  | .callr sa => some ([sa], s.getS sa)
  | _ => none

/-- A word that breaks out of a loop (R118): the registers it reads, its target, and whether it breaks. -/
def breakRule (s : State) : Instr → Option (List SReg × Word × Bool)
  | .brkloop off => some ([], branchTarget s off, true)
  | .brkloopCond cond sa sb off => some ([sa, sb], branchTarget s off, holdsCond cond.toNat (s.getS sa) (s.getS sb))
  | _ => none

/-- A word that starts a loop (R117): the registers it reads and its count. -/
def loopRule (s : State) : Instr → Option (List SReg × Word)
  | .loop sa => some ([sa], s.getS sa)
  | .loopi imm => some ([], imm.setWidth 64)
  | _ => none

/-- A test of BCV over the first `vl` bits of a mask (R113). -/
def maskHolds (mode : BitVec 3) (m : BitVec 2048) (vl : Nat) : Prop :=
  match mode.toNat with
  | 0 => ∃ e, e < vl ∧ m.getLsbD e = true
  | 1 => ∀ e, e < vl → m.getLsbD e = true
  | _ => ∀ e, e < vl → m.getLsbD e = false

/-- The hart with its sequencer changed. -/
def withSeq (h : Hart) (q : Seq) : Hart := { h with seq := q }

/-- The hart with its sequencer changed by a transfer: it fetches what was written before its last FENCE (R40). -/
def withJump (h : Hart) (q : Seq) : Hart := { h with seq := q, synced := h.fenced }

/-- The mask entries that join at the header at `a`, newest first (R116). -/
def joined (h : Hart) (a : Word) : List MaskEntry := h.seq.masks.takeWhile fun e => e.rc = a

/-- The entries that stay. -/
def unjoined (h : Hart) (a : Word) : List MaskEntry := h.seq.masks.dropWhile fun e => e.rc = a

/-- Masks restored one after another (R116). -/
def restoredBy (v : Vec) (es : List MaskEntry) : Vec := es.foldl (fun v e => v.setMask e.msel.toNat e.bits) v

/-- The pops at the header at `a` leave an entry in the hart, or nothing is spilled: no refill is due (R116). -/
def NoRefill (h : Hart) (a : Word) : Prop := h.seq.mspill = 0 ∨ h.seq.masks = [] ∨ unjoined h a ≠ []

end Sys2Proof.Claim

/-- BR, JMPR, and BC whose condition holds go to the header at their target once its check passes, and change nothing
else (R107, R108); BC whose condition fails goes on at the fall-through address and accesses nothing. -/
def Sys2Proof.Claim.Branches : Prop :=
  (∀ (s s1 : State) (i : Instr) (srcs : List SReg) (a : Word), jumpRule s i = some (srcs, a) → Ready s srcs →
    checkTarget s a = .ok s1 →
    ∃ t, exec i s = .next t ∧ OnlyMemory s t ∧ SameMemory s1 t ∧ t.cur = s.retired (s.cur.jumps a)) ∧
  (∀ (s : State) (cond : BitVec 4) (sa sb : SReg) (off : BitVec 32),
    holdsCond cond.toNat (s.getS sa) (s.getS sb) = false → Ready s [sa, sb] →
    ∃ t, exec (.bc cond sa sb off) s = .next t ∧ OnlyHart s t ∧ t.cur = s.retired (s.cur.goes (fallAddress s)))

/-- A target that is not canonical traps PAGE, one that is not a multiple of 8 traps HDR, and one whose word is not a header
traps HDR, all on the transferring word with the target in TVAL; a header that fails R30 traps ILL on itself (R35, R36). PAGE
comes before HDR where both hold, which is the model's choice (log entry 91). -/
def Sys2Proof.Claim.BadTargets : Prop :=
  ∀ (s : State) (i : Instr) (srcs : List SReg) (a : Word), jumpRule s i = some (srcs, a) → Ready s srcs → HasHandler s →
    Untraced s s.curCoreNo 2 →
    (canonical a = false → ∃ t, exec i s = .next t ∧ OnlyHart s t ∧
      Trapped t { cause := .page, kind := 0, val := a } s.cur.seq.pc s.cur.seq.blk) ∧
    (canonical a = true → a.toNat % 8 ≠ 0 → ∃ t, exec i s = .next t ∧ OnlyHart s t ∧
      Trapped t { cause := .hdr, kind := 0, val := a } s.cur.seq.pc s.cur.seq.blk) ∧
    (canonical a = true → a.toNat % 8 = 0 → ∀ s1 w, fetchAt s.synced s.focus a = .ok (s1, w) →
      (isHeader w = false → ∃ t, exec i s = .next t ∧ OnlyHart s t ∧
        Trapped t { cause := .hdr, kind := 0, val := a } s.cur.seq.pc s.cur.seq.blk) ∧
      (isHeader w = true → s1.headerOk s1.focus w = false → ∃ t, exec i s = .next t ∧ OnlyHart s t ∧
        Trapped t { cause := .ill, kind := 0, val := w } a a))

/-- CALL and CALLR push the fall-through address and go to their target; while the return store has room no byte of memory
changes, and where it is full its oldest entry is first spilled to RSPBASE + 8 * RSPILL (R110; one access of 8 bytes, log
entry 37). -/
def Sys2Proof.Claim.Calls : Prop :=
  ∀ (s s1 : State) (i : Instr) (srcs : List SReg) (a : Word), callRule s i = some (srcs, a) → Ready s srcs →
    checkTarget s a = .ok s1 →
    (s.cur.seq.rets.length < 16 →
      ∃ t, exec i s = .next t ∧ OnlyMemory s t ∧ SameMemory s1 t ∧
        t.cur = s.retired (withJump s.cur { s.cur.seq.goes a with rets := fallAddress s :: s.cur.seq.rets })) ∧
    (s.cur.seq.rets.length = 16 → s.cur.seq.rspill < 2 ^ 24 - 1 →
      ∀ (s2 : State) (p : Place), s1.recalled s1.who 2 (s.cur.rspbase + BitVec.ofNat 64 (8 * s.cur.seq.rspill)) 8 = false →
      checkAccess s1 s1.who 2 (s.cur.rspbase + BitVec.ofNat 64 (8 * s.cur.seq.rspill)) 8 none = .ok (s2, p) →
      ∃ t, exec i s = .next t ∧ OnlyMemory s t ∧ StoresAt s2 t p 8 (s.cur.seq.rets.getD 15 0).toNat ∧
        t.curCore.task = s.curCore.task ∧
        t.cur = s.retired (withJump s.cur { s.cur.seq.goes a with
          rets := fallAddress s :: s.cur.seq.rets.take 15, rspill := s.cur.seq.rspill + 1 }))

/-- RET pops the newest return address, from the store or, where the store is empty, from the spill area, and goes to it;
with neither it traps RETEMPTY (R108, R110). A word of the spill area that another agent has written is a free value (R111, log
entry 88). -/
def Sys2Proof.Claim.Returns : Prop :=
  ∀ (s : State), Ready s [] →
    (∀ (s1 : State) (a : Word) (rest : List Word), s.cur.seq.rets = a :: rest → checkTarget s a = .ok s1 →
      ∃ t, exec .ret s = .next t ∧ OnlyMemory s t ∧ SameMemory s1 t ∧
        t.cur = s.retired (withJump s.cur { s.cur.seq.goes a with rets := rest })) ∧
    (∀ (s0 s1 s2 : State) (p : Place) (v : Nat) (a : Word), s.cur.seq.rets = [] → s.cur.seq.rspill ≠ 0 →
      (let x := s.cur.rspbase + BitVec.ofNat 64 (8 * (s.cur.seq.rspill - 1))
       s.recalled s.who 1 x 8 = false ∧ checkAccess s s.who 1 x 8 none = .ok (s0, p) ∧ loadAt s s.who x 8 = .ok (s1, v) ∧
       a = (if s.meddled s.focus p then Config.spilledWord s.freeCount x.toNat else BitVec.ofNat 64 v)) →
      checkTarget s1 a = .ok s2 →
      ∃ t, exec .ret s = .next t ∧ OnlyMemory s t ∧ SameMemory s2 t ∧
        t.cur = s.retired (withJump s.cur { s.cur.seq.goes a with rspill := s.cur.seq.rspill - 1 })) ∧
    (s.cur.seq.rets = [] → s.cur.seq.rspill = 0 → HasHandler s → Untraced s s.curCoreNo 2 →
      ∃ t, exec .ret s = .next t ∧ OnlyHart s t ∧
        Trapped t { cause := .retempty, kind := 0, val := s.word } s.cur.seq.pc s.cur.seq.blk)

/-- LOOP and LOOPI with a count above zero push an entry with IDX 0 and go to the body header; with a count of zero they go
to the exit header that the body header's RECONV names, pushing nothing; a full loop stack traps LOOPOVF (R117). -/
def Sys2Proof.Claim.LoopStarts : Prop :=
  ∀ (s s1 : State) (i : Instr) (srcs : List SReg) (n w : Word), loopRule s i = some (srcs, n) → Ready s srcs →
    canonical (fallAddress s) = true → fetchAt s.synced s.focus (fallAddress s) = .ok (s1, w) → isHeader w = true →
    (n ≠ 0 → s.cur.seq.loops.length < 6 →
      ∃ t, exec i s = .next t ∧ OnlyMemory s t ∧ SameMemory s1 t ∧
        t.cur = s.retired (withJump s.cur { s.cur.seq.goes (fallAddress s) with
          loops := ⟨0, n, fallAddress s⟩ :: s.cur.seq.loops })) ∧
    (n = 0 → hReconv w ≠ 0 → s.cur.seq.loops.length < 6 →
      ∀ s2, checkTarget s1 (fallAddress s + 8 * (hReconv w).signExtend 64) = .ok s2 →
      ∃ t, exec i s = .next t ∧ OnlyMemory s t ∧ SameMemory s2 t ∧
        t.cur = s.retired (s.cur.jumps (fallAddress s + 8 * (hReconv w).signExtend 64))) ∧
    (s.cur.seq.loops.length = 6 → (n ≠ 0 ∨ hReconv w ≠ 0) → HasHandler s → Untraced s s.curCoreNo 2 →
      ∃ t, exec i s = .next t ∧ OnlyHart s t ∧
        Trapped t { cause := .loopovf, kind := 0, val := s.word } s.cur.seq.pc s.cur.seq.blk)

/-- ENDLOOP increments IDX and goes back to the body header while IDX + 1 is below CNT, and otherwise pops the entry and
goes on at the fall-through address; either way the hart stands at an iteration boundary (R118, R119). Without an entry
it traps ILL. -/
def Sys2Proof.Claim.LoopEnds : Prop :=
  ∀ (s : State), Ready s [] →
    (∀ (s1 : State) (e : LoopEntry) (rest : List LoopEntry), s.cur.seq.loops = e :: rest →
      (e.idx + 1).toNat < e.cnt.toNat → checkTarget s e.hdr = .ok s1 →
      ∃ t, exec .endloop s = .next t ∧ OnlyMemory s t ∧ SameMemory s1 t ∧
        t.cur = s.retired (withJump s.cur { s.cur.seq.goes e.hdr with
          loops := { e with idx := e.idx + 1 } :: rest, boundary := true })) ∧
    (∀ (e : LoopEntry) (rest : List LoopEntry), s.cur.seq.loops = e :: rest → e.cnt.toNat ≤ (e.idx + 1).toNat →
      ∃ t, exec .endloop s = .next t ∧ OnlyHart s t ∧
        t.cur = s.retired (withSeq s.cur { s.cur.seq.goes (fallAddress s) with loops := rest, boundary := true })) ∧
    (s.cur.seq.loops = [] → HasHandler s → Untraced s s.curCoreNo 2 →
      ∃ t, exec .endloop s = .next t ∧ OnlyHart s t ∧
        Trapped t { cause := .ill, kind := 0, val := s.word } s.cur.seq.pc s.cur.seq.blk)

/-- BRKLOOP pops the innermost loop entry and goes to its target; where its condition fails it goes on at the fall-through
address and pops nothing; without an entry it traps ILL (R118). -/
def Sys2Proof.Claim.LoopBreaks : Prop :=
  ∀ (s : State) (i : Instr) (srcs : List SReg) (a : Word) (holds : Bool), breakRule s i = some (srcs, a, holds) → Ready s srcs →
    (∀ (s1 : State) (e : LoopEntry) (rest : List LoopEntry), s.cur.seq.loops = e :: rest → holds = true →
      checkTarget s a = .ok s1 →
      ∃ t, exec i s = .next t ∧ OnlyMemory s t ∧ SameMemory s1 t ∧
        t.cur = s.retired (withJump s.cur { s.cur.seq.goes a with loops := rest })) ∧
    (s.cur.seq.loops ≠ [] → holds = false →
      ∃ t, exec i s = .next t ∧ OnlyHart s t ∧ t.cur = s.retired (s.cur.goes (fallAddress s))) ∧
    (s.cur.seq.loops = [] → HasHandler s → Untraced s s.curCoreNo 2 →
      ∃ t, exec i s = .next t ∧ OnlyHart s t ∧
        Trapped t { cause := .ill, kind := 0, val := s.word } s.cur.seq.pc s.cur.seq.blk)

/-- BCV pushes its mask register's value with the reconvergence address, and goes to its target where its test over the
first VL elements holds, or on at the fall-through address (R113, R114). With eight entries in the hart the oldest is
first spilled to RSPBASE - 320 * (MSPILL + 1), in accesses of 8 bytes (log entry 37). -/
def Obligations.MaskBranches : Prop :=
  ∀ (s s1 s2 : State) (mode : BitVec 3) (msel : MReg) (off : BitVec 32) (rc a : Word) (sy : List Nat), Ready s [] →
    s.cur.seq.reconv ≠ 0 →
    rc = s.cur.seq.blk + 8 * s.cur.seq.reconv.signExtend 64 → checkReconv s rc = .ok s1 →
    ((maskHolds mode (s.cur.vec.mask msel.toNat) s.vl ∧ a = branchTarget s off ∧ checkTarget s1 a = .ok s2 ∧ sy = s.cur.fenced) ∨
      (¬maskHolds mode (s.cur.vec.mask msel.toNat) s.vl ∧ a = fallAddress s ∧ s2 = s1 ∧ sy = s.cur.synced)) →
    (s.cur.seq.masks.length < 8 →
      ∃ t, exec (.bcv mode msel off) s = .next t ∧ OnlyMemory s t ∧ SameMemory s2 t ∧
        t.cur = s.retired { withSeq s.cur { s.cur.seq.goes a with
          masks := ⟨s.cur.vec.mask msel.toNat, msel, rc⟩ :: s.cur.seq.masks } with synced := sy }) ∧
    (∀ (old : MaskEntry) (s3 : State), s.cur.seq.masks.length = 8 → s.cur.seq.masks.getLast? = some old →
      s.cur.seq.mspill < 2 ^ 24 - 1 →
      s2.recalled s2.who 2 (s.cur.rspbase - BitVec.ofNat 64 (320 * (s.cur.seq.mspill + 1))) 320 = false →
      writeRun s2 s2.who (s.cur.rspbase - BitVec.ofNat 64 (320 * (s.cur.seq.mspill + 1))) 8 40 (maskEntryBytes old)
        = (s3, none) →
      ∃ t, exec (.bcv mode msel off) s = .next t ∧ OnlyMemory s t ∧ SameMemory s3 t ∧ t.curCore.task = s.curCore.task ∧
        t.cur = s.retired { withSeq s.cur { s.cur.seq.goes a with
          masks := ⟨s.cur.vec.mask msel.toNat, msel, rc⟩ :: s.cur.seq.masks.take 7, mspill := s.cur.seq.mspill + 1 } with
            synced := sy })

/-- A header that passes R30 is consumed, in a turn of its own (log entry 19): its fields are taken, the registers above
its high-water marks die (R31), and the hart stands at the block's first word. The newest mask entries whose reconvergence
address it is are all popped, and their masks restored, the newest first (R116); with none the register plane stays as it is.
Where the pop of the hart's last entry leaves spilled ones, the newest of these is read back from RSPBASE - 320 * MSPILL, in
accesses of 8 bytes (log entry 37), a word that another agent has written there being a free value (log entry 88). -/
def Obligations.Headers : Prop :=
  ∀ (s s1 : State) (k : Nat) (w : Word), k = s.focus → s.pstate = 0 → s.cur.status = .running → s.cur.recorded = none →
    s.cur.window = [] → s.cur.seq.arriving = true → heldAtBoundary s k = false →
    fetchAt s k s.cur.seq.pc = .ok (s1, w) → isHeader w = true → s1.headerOk s1.focus w = true →
    (let q := { s.cur.seq with pc := s.cur.seq.pc + 8, arriving := false, boundary := false, blk := s.cur.seq.pc,
                               len := hLen w, vhw := hVhw w, shw := hShw w, reconv := hReconv w,
                               deadV := BitVec.allOnes 64 <<< (hVhw w + 1), deadS := BitVec.allOnes 32 <<< (hShw w + 1) }
     (NoRefill s.cur s.cur.seq.pc →
       ∃ t, runHart s k = .next t ∧ OnlyMemory s t ∧ SameMemory s1 t ∧
         t.cur = { withSeq s.cur { q with masks := unjoined s.cur s.cur.seq.pc } with
                     wait := none, vec := restoredBy s.cur.vec (joined s.cur s.cur.seq.pc) }) ∧
     (∀ (e : MaskEntry) (s2 : State) (bs : List Byte), s.cur.seq.masks = [e] → e.rc = s.cur.seq.pc → s.cur.seq.mspill ≠ 0 →
       (let a := s.cur.rspbase - BitVec.ofNat 64 (320 * s.cur.seq.mspill)
        s1.recalled s1.who 1 a 320 = false ∧ readRun s1 s1.who a 8 40 = .ok (s2, bs) ∧
        (maskEntryOf (spillBytes s1 a bs)).rc ≠ s.cur.seq.pc →
        ∃ t, runHart s k = .next t ∧ OnlyMemory s t ∧ SameMemory s2 t ∧
          t.cur = { withSeq s.cur { q with masks := [maskEntryOf (spillBytes s1 a bs)], mspill := s.cur.seq.mspill - 1 } with
                      wait := none, vec := s.cur.vec.setMask e.msel.toNat e.bits })))

/-- The scalar control transfers: where they go, and where a bad target traps. -/
def Obligations.Branches : Prop := Claim.Branches ∧ Claim.BadTargets

/-- Calls and returns with the return store, in the sequencer and in its spill area. -/
def Obligations.CallsAndReturns : Prop := Claim.Calls ∧ Claim.Returns

/-- The loop stack: LOOP, LOOPI, ENDLOOP and BRKLOOP. -/
def Obligations.Loops : Prop := Claim.LoopStarts ∧ Claim.LoopEnds ∧ Claim.LoopBreaks

/-! ## System words, traps and the grant -/

namespace Sys2Proof.Claim

/-- Registers that task level may read (R137). -/
def taskReadable (r : BitVec 12) : Prop := ¬((0x020 ≤ r ∧ r ≤ 0x024) ∨ r = 0x027 ∨ r = 0x028 ∨ r = 0x041)

/-- Registers that task level may write (R137). -/
def taskWritable (r : BitVec 12) : Prop := r = 0x000 ∨ r = 0x002 ∨ (0x010 ≤ r ∧ r ≤ 0x017) ∨ r = 0x070

/-- What a register holds after a write of `v` (R137): reserved and read-only bits keep their values, and entries of the
loop stack at and above LDEPTH read zero. None for a register that no level may write. -/
def sysWritten (s : State) (r : BitVec 12) (v : Word) : Option Word :=
  let n := r.toNat
  if n = 0x000 then some (((v.setWidth 32 &&& 0xFB) ||| (s.vtype &&& 4)).setWidth 64)
  else if n = 0x002 then some (v &&& 0x1F)
  else if 0x010 ≤ n ∧ n ≤ 0x017 then some (v &&& 0xFFFFFF07)
  else if n = 0x020 then some (v &&& 0x3FF)
  else if n = 0x021 ∨ n = 0x022 ∨ n = 0x023 ∨ n = 0x028 ∨ n = 0x070 then some v
  else if n = 0x026 then some (v &&& 0xFFFFFFFFFFFFFFF8)
  else if n = 0x027 then some (v &&& 0x1FFFFF)
  else if n = 0x050 then some (v &&& 0xFFFFFFFFFFFFFFC0)
  else if 0x0A0 ≤ n ∧ n ≤ 0x0A5 then some (if n - 0x0A0 < s.cur.seq.loops.length then v else 0)
  else if 0x0A8 ≤ n ∧ n ≤ 0x0AD then some (if n - 0x0A8 < s.cur.seq.loops.length then v else 0)
  else if 0x0B0 ≤ n ∧ n ≤ 0x0B5 then some (if n - 0x0B0 < s.cur.seq.loops.length then v else 0)
  else none

/-- CSRW, CSRS and CSRC (R122): destination, register, source, and the value that they write. -/
def csrRule (s : State) : Instr → Option (SReg × BitVec 12 × SReg × Word)
  | .csrw sd r sa => some (sd, r, sa, s.getS sa)
  | .csrs sd r sa => some (sd, r, sa, readSys s r ||| s.getS sa)
  | .csrc sd r sa => some (sd, r, sa, readSys s r &&& ~~~s.getS sa)
  | _ => none

/-- A word that only completes, once the hart has nothing older in flight (R121, R124, R125, R128 to R130), and what it
leaves of the hart. MARK writes its record only under a session. -/
def plainRule (s : State) : Instr → Option (List SReg × Hart)
  | .nop => some ([], s.cur.passes)
  | .fence scope kind =>
    let h := if 2 ≤ scope.toNat ∧ kind ≠ 1 then { s.cur.passes with released := s.freeCount } else s.cur.passes
    some ([], if kind = 2 then { h with fenced :=
      (s.cur.fenced.zipIdx.map fun p => if p.2 ≤ scope.toNat then s.freeCount else p.1) } else h)
  | .sbar _ => some ([], s.cur.passes)
  | .yield n => some ([], { s.cur.passes with yield := if n = 0 then 16 else n.toNat })
  | .mark sa _ =>
    if (s.coreLaunch s.curCoreNo).any (fun l => traceOpt s l.queue 0) then none else some ([sa], s.cur.passes)
  | .gbar =>
    if (gangOf s s.curCoreNo).length ≤ 1 then some ([], { s.cur.passes with released := s.freeCount }) else none
  | _ => none

/-- VLMAX of a VTYPE (R139). -/
def maxLength (vt : BitVec 32) : Nat := (if vt.getLsbD 2 then 16384 else 4096) / (8 * 2 ^ (vt.toNat % 4))

/-- A set-length word (R140): the registers it reads, its destination, and the VTYPE and the length that it asks for. -/
def setlenRule (s : State) : Instr → Option (List SReg × SReg × BitVec 32 × Nat)
  | .setvl sd sa vt => some ([sa], sd, (vt.setWidth 32 &&& 0xFB) ||| (s.vtype &&& 4), (s.getS sa).toNat)
  | .setvlK sd sa => some ([sa], sd, s.vtype, (s.getS sa).toNat)
  | .setvli sd n vt => some ([], sd, (vt.setWidth 32 &&& 0xFB) ||| (s.vtype &&& 4), n.toNat)
  | .setvliK sd n => some ([], sd, s.vtype, n.toNat)
  | _ => none

/-- A word that its hart's level forbids (R120, R122, R135). -/
def forbidden (s : State) : Instr → Prop
  | .csrr _ r => s.cur.handler = false ∧ ¬taskReadable r
  | .csrw _ r _ | .csrs _ r _ | .csrc _ r _ => s.cur.handler = false ∧ ¬taskWritable r
  | .vmovSysreg _ r _ => s.cur.handler = false ∧ ¬taskReadable r
  | .rett => s.cur.handler = false
  | .asidsw _ _ => s.cur.handler = false
  | .stamp _ _ _ _ => attested s s.curCoreNo = false
  | _ => False

/-- The state that RETT resumes in (R135): level and grant as TSTAT holds them, the word retired, no append-resume record, and what
was written before the last FENCE to be fetched (R40). -/
def resumed (s : State) : State :=
  let g : Grant := ⟨(s.cur.tstat.extractLsb' 0 8).setWidth 32, (s.cur.tstat.extractLsb' 8 12).toNat⟩
  let s1 := s.writeGrant g
  let s2 := finish s1 s1 (some g)
  let s3 := s2.setCur { s2.cur with handler := s.cur.tstat.getLsbD 20 }
  s3.setCur { s3.cur with appendResume := none, synced := s3.cur.fenced }

/-- The registers that are dead where RETT resumes in the body of the block whose header is `w` (R31, R39): those above its marks,
and in the block that the last trap interrupted only those that were dead there. -/
def deadThere (h : Hart) (w : Word) : BitVec 32 × BitVec 64 :=
  let s : BitVec 32 := BitVec.allOnes 32 <<< (hShw w + 1)
  let v : BitVec 64 := BitVec.allOnes 64 <<< (hVhw w + 1)
  match h.trapDead with
  | some (b, ds, dv) => if b = h.tblk then (s &&& ds, v &&& dv) else (s, v)
  | none => (s, v)

end Sys2Proof.Claim

/-- Taking a trap (R132): the cause, the place, the value, the lane and the done elements are saved, TSTAT takes VTYPE, VL
and the level, and the hart goes to the header at TVEC at handler level; its other registers stay, and nothing but the
hart changes. The registers that were dead in the interrupted block are noted (R31, R39), but not by a trap that RETT makes as it
resumes, for which that block is still the one interrupted. -/
def Sys2Proof.Claim.TrapEntry : Prop :=
  ∀ (s : State) (k : Nat) (x : Trap) (g : Grant), x.fault.abort = false → (s.hart k).handler = false → tvecOk s k = true →
    Untraced s (k / 4) 2 →
    let h := s.hart k
    let t := takeTrap s k x g
    (∀ j, j ≠ k → t.hart j = s.hart j) ∧ { t with harts := s.harts } = s ∧
    t.hart k = { h with
      tcause := BitVec.ofNat 64 (x.fault.kind * 256 + x.fault.cause.code), tepc := x.epc, tblk := x.blk,
      tval := x.fault.val, tlane := x.lane, tdone := x.done, trapAt := x.epc,
      trapDead := if x.resumed then h.trapDead else some (x.blk, h.seq.deadS, h.seq.deadV),
      tstat := BitVec.ofNat 64 ((g.vtype.extractLsb' 0 8).toNat + 2 ^ 8 * g.vl), handler := true,
      recorded := none, wait := none, window := [], skip := 0, resume := none,
      appendResume := if x.append then h.appendResume else none,
      seq := { h.seq with pc := h.tvec, blk := h.tvec, arriving := true, boundary := false } }

/-- A trap at handler level, or one that finds no valid header at TVEC, ends the task as faulted (R132, R342): the core
holds no task any more, and the launch's first failure is the trap's cause. -/
def Sys2Proof.Claim.DoubleTrap : Prop :=
  ∀ (s : State) (k : Nat) (x : Trap) (g : Grant) (y : Task) (l : Launch), x.fault.abort = false →
    ((s.hart k).handler = true ∨ tvecOk s k = false) → (s.core (k / 4)).task = some y → s.launch y.launch = some l →
    ((takeTrap s k x g).core (k / 4)).task = none ∧ ((takeTrap s k x g).hart (4 * (k / 4))).status = .idle ∧
    ∃ l', (takeTrap s k x g).launch y.launch = some l' ∧ l'.failure = some (l.failure.getD x.fault.cause.code) ∧
      l'.walkDone = true

/-- TRAP retires, and then traps TRAPI with TVAL its immediate and TEPC the next word (R121); BREAK without a session traps
BRK likewise, TVAL its own address, and one that a session claims stops the hart (R411). -/
def Sys2Proof.Claim.SoftwareTraps : Prop :=
  ∀ (s : State), Ready s [] →
    (HasHandler s → Untraced s s.curCoreNo 2 → ∀ n : BitVec 12, ∃ t, exec (.trap n) s = .next t ∧ OnlyHart s t ∧
      t.cur.wcount = s.cur.wcount + 1 ∧
      Trapped t { cause := .trapi, kind := 0, val := n.setWidth 64 } (s.cur.seq.pc + 8) s.cur.seq.blk) ∧
    (HasHandler s → Untraced s s.curCoreNo 2 → s.stopSession s.curCoreNo 3 = none → ∃ t, exec .brk s = .next t ∧ OnlyHart s t ∧
      t.cur.wcount = s.cur.wcount + 1 ∧
      Trapped t { cause := .brk, kind := 0, val := s.cur.seq.pc } (s.cur.seq.pc + 8) s.cur.seq.blk) ∧
    (∀ q x, s.stopSession s.curCoreNo 3 = some (q, x) → ∃ t, exec .brk s = .next t ∧
      t.cur.status = .halted ∧ t.cur.wcount = s.cur.wcount + 1 ∧ t.cur.vec = s.cur.vec ∧ t.cur.seq = s.cur.seq.passes)

/-- RETT (R135, R38, R39): the grant and the level are those of TSTAT, and the hart stands again at the header at TBLK where
TEPC is TBLK, under an unchanged mode and under a new one; or else at TEPC in the body of the header read again, skipping the
elements of TDONE where TEPC is where the last trap left it; or else at the other header at TEPC. In these two the header at TBLK
is consumed on the way, which pops the mask entries that join there (R116, log entry 92). A TBLK that is no multiple of 8 traps
HDR instead, on itself. -/
def Obligations.TrapReturn : Prop :=
  ∀ (s : State), Ready s [] → s.cur.handler = true →
    (s.cur.tstat.extractLsb' 8 12).toNat ≤ maxLength ((s.cur.tstat.extractLsb' 0 8).setWidth 32) →
    (s.cur.tblk.toNat % 8 = 0 → s.cur.tepc = s.cur.tblk → ∃ t, exec .rett s = .next t ∧ t.mem = s.mem ∧
      t.curCore.grant = ⟨(s.cur.tstat.extractLsb' 0 8).setWidth 32, (s.cur.tstat.extractLsb' 8 12).toNat⟩ ∧
      t.cur.handler = s.cur.tstat.getLsbD 20 ∧ t.cur.seq.pc = s.cur.tblk ∧ t.cur.seq.arriving = true ∧
      t.cur.wcount = s.cur.wcount + 1) ∧
    (s.cur.tstat.getLsbD 2 = s.vtype.getLsbD 2 →
    (s.cur.tblk.toNat % 8 = 0 → s.cur.tepc = s.cur.tblk → ∃ t, exec .rett s = .next t ∧ OnlyCore s t ∧
      t.curCore = { s.curCore with
        grant := ⟨(s.cur.tstat.extractLsb' 0 8).setWidth 32, (s.cur.tstat.extractLsb' 8 12).toNat⟩ } ∧
      t.cur = { s.retired s.cur with handler := s.cur.tstat.getLsbD 20, appendResume := none,
                                     synced := s.cur.fenced, seq := { s.cur.seq with pc := s.cur.tblk, blk := s.cur.tblk, arriving := true } }) ∧
    (∀ s1 w, s.cur.tblk.toNat % 8 = 0 → s.cur.tepc ≠ s.cur.tblk →
      fetchAt (resumed s) s.focus s.cur.tblk = .ok (s1, w) → isHeader w = true → s1.headerOk s1.focus w = true →
      NoRefill s.cur s.cur.tblk → s.cur.tepc.toNat % 8 = 0 → s.cur.tblk.toNat < s.cur.tepc.toNat →
      s.cur.tepc.toNat ≤ s.cur.tblk.toNat + 8 * hLen w →
      ∃ t, exec .rett s = .next t ∧ SameMemory s1 t ∧ (∀ j, j ≠ s.focus → t.hart j = s.hart j) ∧
        t.curCore.grant = ⟨(s.cur.tstat.extractLsb' 0 8).setWidth 32, (s.cur.tstat.extractLsb' 8 12).toNat⟩ ∧
        t.cur = { s.retired s.cur with
          handler := s.cur.tstat.getLsbD 20, appendResume := none, synced := s.cur.fenced,
          skip := if s.cur.tepc = s.cur.trapAt then s.cur.tdone else 0,
          resume := if s.cur.tepc = s.cur.trapAt then s.cur.appendResume else none,
          vec := restoredBy s.cur.vec (joined s.cur s.cur.tblk),
          seq := { s.cur.seq with masks := unjoined s.cur s.cur.tblk, pc := s.cur.tepc, arriving := false, boundary := false, blk := s.cur.tblk, len := hLen w,
                                  vhw := hVhw w, shw := hShw w, reconv := hReconv w, deadV := (deadThere s.cur w).2,
                                  deadS := (deadThere s.cur w).1 } }) ∧
    (∀ s1 s2 w v, s.cur.tblk.toNat % 8 = 0 →
      fetchAt (resumed s) s.focus s.cur.tblk = .ok (s1, w) → isHeader w = true → s1.headerOk s1.focus w = true →
      joined s.cur s.cur.tblk = [] → (s.cur.tepc.toNat < s.cur.tblk.toNat ∨ s.cur.tblk.toNat + 8 * hLen w < s.cur.tepc.toNat) →
      s.cur.tepc.toNat % 8 = 0 → fetchAt s1 s1.focus s.cur.tepc = .ok (s2, v) → isHeader v = true →
      s2.headerOk s2.focus v = true →
      ∃ t, exec .rett s = .next t ∧ SameMemory s2 t ∧ (∀ j, j ≠ s.focus → t.hart j = s.hart j) ∧
        t.curCore.grant = ⟨(s.cur.tstat.extractLsb' 0 8).setWidth 32, (s.cur.tstat.extractLsb' 8 12).toNat⟩ ∧
        t.cur = { s.retired s.cur with
          handler := s.cur.tstat.getLsbD 20, appendResume := none, synced := s.cur.fenced,
          seq := { s.cur.seq with pc := s.cur.tepc, arriving := true, blk := s.cur.tepc } }) ∧
    (canonical s.cur.tblk = true → s.cur.tblk.toNat % 8 ≠ 0 → s.cur.tstat.getLsbD 20 = false → tvecOk (resumed s) s.focus = true →
      Untraced s s.curCoreNo 2 →
      ∃ t, exec .rett s = .next t ∧ OnlyCore s t ∧ Trapped t { cause := .hdr, kind := 0, val := s.cur.tblk } s.cur.tblk s.cur.tblk))

/-- A word that its hart's level forbids traps PROT with the word in TVAL, and changes nothing else (R120, R122, R131,
R135). -/
def Obligations.Privilege : Prop :=
  ∀ (s : State) (i : Instr), forbidden s i → s.cur.window = [] → HasHandler s → Untraced s s.curCoreNo 2 →
    ∃ t, exec i s = .next t ∧ OnlyHart s t ∧
      Trapped t { cause := .prot, kind := 0, val := s.word } s.cur.seq.pc s.cur.seq.blk

/-- CSRR writes the register's value, zero-extended, and clears the destination's taint (R122); nothing else changes. -/
def Sys2Proof.Claim.SystemReads : Prop :=
  ∀ (s : State) (sd : SReg) (r : BitVec 12), Ready s [] → (s.cur.handler = true ∨ taskReadable r) →
    ∃ t, exec (.csrr sd r) s = .next t ∧ OnlyHart s t ∧ ScalarWord s t sd (readSys s r) false s.cur.passes

/-- CSRW, CSRS and CSRC give the old value, and leave the register with the value written but for its reserved and
read-only bits (R122, R137); every other register of the map reads as before, but for WCOUNT, which counts the word, and
VL under a write of VTYPE, which is clamped to the new VLMAX (R123). -/
def Sys2Proof.Claim.SystemWrites : Prop :=
  ∀ (s : State) (i : Instr) (sd sa : SReg) (r : BitVec 12) (v w : Word), csrRule s i = some (sd, r, sa, v) → Ready s [sa] →
    (s.cur.handler = true ∨ taskWritable r) → sysWritten s r v = some w → (r = 0x070 → 1 ≤ v.toNat ∧ v.toNat ≤ 256) →
    ∃ t, exec i s = .next t ∧ OnlyCore s t ∧ WritesScalar s t sd (readSys s r) (s.taintS sa) ∧ readSys t r = w ∧
      (∀ x, x ≠ r → x ≠ 0x080 → ¬(r = 0x000 ∧ x = 0x001) → readSys t x = readSys s x) ∧
      readSys t 0x080 = readSys s 0x080 + 1 ∧ (r = 0x000 → t.vl = min s.vl (maxLength t.vtype)) ∧
      t.cur.seq.pc = s.cur.seq.pc + 8 ∧ t.cur.vec = s.cur.vec

/-- NOP, FENCE, SBAR, YIELD, MARK without a session, and GBAR in a gang of one retire and change nothing but the hart's
place, YIELD's period, and the model's own marks of order: when a FENCE or a GBAR was executed (R40, R124, R128), and that SBAR
puts what its hart has accessed in one of its streams into each of them (R125). In a larger gang GBAR waits. -/
def Sys2Proof.Claim.PlainWords : Prop :=
  (∀ (s : State) (i : Instr) (srcs : List SReg) (h : Hart), plainRule s i = some (srcs, h) → Ready s srcs →
    ∃ t, exec i s = .next t ∧ OnlyHart { s with wrote := t.wrote } t ∧ t.cur = s.retired h ∧
      t.wrote = (match i with | .sbar m => (s.chain s.focus m).wrote | _ => s.wrote)) ∧
  (∀ (s : State), Ready s [] → 1 < (gangOf s s.curCoreNo).length →
    ∃ t, exec .gbar s = .next t ∧ OnlyHart s t ∧ t.cur = { s.cur with wait := some .gbar })

/-- ASIDSW at handler level sets ASID to S[sa][15:0] and PTROOT to S[sb], and ends its block (R126). -/
def Sys2Proof.Claim.ContextSwitch : Prop :=
  ∀ (s : State) (sa sb : SReg), Ready s [sa, sb] → s.cur.handler = true → (s.getS sa).toNat < 2 ^ 16 →
    (s.getS sb).toNat % 2 ^ 12 = 0 →
    ∃ t, exec (.asidsw sa sb) s = .next t ∧ OnlyHart s t ∧
      t.cur = s.retired { s.cur.goes (fallAddress s) with asid := (s.getS sa).setWidth 16, ptroot := s.getS sb }

/-- WFE ends when a barrier that its mask names shows an error or has changed phase since the wait began, and its
destination names those barriers; where there is none it waits, and samples the phases as its wait begins (R127), by the number
of phases that each barrier has completed, which tells one phase from the next but one. The task has
then named the barriers of the mask (R327). -/
def Sys2Proof.Claim.EventWaits : Prop :=
  ∀ (s : State) (sd sa sb : SReg), Ready s [sa, sb] → preempted s s.curCoreNo = false →
    (∀ (m v : Word) (ph : List Nat) (dl : Option Nat) (d : SReg) (tn : Bool), s.cur.wait = some (.wfe m ph dl d tn) →
      (∀ n, n < 64 → v.getLsbD n =
        ((s.getS sa).getLsbD n && ((s.curCore.barAt n).err || (s.curCore.barAt n).epoch != ph.getD n 0))) →
      (v ≠ 0 → ∃ t, exec (.wfe sd sa sb) s = .next t ∧ OnlyCore s t ∧ t.curCore = { s.curCore with used := s.curCore.used ||| s.getS sa } ∧
        ScalarWord s t sd v (s.taintS sa || s.taintS sb) s.cur.passes) ∧
      (v = 0 → ∃ t, exec (.wfe sd sa sb) s = .next t ∧ OnlyCore s t ∧ t.curCore = { s.curCore with used := s.curCore.used ||| s.getS sa } ∧
        t.cur = { s.cur with wait := some (.wfe (s.getS sa) ph dl sd (s.taintS sa || s.taintS sb)) })) ∧
    (∀ ph : List Nat, s.cur.wait = none → (∀ n, n < 64 → (s.getS sa).getLsbD n = true → (s.curCore.barAt n).err = false) →
      ph = ((List.range 64).map fun n => (s.curCore.barAt n).epoch) →
      ∃ t, exec (.wfe sd sa sb) s = .next t ∧ OnlyCore s t ∧ t.curCore = { s.curCore with used := s.curCore.used ||| s.getS sa } ∧ t.cur = { s.cur with wait := some (.wfe (s.getS sa) ph
        (if s.getS sb = 0 then none else some (s.clock + (s.getS sb).toNat)) sd (s.taintS sa || s.taintS sb)) })

/-- STAMP of an attested mark kernel retires at once: its request joins those to be worked off, and the copy engine owns
the region's lines (R131, R405, log entry 17). -/
def Sys2Proof.Claim.StampWords : Prop :=
  ∀ (s : State) (sm sa sb : SReg) (bar : BitVec 6), Ready s [sm, sa, sb] → attested s s.curCoreNo = true →
    ∃ t, exec (.stamp sm sa sb bar) s = .next t ∧ t.cur = s.retired s.cur.passes ∧
      (∀ j, j ≠ s.focus → t.hart j = s.hart j) ∧ (∀ c, c ≠ s.curCoreNo → t.core c = s.core c) ∧
      { t.curCore with task := s.curCore.task, used := s.curCore.used } = s.curCore ∧
      t.curCore.used.getLsbD bar.toNat = true ∧
      { t with harts := s.harts, cores := s.cores, stamps := s.stamps, held := s.held } = s ∧
      ((s.getS sa).toNat % 4096 = 0 → (s.getS sb).toNat ≤ 2 ^ 28 →
        t.held = s.held ++ (s.linesAt s.who 1 (s.getS sa) (s.getS sb).toNat).map fun p =>
          (⟨s.curCoreNo, 64 + s.freeCount, s.cur.asid, p.1, p.2⟩ : Held)) ∧
      (∃ r, t.stamps = s.stamps ++ [r] ∧ r.core = s.curCoreNo ∧ r.hart = s.focus ∧ r.bar = bar.toNat ∧
        r.region = s.getS sa ∧ r.len = s.getS sb ∧ r.manifest = s.getS sm ∧ r.key = 64 + s.freeCount)

/-- The set-length words write VTYPE, with the mode kept, and VL, the lesser of the length asked for and VLMAX, as one grant
of the gang, and give VL (R139, R140, R141). -/
def Sys2Proof.Claim.SetLength : Prop :=
  ∀ (s : State) (i : Instr) (srcs : List SReg) (sd : SReg) (vt : BitVec 32) (n : Nat),
    setlenRule s i = some (srcs, sd, vt, n) → Ready s srcs →
    ∃ t, exec i s = .next t ∧ OnlyCore s t ∧
      t.curCore = { s.curCore with grant := ⟨vt, min n (maxLength vt)⟩ } ∧
      ScalarWord s t sd (BitVec.ofNat 64 (min n (maxLength vt))) (srcs.any s.taintS) s.cur.passes

/-- VMODE to the mode in force only ends its block, and with VL not zero is counted as a lane word (R248); to the other mode it also sets VL to zero, and leaves every slice of
every vector register of the gang full, with contents that the manual leaves open (R143, free values of log entry 9);
masks stay. -/
def Sys2Proof.Claim.ModeChange : Prop :=
  ∀ (s : State) (wide : Bool), Ready s [] → s.cur.status = .running → (s.vl = 0 ∨ LanesRun s) →
    let num := if s.vl = 0 then s.cur.laneSeq else s.cur.laneSeq + 1
    (wide = s.vtype.getLsbD 2 → ∃ t, exec (.vmode wide) s = .next t ∧ OnlyHart s t ∧
      t.cur = s.retired { s.cur.goes (fallAddress s) with laneSeq := num }) ∧
    (wide ≠ s.vtype.getLsbD 2 → ∃ t, exec (.vmode wide) s = .next t ∧
      t.curCore.grant = ⟨(s.vtype &&& ~~~4) ||| (if wide then 4 else 0), 0⟩ ∧
      t.cur.seq = { s.cur.seq.goes (fallAddress s) with ownGrant := none } ∧ t.cur.laneSeq = num ∧ t.cur.wcount = s.cur.wcount + 1 ∧
      (∀ j ∈ gangOf s s.curCoreNo, ∀ reg lane, ((t.hart j).vec.slice reg lane).full = true ∧
        (t.hart j).vec.m = (s.hart j).vec.m) ∧
      (∀ j, j ∉ gangOf s s.curCoreNo → t.hart j = s.hart j) ∧ (∀ c, c ≠ s.curCoreNo → t.core c = s.core c) ∧
      { t with harts := s.harts, cores := s.cores } = s)

/-- The words that trap, taking a trap, and a trap that cannot be taken. -/
def Obligations.TrapEntry : Prop := Claim.SoftwareTraps ∧ Claim.TrapEntry ∧ Claim.DoubleTrap

/-- CSRR, CSRW, CSRS and CSRC on every register of the map. -/
def Obligations.SystemRegisters : Prop := Claim.SystemReads ∧ Claim.SystemWrites

/-- The words that only complete, and ASIDSW. -/
def Obligations.PlainWords : Prop := Claim.PlainWords ∧ Claim.ContextSwitch

/-- WFE and STAMP. -/
def Obligations.EventWaits : Prop := Claim.EventWaits ∧ Claim.StampWords

/-- The grant: the set-length words and VMODE. -/
def Obligations.SetLength : Prop := Claim.SetLength ∧ Claim.ModeChange

/-! ## Lane words -/

namespace Sys2Proof.Claim

/-- A lane word: its work, the scalar registers it reads, what its operands and formats must meet (rank 4 of R41), its
format and its mask. -/
structure LaneWord where
  job : Job
  srcs : List SReg := []
  ok : Bool := true
  fmt : BitVec 32 := 0
  mask : MReg := 0
  strm : BitVec 3 := 0
  deriving DecidableEq, Repr

/-- Element-wise arithmetic (R151 to R157). -/
def arithWord (s : State) (op : Arith) (vd va vb vc : VOp) (f : FReg) (m : MReg) : Option LaneWord :=
  some { job := .arith op vd va vb vc, ok := arithOk op (s.getF f) (ewOf s.vtype), fmt := s.getF f, mask := m }

/-- A lane word without an operand check of its own. -/
def freeWord (j : Job) (m : MReg) (srcs : List SReg := []) : Option LaneWord := some { job := j, mask := m, srcs := srcs }

/-- A reduction or scan (R168, R169). -/
def redWord (s : State) (ok : Bool) (j : Job) (f : FReg) (m : MReg) : Option LaneWord :=
  some { job := j, ok := ok, fmt := s.getF f, mask := m }

/-- The lane words that access no memory and no queue (MAJ 21 to 24). -/
def laneRule (s : State) : Instr → Option LaneWord
  | .vadd vd va vb f m => arithWord s .add vd va vb noOp f m
  | .vsub vd va vb f m => arithWord s .sub vd va vb noOp f m
  | .vmul vd va vb f m => arithWord s .mul vd va vb noOp f m
  | .vfma vd va vb vc f m => arithWord s .fma vd va vb vc f m
  | .vfms vd va vb vc f m => arithWord s .fms vd va vb vc f m
  | .vfnma vd va vb vc f m => arithWord s .fnma vd va vb vc f m
  | .vmin vd va vb f m => arithWord s .min vd va vb noOp f m
  | .vmax vd va vb f m => arithWord s .max vd va vb noOp f m
  | .vabs vd va f m => arithWord s .abs vd va noOp noOp f m
  | .vneg vd va f m => arithWord s .neg vd va noOp noOp f m
  | .vdiv vd va vb f m => arithWord s .div vd va vb noOp f m
  | .vsqrt vd va f m => arithWord s .sqrt vd va noOp noOp f m
  | .vexp2 vd va f m => arithWord s .exp2 vd va noOp noOp f m
  | .vand vd va vb f m => arithWord s .and vd va vb noOp f m
  | .vor vd va vb f m => arithWord s .or vd va vb noOp f m
  | .vxor vd va vb f m => arithWord s .xor vd va vb noOp f m
  | .vnot vd va f m => arithWord s .not vd va noOp noOp f m
  | .vshl vd va vb f m => arithWord s .shl vd va vb noOp f m
  | .vshr vd va vb f m => arithWord s .shr vd va vb noOp f m
  | .vcvt vd va f m => arithWord s .cvt vd va noOp noOp f m
  | .vscale vd va vb f m => arithWord s .scale vd va vb noOp f m
  | .vclamp vd va vb vc f m => arithWord s .clamp vd va vb vc f m
  | .vcmp c md va vb f m =>
    let x := s.getF f
    some { job := .cmp c md va vb, fmt := x, mask := m,
           ok := fmtVec x [fFA x, fFB x] none (ewOf s.vtype) && fFA x = fFB x && cmpAllowed c.toNat (fFA x) }
  | .vsel vd va vb mk f m =>
    let x := s.getF f
    some { job := .sel vd va vb mk, fmt := x, mask := m,
           ok := fmtVec x [fFA x, fFB x, fFD x] (some (fFD x)) (ewOf s.vtype) && fFA x = fFD x && fFB x = fFD x }
  | .vmov vd va m => freeWord (.mov vd va) m
  | .vmovMask md ma m => freeWord (.movMask md ma) m
  | .vmovFromMask vd ma m => freeWord (.movFromMask vd ma) m
  | .vmovToMask md va m => freeWord (.movToMask md va) m
  | .vmovSysreg vd r m => if s.cur.handler || taskReads r then freeWord (.splat vd (readSys s r)) m else none
  | .vmovTdone md m => freeWord (.setMask md s.cur.tdone) m
  | .vsplat vd ss m => freeWord (.splat vd (s.getS ss)) m [ss]
  | .vsplatI vd imm m => freeWord (.splat vd (imm.signExtend 64)) m
  | .viota vd ma f m =>
    let x := s.getF f
    some { job := .iota vd ma, fmt := x, mask := m,
           ok := fmtVec x [fFD x] (some (fFD x)) (ewOf s.vtype) && isIntFmt (fFD x) }
  | .vpopm sd ma m => freeWord (.popm sd ma) m
  | .vfirst sd ma m => freeWord (.first sd ma) m
  | .vmand md ma mb m => freeWord (.maskLogic .and md ma mb) m
  | .vmor md ma mb m => freeWord (.maskLogic .or md ma mb) m
  | .vmxor md ma mb m => freeWord (.maskLogic .xor md ma mb) m
  | .vmnot md ma m => freeWord (.maskLogic .not md ma 0) m
  | .vextr sd va ss f =>
    let x := s.getF f
    some { job := .extr sd va (s.getS ss).toNat (fmtClass (fFA x) = .int true), srcs := [ss], fmt := x,
           ok := fmtVec x [fFA x] none (ewOf s.vtype) }
  | .vextrI sd va imm f =>
    let x := s.getF f
    some { job := .extr sd va imm.toNat (fmtClass (fFA x) = .int true), fmt := x,
           ok := fmtVec x [fFA x] none (ewOf s.vtype) }
  | .vins vd sa ss => freeWord (.ins vd (s.getS ss) (s.getS sa).toNat) 0 [sa, ss]
  | .vinsI vd ss imm => freeWord (.ins vd (s.getS ss) imm.toNat) 0 [ss]
  | .vperm vd va vb f m =>
    let x := s.getF f
    some { job := .perm vd va vb, fmt := x, mask := m,
           ok := fmtVec x [fFA x, fFB x, fFD x] (some (fFD x)) (ewOf s.vtype) && fFA x = fFD x && isIntFmt (fFB x) }
  | .vslideup vd va ss m => freeWord (.slide true vd va (s.getS ss).toNat) m [ss]
  | .vslideupI vd va imm m => freeWord (.slide true vd va imm.toNat) m
  | .vslidedn vd va ss m => freeWord (.slide false vd va (s.getS ss).toNat) m [ss]
  | .vslidednI vd va imm m => freeWord (.slide false vd va imm.toNat) m
  | .vredsum vd va vb f m => redWord s (redOk .sum (s.getF f) (ewOf s.vtype)) (.red .sum vd va vb) f m
  | .vredmax vd va vb f m => redWord s (redOk .max (s.getF f) (ewOf s.vtype)) (.red .max vd va vb) f m
  | .vredmin vd va vb f m => redWord s (redOk .min (s.getF f) (ewOf s.vtype)) (.red .min vd va vb) f m
  | .vscan vd va vb f m =>
    redWord s (redOk .sum (s.getF f) (ewOf s.vtype) && fFA (s.getF f) = fFD (s.getF f)) (.scan vd va vb) f m
  | .vcompress vd va m => freeWord (.compress vd va) m
  | .vfeEmpty vd n m => some { job := .vfe false vd.idx.toNat (n.toNat + 1), mask := m,
                               ok := opIsRow vd && vd.idx.toNat + n.toNat < s.regs }
  | .vfeFull vd n m => some { job := .vfe true vd.idx.toNat (n.toNat + 1), mask := m,
                              ok := opIsRow vd && vd.idx.toNat + n.toNat < s.regs }
  | .vfeTest md va m => some { job := .vfeTest md va.idx.toNat, mask := m,
                               ok := opIsRow va && !va.pol && va.idx.toNat < s.regs }
  | _ => none

/-- A vector access of memory: its kind, addresses, data operand and stride (R176 to R181, R193). -/
def accessWord (s : State) (k : MemKind) (ad : Addressing) (vt : VOp) (m : VMemArgs) (stride : Word := 0)
    (srcs : List SReg := []) : Option LaneWord :=
  some { job := .mem k ad vt (2 ^ m.mw.toNat) (s.getS m.sa) stride, srcs := m.sa :: srcs, mask := m.mask, strm := m.strm,
         ok := 8 * 2 ^ m.mw.toNat ≤ ewOf s.vtype }

/-- A vector atomic (R193). -/
def vectorAtomicWord (s : State) (op : AmoOp) (posted : Bool) (vt vi : VOp) (m : VMemArgs) (esc : Bool) : Option LaneWord :=
  some { job := .mem (.atomic op posted) (.indexed vi esc) vt (2 ^ m.mw.toNat) (s.getS m.sa) 0, srcs := [m.sa],
         mask := m.mask, strm := m.strm,
         ok := 8 * 2 ^ m.mw.toNat = ewOf s.vtype && 32 ≤ ewOf s.vtype && opIsRow vt
           && (op ≠ .cas || vt.idx.toNat + 1 < s.regs) }

/-- The vector words that access memory element by element (MAJ 32 and 33). -/
def memoryRule (s : State) : Instr → Option LaneWord
  | .vld vt m sx => accessWord s (.load sx false) .unit vt m
  | .vlds vt m sb sx => accessWord s (.load sx false) .strided vt m (s.getS sb) [sb]
  | .vgath vt vi m sx esc => accessWord s (.load sx false) (.indexed vi esc) vt m
  | .vldc vt m sx => accessWord s (.load sx true) .unit vt m
  | .vldcS vt m sb sx => accessWord s (.load sx true) .strided vt m (s.getS sb) [sb]
  | .vldcX vt vi m sx esc => accessWord s (.load sx true) (.indexed vi esc) vt m
  | .vst vt m => accessWord s .store .unit vt m
  | .vsts vt m sb => accessWord s .store .strided vt m (s.getS sb) [sb]
  | .vscat vt vi m esc => accessWord s .store (.indexed vi esc) vt m
  | .vpref m lvl => accessWord s (.prefetch lvl) .unit noOp m
  | .vprefS m sb lvl => accessWord s (.prefetch lvl) .strided noOp m (s.getS sb) [sb]
  | .vprefX vi m lvl esc => accessWord s (.prefetch lvl) (.indexed vi esc) noOp m
  | .vamo op vt vi m esc => vectorAtomicWord s op false vt vi m esc
  | .vamoP op vt vi m esc => vectorAtomicWord s op true vt vi m esc
  | .vamoCas vt vi m esc => vectorAtomicWord s .cas false vt vi m esc
  | _ => none

/-- The words that act as a whole on a frame, an array or the deferral queue (MAJ 34 and 40). -/
def wholeRule (s : State) : Instr → Option LaneWord
  | .vspill vt sa sb strm => some { job := .spill vt.idx.toNat (s.getS sb).toNat vt.pol (s.getS sa), srcs := [sa, sb],
                                    strm := strm, ok := rangeOk s vt (s.getS sb).toNat }
  | .vfill vt sa sb strm => some { job := .fill vt.idx.toNat (s.getS sb).toNat (s.getS sa), srcs := [sa, sb], strm := strm,
                                   ok := rangeOk s vt (s.getS sb).toNat }
  | .vappend vt sd m sb => some { job := .append vt sd (2 ^ m.mw.toNat) (s.getS m.sa) (s.getS sb), srcs := [m.sa, sb],
                                  mask := m.mask, strm := m.strm,
                                  ok := 8 * 2 ^ m.mw.toNat = ewOf s.vtype && opIsRow vt }
  | .vdefer k md vi sc m => some { job := .defer (k.toNat + 1) md vi.idx.toNat vi.pol sc, mask := m,
                                   ok := rangeOk s vi (k.toNat + 1) }
  | .vdrain k vt sc => some { job := .drain (k.toNat + 1) vt.idx.toNat sc, ok := rangeOk s vt (k.toNat + 1) }
  | .vdqCount sc => freeWord (.dqCount sc) 0
  | .vdqFree sc => freeWord (.dqFree sc) 0
  | .vdqClear sc => freeWord (.dqClear sc) 0
  | _ => none

/-- Every lane word. -/
def laneWordOf (s : State) (i : Instr) : Option LaneWord := ((laneRule s i).or (memoryRule s i)).or (wholeRule s i)

/-- The lane instruction that the word at the dispatch point makes. -/
def LaneWord.instr (w : LaneWord) (s : State) : LaneInstr := s.laneInstr w.srcs w.fmt w.mask w.strm w.job

/-- What the word reads of the register plane: dead registers read as their contents or as zero (R31). -/
def planeOf (s : State) : View := ⟨s.cur.vec, s.cur.seq.deadV, Config.deadVector s.freeCount⟩

/-- A word's operands pass their checks (R22, R57, R58). -/
def LaneWord.passes (w : LaneWord) (s : State) : Prop :=
  w.ok = true ∧ ∀ o ∈ operands w.job, opOk o s.regs s.vl s.vtype = true

/-- The vector registers that the word names. -/
def LaneWord.regs (w : LaneWord) (s : State) : List Nat := (operands w.job).flatMap (opRegs · s.vl) ++ jobRegs w.job s.vl

/-- No lane of the core stands at its request cap, for a word that accesses memory (R301). -/
def BelowCaps (s : State) (j : Job) : Prop :=
  isMemKind j = true → ∀ l, l < 16 → outstanding s s.curCoreNo l < s.curCore.cap l

/-- The word runs: its operands pass their checks, VL is not zero or does not matter to it (R43, R203), no engine owns a line
that it accesses (R320), no island of its core is held (R299), no lane stands at its request cap (R301), and none of its registers is the destination of a follow-on command
that the hart has not acquired (R232). -/
structure LaneWord.Runs (w : LaneWord) (s : State) : Prop where
  ready : Ready s w.srcs
  passes : w.passes s
  length : s.vl ≠ 0 ∨ isVdq w.job = true
  lines : laneRecalled s s.focus (w.instr s) (planeOf s) = false
  islands : LanesRun s
  caps : BelowCaps s w.job
  own : ∀ f ∈ s.cur.foreign, f.reg ∉ w.regs s

/-- Every slice that the word needs is full and holds no uncorrectable word (R149, R171). -/
def LaneWord.Full (w : LaneWord) (s : State) : Prop :=
  ∀ n ∈ needs (w.instr s) (planeOf s), (planeOf s).full n.reg n.lane = true ∧ (s.cur.vec.slice n.reg n.lane).poison = 0

/-- The hart `h` with its scalar registers and what a write to a register of it changes, as `h0` has them. -/
def sansWrites (h h0 : Hart) : Hart := { h.unwritten h0 with seq := { (h.unwritten h0).seq with deadV := h0.seq.deadV } }

/-- A lane word has completed, having changed the register plane to `v`, raised flags, perhaps written a scalar register,
and made the hart `h` otherwise; the vector registers it wrote are dead no longer (R31). -/
structure LaneDone (s t : State) (j : Job) (v : Vec) (fl : Flags) (sc : Option (SReg × Word × Bool)) (h : Hart) : Prop where
  scalar : match sc with
    | some (r, x, tn) => WritesScalar s t r x tn
    | none => ∀ r, t.getS r = s.getS r ∧ t.taintS r = s.taintS r
  dead : ∀ r, t.cur.seq.deadV.getLsbD r = (s.cur.seq.deadV.getLsbD r && !(jobRegs j s.vl).contains r)
  hart : sansWrites t.cur s.cur = s.retired { h.passes with vec := v, vflags := s.cur.vflags ||| fl, laneSeq := h.laneSeq + 1 }

/-- Element `x` of register `r` at `w` bits. -/
def elemOf (v : Vec) (r x w : Nat) : Nat := (v.slice r (x % 16)).elem w x

/-- The value that a word that works element by element gives to element `e` of its destination, and the width at which it
writes it (R152, R159 to R161). -/
def elementValue (s : State) (w : LaneWord) (e : Nat) : Option (VOp × Nat × Nat) :=
  let ew := ewOf s.vtype
  let rd (o : VOp) (n : Nat) := (planeOf s).src o (vlmax s.vtype) e n
  match w.job with
  | .arith op vd va vb vc =>
    let n (c : Nat) := srcWidth c ew
    let b := if (elemSources w.job).length < 2 then 0 else rd vb (n (fFB w.fmt))
    let c := if (elemSources w.job).length < 3 then 0 else rd vc (n (fFC w.fmt))
    some (vd, n (fFD w.fmt), (arithElem op (rndOf s.vtype) s.cur.seq.twindow w.fmt (rd va (n (fFA w.fmt))) b c).1)
  | .sel vd va vb mk =>
    let x := if s.cur.vec.maskBit mk.toNat e then rd va ew else rd vb ew
    some (vd, ew, match fmtClass (fFD w.fmt) with
      | .tick => tickByte (tickOf s.cur.seq.twindow x)
      | .rns => (rnsOf x).word
      | _ => x)
  | .mov vd va => some (vd, ew, rd va ew)
  | .movFromMask vd ma => some (vd, ew, if s.cur.vec.maskBit ma.toNat e then 1 else 0)
  | .splat vd x => some (vd, ew, x.toNat % 2 ^ ew)
  | _ => none

/-- The bit that a word that works element by element gives to bit `e` of a mask register (R158, R162, R164). -/
def maskValue (s : State) (w : LaneWord) (e : Nat) : Option (MReg × Bool) :=
  let ew := ewOf s.vtype
  let rd (o : VOp) := (planeOf s).src o (vlmax s.vtype) e ew
  let bit (m : MReg) := s.cur.vec.maskBit m.toNat e
  match w.job with
  | .cmp c md va vb => some (md, (cmpElem c.toNat (rndOf s.vtype) s.cur.seq.twindow w.fmt (rd va) (rd vb)).1)
  | .movMask md ma => some (md, bit ma)
  | .movToMask md va => some (md, rd va ≠ 0)
  | .setMask md bits => some (md, bits.getLsbD e)
  | .maskLogic .and md ma mb => some (md, bit ma && bit mb)
  | .maskLogic .or md ma mb => some (md, bit ma || bit mb)
  | .maskLogic .xor md ma mb => some (md, bit ma != bit mb)
  | .maskLogic .not md ma _ => some (md, !bit ma)
  | .vfeTest md r => some (md, (planeOf s).full r (e % 16))
  | _ => none

/-- Element `e` is active (R146): below VL and its bit of the governing mask set. -/
def activeAt (s : State) (w : LaneWord) (e : Nat) : Bool := e < s.vl && s.cur.vec.maskBit w.mask.toNat e

/-- The address of element `e` of a memory word (R181). -/
def elementAddress (s : State) (w : LaneWord) (e : Nat) : Word :=
  match w.job with
  | .mem _ .unit _ mw base _ => base + BitVec.ofNat 64 (e * mw)
  | .mem _ .strided _ _ base stride => base + BitVec.ofNat 64 e * stride
  | .mem _ (.indexed vi scaled) _ mw base _ =>
    let x : BitVec (ewOf s.vtype) := BitVec.ofNat _ ((planeOf s).src vi (vlmax s.vtype) e (ewOf s.vtype))
    base + x.signExtend 64 * (if scaled then BitVec.ofNat 64 mw else 1)
  | _ => 0

/-- The elements that a memory word accesses: active, and not done before its resumption (R183, R191), ascending. -/
def accessed (s : State) (w : LaneWord) : List Nat :=
  (List.range s.vl).filter fun e => activeAt s w e && !s.cur.skip.getLsbD e

/-- Loads one after another: the state after them and their values, if each is allowed. -/
def loadAll (s : State) (who : Who) (addr : Nat → Word) (n : Nat) : List Nat → Option (State × List (Nat × Nat))
  | [] => some (s, [])
  | e :: t => match loadAt s who (addr e) n with
    | .error _ => none
    | .ok (s1, v) => (loadAll s1 who addr n t).map fun r => (r.1, (e, v) :: r.2)

/-- Stores one after another, if each is allowed. -/
def storeAll (s : State) (who : Who) (addr : Nat → Word) (n : Nat) (data : Nat → Nat) : List Nat → Option State
  | [] => some s
  | e :: t => match storeAt s who (addr e) n (data e) with
    | .error _ => none
    | .ok s1 => storeAll s1 who addr n data t

/-- Atomics one after another: the state after them and the old values, if each is allowed. -/
def atomicAll (s : State) (who : Who) (op : AmoOp) (addr : Nat → Word) (n : Nat) (data : Nat → Nat × Nat) :
    List Nat → Option (State × List (Nat × Nat))
  | [] => some (s, [])
  | e :: t => match atomicAt s who op (addr e) n (data e).1 (data e).2 with
    | .error _ => none
    | .ok (s1, m) => (atomicAll s1 who op addr n data t).map fun r => (r.1, (e, m) :: r.2)

/-- Posted atomics one after another, if each is allowed. -/
def postAll (s : State) (strm : BitVec 3) (op : AmoOp) (addr : Nat → Word) (n : Nat) (data : Nat → Nat) : List Nat → Option State
  | [] => some s
  | e :: t => match postAtomic s s.focus strm op (addr e) n (data e) with
    | .error _ => none
    | .ok s1 => postAll s1 strm op addr n data t

/-- The frame of `n` registers from `first` (R197): the header, and one record for each register. -/
def frameBytes (s : State) (first n : Nat) : List Byte :=
  let size := (s.vl * ewOf s.vtype + 511) / 512 * 64
  let el r e := leBytes (ewOf s.vtype / 8) ((planeOf s).elemAt r e (ewOf s.vtype))
  leBytes 4 s.vl ++ [s.vtype.setWidth 8, BitVec.ofNat 8 n, BitVec.ofNat 8 first] ++ List.replicate 57 0 ++
    (List.range n).flatMap fun j =>
      let es := (List.range s.vl).flatMap (el (first + j))
      es ++ List.replicate (size - es.length) 0

/-- Where VAPPEND puts element `e` of the elements `es` behind the tail `t` (R204). -/
def appendPlace (s : State) (m : VMemArgs) (t : Word) (es : List Nat) (e : Nat) : Word :=
  s.getS m.sa + (t + BitVec.ofNat 64 (es.idxOf e)) * BitVec.ofNat 64 (2 ^ m.mw.toNat)

/-- What VAPPEND stores of element `e`. -/
def appendData (s : State) (vt : VOp) (m : VMemArgs) (e : Nat) : Nat :=
  (planeOf s).src vt (vlmax s.vtype) e (ewOf s.vtype) % 2 ^ (8 * 2 ^ m.mw.toNat)

/-- The value that a load of `n` bytes gives an element of `ew` bits (R178). -/
def loadedElement (sx : Bool) (n ew v : Nat) : Nat :=
  if sx then ((BitVec.ofNat (8 * n) v).signExtend ew).toNat else v

/-- An operand's elements, where it lies as a row, a column or a diagonal (R20, R21), receive the values listed for them, those
that lie in a slice, and no other element of any register changes. -/
def Receives (v v' : Vec) (o : VOp) (vm w : Nat) (xs : List (Nat × Nat)) : Prop :=
  (∀ p ∈ xs, (opAt o vm p.1).2 / 16 * w < 1024 → elemOf v' (opAt o vm p.1).1 (opAt o vm p.1).2 w = p.2 % 2 ^ w) ∧
  (∀ r x, (∀ p ∈ xs, opAt o vm p.1 ≠ (r, x)) → elemOf v' r x w = elemOf v r x w) ∧ v'.m = v.m

end Sys2Proof.Claim

/-- Every lane word that accesses no memory completes, once its operands pass their checks and the slices it needs are full
and sound: it makes the changes that its rule gives from the registers as they stood before it (R146), raises its flags,
writes its scalar result, if any, and changes nothing else. A register of it that is the destination of a follow-on command which
the hart has not acquired holds a free value first (R232, log entry 57). The hart runs direct, as every hart does before
LANE_BROADCAST (log entry 7). -/
def Sys2Proof.Claim.LaneWords : Prop :=
  ∀ (s : State) (i : Instr) (w : LaneWord), laneRule s i = some w → Ready s w.srcs → w.passes s → s.vl ≠ 0 → LanesRun s →
    let h := s.cur.meet s.freeCount (w.regs s)
    let p : View := ⟨h.vec, s.cur.seq.deadV, Config.deadVector s.freeCount⟩
    (∀ n ∈ needs (w.instr s) p, p.full n.reg n.lane = true ∧ (h.vec.slice n.reg n.lane).poison = 0) →
    let x := wholeResult (w.instr s) p
    ∃ t, exec i s = .next t ∧ OnlyHart s t ∧ LaneDone s t w.job (h.vec.applyAll x.writes) x.flags x.scalar h

/-- A lane word whose operands or formats fail their checks traps ILL with the word in TVAL (R22, R57, R58, rank 4 of R41);
with VL zero, and its checks passed, it retires at the sequencer: nothing changes but the scalar that it writes, a count of
0, or all ones for VFIRST (R43). -/
def Sys2Proof.Claim.LaneChecks : Prop :=
  ∀ (s : State) (i : Instr) (w : LaneWord), laneWordOf s i = some w → Ready s w.srcs →
    (¬w.passes s → HasHandler s → Untraced s s.curCoreNo 2 → ∃ t, exec i s = .next t ∧ OnlyHart s t ∧
      Trapped t { cause := .ill, kind := 0, val := s.word } s.cur.seq.pc s.cur.seq.blk) ∧
    (w.passes s → s.vl = 0 → isVdq w.job = false →
      ∃ t, exec i s = .next t ∧ OnlyHart s t ∧
        (match w.job with
         | .popm sd _ | .extr sd _ _ _ | .defer _ _ _ _ sd | .drain _ _ sd => ScalarWord s t sd 0 false s.cur.passes
         | .first sd _ => ScalarWord s t sd (BitVec.allOnes 64) false s.cur.passes
         | _ => t.cur = s.retired s.cur.passes))

/-- Where a word works element by element, each active element of its destination holds the value that its rule gives, and
every other element of every register is as it was; masks stay (R146, R151). That VSEL makes RNS32 and TICK8 elements canonical,
and that VMOV copies bits as they are, is the model's reading (log entries 69 and 34). -/
def Sys2Proof.Claim.ElementResults : Prop :=
  ∀ (s : State) (i : Instr) (w : LaneWord) (vd : VOp) (n : Nat), laneRule s i = some w → w.Runs s → w.Full s →
    (∃ x, elementValue s w 0 = some (vd, n, x)) →
    ∃ t, exec i s = .next t ∧ t.cur.vec.m = s.cur.vec.m ∧
      (∀ e v, e < vlmax s.vtype → activeAt s w e = true → elementValue s w e = some (vd, n, v) →
        elemOf t.cur.vec (opAt vd (vlmax s.vtype) e).1 (opAt vd (vlmax s.vtype) e).2 n = v % 2 ^ n) ∧
      (∀ r x, (∀ e, activeAt s w e = true → opAt vd (vlmax s.vtype) e ≠ (r, x)) →
        elemOf t.cur.vec r x n = elemOf s.cur.vec r x n)

/-- Where a word writes a mask register bit by bit, each active bit is what its rule gives, and every other bit of every mask
is as it was; a write to M0 is ignored, and no vector register changes (R144, R146, R158, R164). -/
def Sys2Proof.Claim.MaskResults : Prop :=
  ∀ (s : State) (i : Instr) (w : LaneWord) (md : MReg), laneRule s i = some w → w.Runs s → w.Full s →
    (∃ b, maskValue s w 0 = some (md, b)) →
    ∃ t, exec i s = .next t ∧ t.cur.vec.v = s.cur.vec.v ∧
      (∀ e b, e < 2048 → md ≠ 0 → activeAt s w e = true → maskValue s w e = some (md, b) → t.cur.vec.maskBit md.toNat e = b) ∧
      (∀ (m : MReg) e, (m = 0 ∨ m ≠ md ∨ activeAt s w e = false) → t.cur.vec.maskBit m.toNat e = s.cur.vec.maskBit m.toNat e)

/-- VREDSUM over an integer format without saturation and scaling adds the active elements to element 0 of its second source
modulo 2^EW, in whatever order; element 0 of its destination receives the sum, and no other element changes (R89, R168). -/
def Sys2Proof.Claim.IntegerSums : Prop :=
  ∀ (s : State) (w : LaneWord) (vd va vb : VOp) (f : FReg) (m : MReg), laneRule s (.vredsum vd va vb f m) = some w →
    w.Runs s → w.Full s → isIntFmt (fFD w.fmt) = true → fFA w.fmt = fFD w.fmt → fScale w.fmt = 0 →
    (rndOf s.vtype).sat = false →
    ∃ t, exec (.vredsum vd va vb f m) s = .next t ∧
      Receives s.cur.vec t.cur.vec vd (vlmax s.vtype) (ewOf s.vtype)
        [(0, (planeOf s).src vb (vlmax s.vtype) 0 (ewOf s.vtype)
          + (((List.range s.vl).filter (activeAt s w)).map fun e =>
              (planeOf s).src va (vlmax s.vtype) e (ewOf s.vtype)).sum)]

/-- A word that needs an empty slice under policy 0 waits; one that needs an empty slice only under policy 1 traps EMPTY
with the word in TVAL and, where it acts at a rendezvous, changes no register (R149, R133). That one which meets both kinds waits,
also where one lane meets both, is the model's choice (log entry 71), and so is KIND 0 (log entry 97). -/
def Sys2Proof.Claim.EmptySlices : Prop :=
  ∀ (s : State) (i : Instr) (w : LaneWord) (n : Need), laneRule s i = some w → w.Runs s →
    n ∈ needs (w.instr s) (planeOf s) → (planeOf s).full n.reg n.lane = false →
    (n.pol = false → ∃ t, exec i s = .next t ∧ OnlyHart s t ∧ t.cur = { s.cur with wait := some .lanes }) ∧
    ((∀ x ∈ needs (w.instr s) (planeOf s), (planeOf s).full x.reg x.lane = true ∨ x.pol = true) →
      (∀ x ∈ needs (w.instr s) (planeOf s), (s.cur.vec.slice x.reg x.lane).poison = 0) →
      HasHandler s → Untraced s s.curCoreNo 2 →
      ∃ t, exec i s = .next t ∧ OnlyHart s t ∧
        Trapped t { cause := .empty, kind := 0, val := s.word } s.cur.seq.pc s.cur.seq.blk ∧
        (isRendezvous w.job = true → t.cur.vec = s.cur.vec))

/-- A vector load, each of whose active elements may be read, gives each of them the value at its address, extended to EW
bits, in ascending order; every other element of every register keeps its value, and no byte of memory changes but for
what the translations do (R176, R178, R181). -/
def Sys2Proof.Claim.VectorLoads : Prop :=
  ∀ (s s1 : State) (i : Instr) (w : LaneWord) (sx taint : Bool) (ad : Addressing) (vt : VOp) (mw : Nat) (base stride : Word)
    (xs : List (Nat × Nat)), memoryRule s i = some w → w.job = .mem (.load sx taint) ad vt mw base stride → w.Runs s →
    w.Full s → loadAll s s.who (elementAddress s w) mw (accessed s w) = some (s1, xs) →
    ∃ t, exec i s = .next t ∧ OnlyMemory s t ∧ SameMemory s1 t ∧
      Receives s.cur.vec t.cur.vec vt (vlmax s.vtype) (ewOf s.vtype)
        (xs.map fun p => (p.1, loadedElement sx mw (ewOf s.vtype) p.2)) ∧
      sansWrites t.cur s.cur = s.retired { lanePassed s with vec := t.cur.vec }

/-- A vector store, each of whose active elements may be written, stores the low bytes of each at its address, in ascending
order, and changes no register (R176, R179, R181). -/
def Sys2Proof.Claim.VectorStores : Prop :=
  ∀ (s s1 : State) (i : Instr) (w : LaneWord) (ad : Addressing) (vt : VOp) (mw : Nat) (base stride : Word),
    memoryRule s i = some w → w.job = .mem .store ad vt mw base stride → w.Runs s → w.Full s →
    storeAll s (s.who.on w.strm) (elementAddress s w) mw
      (fun e => (planeOf s).src vt (vlmax s.vtype) e (ewOf s.vtype) % 2 ^ (8 * mw)) (accessed s w) = some s1 →
    ∃ t, exec i s = .next t ∧ OnlyMemory s t ∧ SameMemory s1 t ∧ t.cur = s.retired (lanePassed s)

/-- A vector atomic performs its active elements in ascending order, and gives each of them the old value (R193); a posted
one gives nothing, and in a BUFFERED task its elements outside the pool window join the commit queue (R195); a prefetch
changes nothing but the lines that L2 holds (R196): that it makes no walk, and so leaves the translation units as they are, is the
model's choice (log entry 36). -/
def Obligations.VectorAtomics : Prop :=
  ∀ (s : State) (i : Instr) (w : LaneWord) (ad : Addressing) (vt : VOp) (mw : Nat) (base stride : Word),
    memoryRule s i = some w → w.Runs s →
    (let d e := ((planeOf s).src vt (vlmax s.vtype) e (8 * mw))
     (∀ op s1 xs, w.Full s → w.job = .mem (.atomic op false) ad vt mw base stride →
      atomicAll s (s.who.on w.strm) op (elementAddress s w) mw
        (fun e => (d e, if op = .cas then (planeOf s).src ⟨.row, vt.pol, vt.idx + 1⟩ (vlmax s.vtype) e (8 * mw) else 0))
        (accessed s w) = some (s1, xs) →
      ∃ t, exec i s = .next t ∧ OnlyMemory s t ∧ SameMemory s1 t ∧
        Receives s.cur.vec t.cur.vec vt (vlmax s.vtype) (ewOf s.vtype) xs ∧
        sansWrites t.cur s.cur = s.retired { lanePassed s with vec := t.cur.vec }) ∧
     (∀ op s1, w.Full s → w.job = .mem (.atomic op true) ad vt mw base stride →
      postAll s w.strm op (elementAddress s w) mw d (accessed s w) = some s1 →
      ∃ t, exec i s = .next t ∧ OnlyMemory s t ∧ SameMemory s1 t ∧
        t.cur = s.retired { lanePassed s with commitQ := s1.cur.commitQ }) ∧
     (∀ l2only, w.job = .mem (.prefetch l2only) ad vt mw base stride →
      ∃ t, exec i s = .next t ∧ t.cur = s.retired (lanePassed s) ∧ (∀ j, j ≠ s.focus → t.hart j = s.hart j) ∧
        { t with harts := s.harts, lines := s.lines } = s))

/-- VSPILL writes its frame, a 64-byte header with VL, VTYPE, the count and the first register, then one record for each
register, and changes no register; VFILL of such a frame gives each register its elements below VL (R197, R198). The
width of the accesses, 8 bytes, is the model's choice (log entry 37). -/
def Sys2Proof.Claim.SpillFrames : Prop :=
  (∀ (s s1 : State) (vt : VOp) (sa sb : SReg) (strm : BitVec 3) (w : LaneWord), wholeRule s (.vspill vt sa sb strm) = some w →
    w.Runs s → w.Full s → (s.getS sa).toNat % 64 = 0 →
    writeRun s (s.who.on strm) (s.getS sa) 8 ((frameBytes s vt.idx.toNat (s.getS sb).toNat).length / 8)
      (frameBytes s vt.idx.toNat (s.getS sb).toNat) = (s1, none) →
    ∃ t, exec (.vspill vt sa sb strm) s = .next t ∧ OnlyMemory s t ∧ SameMemory s1 t ∧ t.cur = s.retired (lanePassed s)) ∧
  (∀ (s s1 s2 : State) (vt : VOp) (sa sb : SReg) (strm : BitVec 3) (w : LaneWord) (hd bs : List Byte),
    wholeRule s (.vfill vt sa sb strm) = some w → w.Runs s → (s.getS sa).toNat % 64 = 0 →
    readRun s (s.who.on strm) (s.getS sa) 8 8 = .ok (s1, hd) →
    leAt hd 0 4 = s.vl → leAt hd 4 1 % 8 = s.vtype.toNat % 8 → leAt hd 5 1 = (s.getS sb).toNat →
    leAt hd 6 1 = vt.idx.toNat →
    readRun s1 (s1.who.on strm) (s.getS sa + 64) 8
      ((s.getS sb).toNat * ((s.vl * ewOf s.vtype + 511) / 512 * 64) / 8) = .ok (s2, bs) →
    ∃ t, exec (.vfill vt sa sb strm) s = .next t ∧ OnlyMemory s t ∧ SameMemory s2 t ∧
      sansWrites t.cur s.cur = s.retired { lanePassed s with vec := t.cur.vec } ∧ t.cur.vec.m = s.cur.vec.m ∧
      (∀ j e, j < (s.getS sb).toNat → e < s.vl → e / 16 * ewOf s.vtype < 1024 → elemOf t.cur.vec (vt.idx.toNat + j) e (ewOf s.vtype) =
        leAt bs (j * ((s.vl * ewOf s.vtype + 511) / 512 * 64) + e * (ewOf s.vtype / 8)) (ewOf s.vtype / 8)) ∧
      (∀ r e, ¬(vt.idx.toNat ≤ r ∧ r < vt.idx.toNat + (s.getS sb).toNat ∧ e < s.vl) →
        elemOf t.cur.vec r e (ewOf s.vtype) = elemOf s.cur.vec r e (ewOf s.vtype)))

/-- VAPPEND adds the number of its active elements to the tail word, gives the old tail, and stores the elements one behind
another from that place, in ascending order (R204). The append-resume record of a trap that its hart is handling stays (R205). -/
def Sys2Proof.Claim.Appends : Prop :=
  ∀ (s s1 s2 : State) (vt : VOp) (sd : SReg) (m : VMemArgs) (sb : SReg) (w : LaneWord) (tl : Nat),
    wholeRule s (.vappend vt sd m sb) = some w → w.Runs s → w.Full s → s.cur.resume = none → s.cur.skip = 0 →
    (let es := (List.range 2048).filter (activeAt s w)
     atomicAt s (s.who.on m.strm) .add (s.getS sb) 8 es.length 0 = .ok (s1, tl) ∧
     storeAll s1 (s.who.on m.strm) (appendPlace s m (BitVec.ofNat 64 tl) es) (2 ^ m.mw.toNat) (appendData s vt m) es = some s2) →
    ∃ t, exec (.vappend vt sd m sb) s = .next t ∧ OnlyMemory s t ∧ SameMemory s2 t ∧
      ScalarWord s t sd (BitVec.ofNat 64 tl) ([m.sa, sb].any s.taintS) (lanePassed s)

/-- A VAPPEND that RETT resumed does not add to the tail again and does not write its destination: it stores the elements of
the recorded set that are not done, each at its recorded place, whatever the mask holds now (R205). -/
def Sys2Proof.Claim.AppendResumes : Prop :=
  ∀ (s s1 : State) (vt : VOp) (sd : SReg) (m : VMemArgs) (sb : SReg) (w : LaneWord) (r : AppendResume),
    wholeRule s (.vappend vt sd m sb) = some w → w.Runs s → w.Full s → s.cur.resume = some r →
    (let all := (List.range 2048).filter fun e => r.set.getLsbD e
     storeAll s (s.who.on m.strm) (appendPlace s m r.t all) (2 ^ m.mw.toNat) (appendData s vt m)
       (all.filter fun e => !s.cur.skip.getLsbD e) = some s1) →
    ∃ t, exec (.vappend vt sd m sb) s = .next t ∧ OnlyMemory s t ∧ SameMemory s1 t ∧
      t.cur = s.retired (lanePassed s)

/-- VDEFER appends one entry for each active element while the queue has room, marks in its mask which were taken, and gives
their number; VDRAIN takes the oldest entries, at most VL, and gives their number; VDQ gives the count or the room, and
VDQ.CLEAR empties the queue (R200 to R203). -/
def Sys2Proof.Claim.DeferralQueue : Prop :=
  ∀ (s : State) (i : Instr) (w : LaneWord), wholeRule s i = some w → w.Runs s → w.Full s →
    (∀ k md vi sc m, i = .vdefer k md vi sc m →
      let es := (List.range s.vl).filter (activeAt s w)
      let took := es.take (256 - s.cur.defer.length)
      ∃ t, exec i s = .next t ∧ OnlyHart s t ∧
        t.cur.defer = s.cur.defer ++ took.map (fun e => ⟨(List.range (k.toNat + 1)).map fun j =>
          BitVec.ofNat 64 ((planeOf s).elemAt (vi.idx.toNat + j) e (ewOf s.vtype))⟩) ∧
        WritesScalar s t sc (BitVec.ofNat 64 took.length) false ∧ t.cur.vec.v = s.cur.vec.v ∧
        (∀ e ∈ es, e < 2048 → md ≠ 0 → t.cur.vec.maskBit md.toNat e = decide (e ∈ took)) ∧
        (∀ (x : MReg) e, (x = 0 ∨ x ≠ md ∨ e ∉ es) → t.cur.vec.maskBit x.toNat e = s.cur.vec.maskBit x.toNat e)) ∧
    (∀ k vt sc, i = .vdrain k vt sc →
      (∀ j e, j < k.toNat + 1 → e < min s.vl s.cur.defer.length → (s.cur.vec.slice (vt.idx.toNat + j) (e % 16)).poison = 0) →
      let n := min s.vl s.cur.defer.length
      ∃ t, exec i s = .next t ∧ OnlyHart s t ∧ t.cur.defer = s.cur.defer.drop n ∧
        WritesScalar s t sc (BitVec.ofNat 64 n) false ∧ t.cur.vec.m = s.cur.vec.m ∧
        (∀ j e (d : DeferEntry), j < k.toNat + 1 → e < n → e / 16 * ewOf s.vtype < 1024 → s.cur.defer[e]? = some d →
          elemOf t.cur.vec (vt.idx.toNat + j) e (ewOf s.vtype) = (d.vals.getD j 0).toNat % 2 ^ ewOf s.vtype) ∧
        (∀ r e, ¬(vt.idx.toNat ≤ r ∧ r < vt.idx.toNat + k.toNat + 1 ∧ e < n) →
          elemOf t.cur.vec r e (ewOf s.vtype) = elemOf s.cur.vec r e (ewOf s.vtype))) ∧
    (∀ sc, (i = .vdqCount sc ∨ i = .vdqClear sc) → ∃ t, exec i s = .next t ∧ OnlyHart s t ∧
      ScalarWord s t sc (BitVec.ofNat 64 s.cur.defer.length) false
        { lanePassed s with defer := if i = .vdqClear sc then [] else s.cur.defer }) ∧
    (∀ sc, i = .vdqFree sc → ∃ t, exec i s = .next t ∧ OnlyHart s t ∧
      ScalarWord s t sc (BitVec.ofNat 64 (256 - s.cur.defer.length)) false (lanePassed s))

/-- The lane words that access no memory: their completion and frame, and their checks. -/
def Obligations.LaneWords : Prop := Claim.LaneWords ∧ Claim.LaneChecks

/-- The values of the words that work element by element, and the integer sums. -/
def Obligations.ElementResults : Prop := Claim.ElementResults ∧ Claim.IntegerSums

/-- The mask bits of the words that work bit by bit, and the words that meet an empty slice. -/
def Obligations.MaskResults : Prop := Claim.MaskResults ∧ Claim.EmptySlices

/-- The vector loads and stores. -/
def Obligations.VectorAccesses : Prop := Claim.VectorLoads ∧ Claim.VectorStores

/-- VSPILL and VFILL frames, and the deferral queue. -/
def Obligations.SpillFrames : Prop := Claim.SpillFrames ∧ Claim.DeferralQueue

/-- VAPPEND, and its resumption. -/
def Obligations.Appends : Prop := Claim.Appends ∧ Claim.AppendResumes

/-! ## Engine commands, barriers, the truss, tasks -/

namespace Sys2Proof.Claim

/-- No enabled or disabled term of a core's truss has a condition on a barrier (R241). -/
def Untermed (c : Core) (bar : Nat) : Prop := ∀ n, n < 16 → ∀ p ∈ termConds (Table.get 0 c.truss n), p.2 ≠ bar

/-- A command of an engine: the registers it reads, its operands and format, and what must hold of them (R215). -/
structure EngineWord where
  srcs : List SReg
  va : Word := 0
  vb : Word := 0
  vc : Word := 0
  fmt : BitVec 32 := 0
  ok : Prop

/-- A matrix word (R220 to R228). -/
def matrixRule (s : State) (i : Instr) (srcs : List SReg) (va vb vc : Word) (fmt : BitVec 32) : EngineWord :=
  { srcs := srcs, va := va, vb := vb, vc := vc, fmt := fmt,
    ok := matrixChecks (s.command i va vb vc fmt) s.word (agran s.cur.partw) s.regs = .ok () }

/-- The engine words (MAJ 44, 48 and 52). -/
def engineRule (s : State) (i : Instr) : Option EngineWord :=
  match i with
  | .mtile a | .mtileAcc a | .mtileDecay a =>
    some (matrixRule s i [a.sa, a.sb, a.sc] (s.getS a.sa) (s.getS a.sb) (s.getS a.sc) (s.getF a.fmt))
  | .mzero _ f _ => some (matrixRule s i [] 0 0 0 (s.getF f))
  | .mconv sa _ f _ => some (matrixRule s i [sa] (s.getS sa) 0 0 (s.getF f))
  | .mconvV sb sc _ _ f _ => some (matrixRule s i [sb, sc] 0 (s.getS sb) (s.getS sc) (s.getF f))
  | .mload sa sb _ _ => some (matrixRule s i [sa, sb] (s.getS sa) (s.getS sb) 0 0)
  | .aspill sa _ _ | .afill sa _ _ => some (matrixRule s i [sa] (s.getS sa) 0 0 0)
  | .cpy sa _ => some { srcs := [sa], va := s.getS sa, ok := (s.getS sa).toNat % 64 = 0 }
  | .cpyg sa sb _ | .cpys sa sb _ =>
    some { srcs := [sa, sb], va := s.getS sa, vb := s.getS sb,
           ok := (s.getS sa).toNat % 64 = 0 ∧ (s.getS sb).toNat % 4 = 0 }
  | .cfill sa sb _ => some { srcs := [sa, sb], va := s.getS sa, vb := s.getS sb, ok := (s.getS sa).toNat % 64 = 0 }
  | .twin sa vo _ =>
    some { srcs := [sa], va := s.getS sa, ok := ewOf s.vtype = 8 ∧ vo.dir = .row ∧ vo.idx.toNat < s.regs ∧
      (∀ f ∈ s.cur.foreign, f.reg ≠ vo.idx.toNat) ∧
      ∀ l, l < 16 → (planeOf s).full vo.idx.toNat l = true ∧
        ((s.cur.vec.slice vo.idx.toNat l).poison = 0 ∨ s.cur.seq.deadV.getLsbD vo.idx.toNat = true) }
  | .twld sa _ => some { srcs := [sa], va := s.getS sa, ok := (s.getS sa).toNat % 64 = 0 }
  | .tlaunch _ | .tlaunchAnd _ | .treset _ | .tcaptCount _ _ => some { srcs := [], ok := True }
  | .tlaunchMix sa _ => some { srcs := [sa], va := s.getS sa, ok := True }
  | .tcapt vo _ => some { srcs := [], ok := ewOf s.vtype = 8 ∧ vo.dir = .row ∧ vo.pol = false ∧ vo.idx.toNat < s.regs }
  | .tcaptFirstk sb vo _ =>
    some { srcs := [sb], vb := s.getS sb, ok := ewOf s.vtype = 8 ∧ vo.dir = .row ∧ vo.pol = false ∧ vo.idx.toNat < s.regs ∧
      1 ≤ (s.getS sb).toNat ∧ (s.getS sb).toNat ≤ 64 }
  | _ => none

/-- The engine, barrier, slot and parking bit of a command (R206, R212). -/
def engineSlot (i : Instr) : Option (Nat × Nat × Nat × Bool) := (cmdInfo i).map fun p => (p.1, p.2.bar.toNat, p.2.slot.toNat, p.2.q)

/-- The command is ready to be issued: the core has its engine (R44), its operands pass, and no context image is being
written. -/
structure EngineWord.Runs (w : EngineWord) (s : State) (eng : Nat) : Prop where
  ready : Ready s w.srcs
  present : s.curCore.lacks.getLsbD (eng + 1) = false
  ok : w.ok
  cutting : s.curCore.imaging = false
  untraced : Untraced s s.curCoreNo 1

/-- The state word of a barrier (R236). -/
def barrierWord (b : Barrier) : Word :=
  b.fcode ++ (0 : BitVec 14) ++ BitVec.ofBool b.err ++ BitVec.ofBool b.phase ++ BitVec.ofNat 16 b.expect ++ BitVec.ofNat 16 b.arrived

/-- A barrier's counts fit their fields (R236). -/
def Fits (b : Barrier) : Prop := b.expect < 2 ^ 16 ∧ b.arrived < 2 ^ 16

/-- A barrier that completes a phase (R237); the model counts its phases, which is no state of the spec's. -/
def phased (b : Barrier) : Barrier := { b with arrived := 0, phase := !b.phase, epoch := b.epoch + 1 }

/-- A barrier after `n` normal arrivals (R237): a phase completes with each arrival that makes ARRIVED equal to EXPECT. -/
def arrivedBy (b : Barrier) : Nat → Barrier
  | 0 => b
  | n + 1 =>
    let x := arrivedBy b n
    if x.arrived + 1 = x.expect then phased x else { x with arrived := x.arrived + 1 }

/-- The hart `h` once it has ordered its earlier stores before its later commands (R316, R317). -/
def ordered (s : State) (h : Hart) : Hart := { h with released := s.freeCount }

/-- The term in place `n` of a core's truss is one that the next completion of barrier `bar` fires (R241): it is enabled, one of its
conditions names the barrier, with the parity that this completion gives it, and its other conditions hold. -/
structure Due (c : Core) (bar n : Nat) (v : Word) : Prop where
  term : Table.get 0 c.truss n = v
  enabled : v.getLsbD 39 = true
  named : (!(c.barAt bar).phase, bar) ∈ termConds v
  holds : ∀ p ∈ termConds v, p.1 = (if p.2 = bar then !(c.barAt bar).phase else (c.barAt p.2).phase)
  alone : ∀ m, m < 16 → m ≠ n → ∀ p ∈ termConds (Table.get 0 c.truss m), p.2 ≠ bar

/-- The core with barrier `n` changed and every other barrier as it was. -/
def BarrierOnly (c c' : Core) (n : Nat) (b : Barrier) : Prop :=
  c'.barAt n = b ∧ (∀ m, m ≠ n → c'.barAt m = c.barAt m) ∧
    { c' with bars := c.bars, used := c.used, counters := c.counters } = c

end Sys2Proof.Claim

/-- Every engine command whose operands pass is put into its slot at the retire point with the operands, context and level
that it read; it parks where Q is set and no pending bit stands for its slot, and otherwise starts, taking the bit with it
where Q is set; a bit that holds an error record ends it at once with that record (R207, R241). The slices of its vector
destination are emptied, its barrier is named, and the word retires (R206, R211, R327). -/
def Sys2Proof.Claim.CommandIssue : Prop :=
  ∀ (s : State) (i : Instr) (w : EngineWord) (eng bar slot : Nat) (q : Bool), engineRule s i = some w →
    engineSlot i = some (eng, bar, slot, q) → w.Runs s eng → s.curCore.slot (16 * eng + slot) = none →
    let bit := Table.get none s.curCore.pending (16 * eng + slot)
    ∃ t x, exec i s = .next t ∧ t.curCore.slot (16 * eng + slot) = some x ∧
      x.instr = i ∧ x.va = w.va ∧ x.vb = w.vb ∧ x.vc = w.vc ∧ x.fmt = w.fmt ∧ x.vtype = s.vtype ∧ x.hart = s.focus ∧
      x.asid = s.cur.asid ∧ x.ptroot = s.cur.ptroot ∧ x.handler = s.cur.handler ∧
      x.stage = (if q then (match bit with | none => .parked | some none => firstStage i | some (some _) => .done)
        else firstStage i) ∧ x.err = (if q then bit.getD none else none) ∧
      (∀ k, Table.get none t.curCore.pending k =
        if q = true ∧ k = 16 * eng + slot then none else Table.get none s.curCore.pending k) ∧
      (∀ k, k ≠ 16 * eng + slot → t.curCore.slot k = s.curCore.slot k) ∧ t.curCore.used.getLsbD bar = true ∧
      t.curCore.bars = s.curCore.bars ∧ OnlyCore s t ∧
      (∀ r l, l < 16 → t.cur.vec.slice r l =
        { s.cur.vec.slice r l with full := (s.cur.vec.slice r l).full && !x.regs.contains r }) ∧
      (∀ r, (∀ c, i ≠ .tcaptCount r c) → t.getS r = s.getS r ∧ t.taintS r = s.taintS r) ∧ t.cur.seq.pc = s.cur.seq.pc + 8 ∧
      t.cur.wcount = s.cur.wcount + 1

/-- A command for an engine that its core lacks traps ILL (R44); one whose slot is taken waits for the slot, and changes
nothing else (R207). -/
def Sys2Proof.Claim.CommandHeld : Prop :=
  ∀ (s : State) (i : Instr) (w : EngineWord) (eng bar slot : Nat) (q : Bool), engineRule s i = some w →
    engineSlot i = some (eng, bar, slot, q) →
    (s.curCore.lacks.getLsbD (eng + 1) = true → s.cur.window = [] → HasHandler s → Untraced s s.curCoreNo 2 →
      ∃ t, exec i s = .next t ∧ OnlyHart s t ∧
        Trapped t { cause := .ill, kind := 0, val := s.word } s.cur.seq.pc s.cur.seq.blk) ∧
    (w.Runs s eng → s.curCore.slot (16 * eng + slot) ≠ none →
      ∃ t, exec i s = .next t ∧ OnlyHart s t ∧ t.cur = { s.cur with wait := some (.slot eng slot) })

/-- BINIT sets EXPECT and clears the barrier's other fields, without evaluating terms (R238); BERR.CLR clears its error, and
leaves PHASE and ARRIVED (R240). BARV makes its normal arrivals and BERR an error arrival, which completes the phase and
keeps an earlier error's record (R237, R239, R240); where no term names the barrier nothing else changes. BARV.R sends its
arrivals on their way. -/
def Sys2Proof.Claim.BarrierWords : Prop :=
  ∀ (s : State) (sa sb : SReg) (bar : BitVec 6),
    let n := bar.toNat
    let b := s.curCore.barAt n
    (Ready s [sa] → 1 ≤ (s.getS sa).toNat → (s.getS sa).toNat ≤ 4095 →
      ∃ t, exec (.binit sa bar) s = .next t ∧ OnlyCore s t ∧ t.cur = s.retired s.cur.passes ∧
        BarrierOnly s.curCore t.curCore n { expect := (s.getS sa).toNat, epoch := b.epoch + (if b.phase then 1 else 0) }) ∧
    (Ready s [] → ∃ t, exec (.berrClr bar) s = .next t ∧ OnlyCore s t ∧ t.cur = s.retired s.cur.passes ∧
      BarrierOnly s.curCore t.curCore n { b with err := false, fcode := 0, faddr := 0 }) ∧
    (Ready s [sa] → (s.getS sa).toNat ≤ 4095 → Untermed s.curCore n → Untraced s s.curCoreNo 1 →
      ∃ t, exec (.barv sa bar) s = .next t ∧ OnlyCore s t ∧ t.cur = s.retired (ordered s s.cur.passes) ∧
        BarrierOnly s.curCore t.curCore n (arrivedBy b (s.getS sa).toNat)) ∧
    (Ready s [sa, sb] → (s.getS sa).toNat / 2 ^ 16 = 0 → 1 ≤ (s.getS sa).toNat / 256 → (s.getS sa).toNat / 256 ≤ 0x11 →
      Untermed s.curCore n → Untraced s s.curCoreNo 1 →
      ∃ t, exec (.berr sa sb bar) s = .next t ∧ OnlyCore s t ∧ t.cur = s.retired (ordered s s.cur.passes) ∧
        BarrierOnly s.curCore t.curCore n
          (phased { (if b.err then b else { b with fcode := (s.getS sa).setWidth 16, faddr := s.getS sb }) with err := true })) ∧
    (Ready s [sa, sb] → (s.getS sa).toNat ≤ 4095 → (s.getS sb).toNat < 128 →
      (s.core (s.getS sb).toNat).lacks.getLsbD 0 = false →
      ∃ t, exec (.barvR sa sb bar) s = .next t ∧ t.cur = s.retired (ordered s s.cur.passes) ∧
        OnlyCore s { t with arrivals := s.arrivals } ∧ BarrierOnly s.curCore t.curCore n b ∧
        t.arrivals = s.arrivals ++ (if s.getS sa = 0 then [] else
          [⟨(s.getS sb).toNat, n, (s.getS sa).toNat, s.curCoreNo, s.taskAsid, s.curCore.task.map Task.launch, s.focus % 4,
            (s.curCore.task.map Task.n).getD 0⟩])) ∧
    (Ready s [sa, sb] → HasHandler s → Untraced s s.curCoreNo 2 → (s.getS sa).toNat ≤ 4095 →
      (128 ≤ (s.getS sb).toNat ∨ (s.core (s.getS sb).toNat).lacks.getLsbD 0 = true) →
      ∃ t, exec (.barvR sa sb bar) s = .next t ∧ OnlyHart s t ∧
        Trapped t { cause := .prot, kind := 0, val := s.getS sb } s.cur.seq.pc s.cur.seq.blk)

/-- BTEST gives the state word and BTEST.A the fault address; BWAIT gives the state word once the phase equals the parity
asked for or the barrier is in error, and waits until then; both acquire what the follow-on commands of the phases before have
delivered (R232), whose registers are the hart's from then on; BWAIT.T traps the error's cause, kind and address instead (R236,
R240). -/
def Sys2Proof.Claim.BarrierReads : Prop :=
  ∀ (s : State) (sd sa : SReg) (bar : BitVec 6) (i : Instr), Fits (s.curCore.barAt bar.toNat) →
    let n := bar.toNat
    let b := s.curCore.barAt n
    let met := ordered s (s.cur.acquire s.freeCount n b.epoch).passes
    (Ready s [] → ∃ t, exec (.btest sd bar) s = .next t ∧ OnlyCore s t ∧ BarrierOnly s.curCore t.curCore n b ∧
      ScalarWord s t sd (barrierWord b) false met) ∧
    (Ready s [] → ∃ t, exec (.btestA sd bar) s = .next t ∧ OnlyCore s t ∧ BarrierOnly s.curCore t.curCore n b ∧
      ScalarWord s t sd b.faddr false s.cur.passes) ∧
    ((i = .bwait sd sa bar ∨ i = .bwaitT sd sa bar) → Ready s [sa] →
      (b.err = false → b.phase = (s.getS sa).getLsbD 0 → ∃ t, exec i s = .next t ∧ OnlyCore s t ∧
        BarrierOnly s.curCore t.curCore n b ∧ ScalarWord s t sd (barrierWord b) (s.taintS sa) met) ∧
      (b.err = false → b.phase ≠ (s.getS sa).getLsbD 0 → ∃ t, exec i s = .next t ∧ OnlyHart s t ∧
        t.cur = { s.cur with wait := some (.bwait n ((s.getS sa).getLsbD 0)) })) ∧
    (Ready s [sa] → b.err = true → ∃ t, exec (.bwait sd sa bar) s = .next t ∧ OnlyCore s t ∧
      BarrierOnly s.curCore t.curCore n b ∧ ScalarWord s t sd (barrierWord b) (s.taintS sa) met) ∧
    (Ready s [sa] → b.err = true → HasHandler s → Untraced s s.curCoreNo 2 → ∀ c, b.fcode.toNat / 256 = c.code →
      ∃ t, exec (.bwaitT sd sa bar) s = .next t ∧ OnlyHart s t ∧
        Trapped t { cause := c, kind := b.fcode.toNat / 64 % 4, val := b.faddr } s.cur.seq.pc s.cur.seq.blk)

/-- TRSET writes its term. Where the term is enabled and its conditions hold it fires: the command parked in its slot starts,
or the slot's pending bit is set, and the term is disabled unless REARM is set; where they do not hold nothing else
happens (R241, R242). TRCLR clears the term and the pending bit of the slot that it named. -/
def Sys2Proof.Claim.TrussTerms : Prop :=
  (∀ (s : State) (sa : SReg) (n : BitVec 4), Ready s [sa] → termOk (s.getS sa) = true → s.curCore.imaging = false →
    Untraced s s.curCoreNo 1 →
    ∃ t, exec (.trset sa n) s = .next t ∧ OnlyCore s t ∧ t.cur = s.retired s.cur.passes ∧ t.curCore.bars = s.curCore.bars ∧
      (∀ m, m ≠ n.toNat → Table.get 0 t.curCore.truss m = Table.get 0 s.curCore.truss m) ∧
      (let v := s.getS sa
       let held := v.getLsbD 39 ∧ ∀ p ∈ termConds v, (s.curCore.barAt p.2).phase = p.1
       let key := termKey v
       (¬held → Table.get 0 t.curCore.truss n.toNat = v ∧ t.curCore.slots = s.curCore.slots ∧
         t.curCore.pending = s.curCore.pending) ∧
       (held → Table.get 0 t.curCore.truss n.toNat = (if v.getLsbD 38 then v else v &&& ~~~((1 : Word) <<< 39)) ∧
         (∀ x, s.curCore.slot key = some x → x.stage = .parked → x.key = key →
           (∀ p ∈ termConds v, (s.curCore.barAt p.2).err = false) →
           t.curCore.slot key = some { x with stage := firstStage x.instr }) ∧
         (s.curCore.slot key = none → Table.get none s.curCore.pending key = none →
           (Table.get none t.curCore.pending key).isSome = true ∧ t.curCore.slots = s.curCore.slots)))) ∧
  (∀ (s : State) (n : BitVec 4), Ready s [] →
    ∃ t, exec (.trclr n) s = .next t ∧ OnlyCore s t ∧ t.cur = s.retired s.cur.passes ∧
      t.curCore = { s.curCore with truss := Table.set 0 s.curCore.truss n.toNat 0,
                                   pending := Table.set none s.curCore.pending
                                     (termKey (Table.get 0 s.curCore.truss n.toNat)) none })

/-- A completion of a phase evaluates the truss (R237, R241): where an arrival of BARV completes a phase that makes an enabled term
hold, the term fires. The command parked in its slot starts, or, where the slot is empty, the slot's pending bit is set; the term is
disabled unless REARM is set. -/
def Sys2Proof.Claim.TrussFires : Prop :=
  ∀ (s : State) (sa : SReg) (bar : BitVec 6) (n : Nat) (v : Word), Ready s [sa] → s.getS sa = 1 → n < 16 →
    Due s.curCore bar.toNat n v → (s.curCore.barAt bar.toNat).arrived + 1 = (s.curCore.barAt bar.toNat).expect →
    s.curCore.imaging = false → Untraced s s.curCoreNo 1 →
    ∃ t, exec (.barv sa bar) s = .next t ∧ OnlyCore s t ∧ t.cur = s.retired (ordered s s.cur.passes) ∧
      t.curCore.barAt bar.toNat = phased (s.curCore.barAt bar.toNat) ∧
      Table.get 0 t.curCore.truss n = (if v.getLsbD 38 then v else v &&& ~~~((1 : Word) <<< 39)) ∧
      (∀ m, m ≠ n → Table.get 0 t.curCore.truss m = Table.get 0 s.curCore.truss m) ∧
      (∀ x, s.curCore.slot (termKey v) = some x → x.stage = .parked → x.key = termKey v →
        (∀ p ∈ termConds v, (s.curCore.barAt p.2).err = false) →
        t.curCore.slot (termKey v) = some { x with stage := firstStage x.instr }) ∧
      (s.curCore.slot (termKey v) = none → Table.get none s.curCore.pending (termKey v) = none →
        (Table.get none t.curCore.pending (termKey v)).isSome = true ∧ t.curCore.slots = s.curCore.slots)

/-- TASKEND finishes the hart, which waits first for the commands that it issued and that have started; the last hart of
the gang ends the task: what is parked is discarded and the task commits (R243, R340); its deferral queue is discarded (R200). TASKQ and LAUNCH give their status
and, where the queue is the context's own, has room and the packet is well formed, place the packet; otherwise they write
nothing but, of every queue, since when its head waits and its deficit (R244, R329; the order of the statuses is that of log entry 40). LEASEX asks for its range (R245). -/
def Obligations.TaskWords : Prop :=
  (∀ (s : State), Ready s [] → s.cur.handler = false →
    (taskBusy s s.focus = true → ∃ t, exec .taskend s = .next t ∧ OnlyHart s t ∧
      t.cur = { s.cur with wait := some .taskend }) ∧
    (taskBusy s s.focus = false → (∃ j ∈ gangOf s s.curCoreNo, j ≠ s.focus ∧ (s.hart j).status ≠ .finished) →
      ∃ t, exec .taskend s = .next t ∧ OnlyHart s t ∧ t.cur = s.retired { s.cur with status := .finished, defer := [] }) ∧
    (∀ x, taskBusy s s.focus = false → s.cur.status = .running →
      (∀ j ∈ gangOf s s.curCoreNo, j ≠ s.focus → (s.hart j).status = .finished) → s.curCore.task = some x →
      ∃ t, exec .taskend s = .next t ∧ t.cur = s.retired { s.cur with status := .finished, defer := [] } ∧
        t.curCore.task = some { x with phase := .commit, moved := 0 } ∧ t.curCore.slots = [] ∧ t.mem = s.mem ∧
        t.hostMem = s.hostMem ∧ (∀ j, j ≠ s.focus → t.hart j = s.hart j))) ∧
  (∀ (s s1 : State) (i : Instr) (srcs : List SReg) (sd : SReg) (q : Word) (bs : List Byte),
    ((∃ sa sb, i = .taskq sd sa sb ∧ srcs = [sa, sb] ∧ q = s.getS sb ∧ (s.getS sa).toNat % 64 = 0 ∧
        s.recalled s.who 1 (s.getS sa) 64 = false ∧ readRun s s.who (s.getS sa) 8 8 = .ok (s1, bs)) ∨
      (∃ sa sb sc, i = .launch sd sa sb sc ∧ srcs = [sa, sb, sc] ∧ q = s.getS sc ∧ (s.getS sa).toNat % 64 = 0 ∧ s1 = s ∧
        bs = [1, 0, 0, 0] ++ leBytes 4 ((s.getS sb).toNat % 2 ^ 32) ++ leBytes 8 (s.getS sa).toNat ++
          List.replicate 48 0)) →
    Ready s srcs →
    (∀ st, (st = if 4096 ≤ q.toNat ∨ (s.queue q.toNat).asid ≠ s.taskAsid then 2
        else if (packetOf bs).refusal.isSome then 3
        else if 2 ^ (s.queue q.toNat).log2sz ≤ (s.queue q.toNat).count then 1 else 0) → st ≠ 0 →
      ∃ t, exec i s = .next t ∧ SameMemory s1 t ∧ t.queues = s.queues ∧
        ScalarWord s t sd (BitVec.ofNat 64 st) (srcs.any s.taintS) s.cur.passes) ∧
    (∀ s2, q.toNat < 4096 → (s.queue q.toNat).asid = s.taskAsid → (packetOf bs).refusal = none →
      (s.queue q.toNat).count < 2 ^ (s.queue q.toNat).log2sz →
      writeRun s1 (s1.whoQueue s.taskAsid) ((s.queue q.toNat).slotAddr (s.queue q.toNat).tail) 8 8 bs = (s2, none) →
      ∃ t, exec i s = .next t ∧ SameMemory s2 t ∧ ScalarWord s t sd 0 (srcs.any s.taintS) s.cur.passes ∧
        (t.queue q.toNat).tail = (s.queue q.toNat).tail + 1 ∧
        (∀ j, j ≠ q.toNat →
          { t.queue j with since := (s.queue j).since, deficit := (s.queue j).deficit } = s.queue j))) ∧
  (∀ (s : State) (sa sb : SReg) (bar : BitVec 6) (write : Bool) (i : Instr),
    i = (if write then .leasexW sa sb bar else .leasex sa sb bar) → Ready s [sa, sb] →
    1 ≤ (s.getS sb).toNat → (s.getS sb).toNat ≤ 2 ^ 40 →
    ∃ t r, exec i s = .next t ∧ t.cur = s.retired s.cur.passes ∧ OnlyCore s { t with leasexs := s.leasexs } ∧
      BarrierOnly s.curCore t.curCore bar.toNat (s.curCore.barAt bar.toNat) ∧ t.leasexs = s.leasexs ++ [r] ∧
      r.core = s.curCoreNo ∧ r.bar = bar.toNat ∧ r.base = s.getS sa ∧ r.len = s.getS sb ∧ r.write = write ∧
      r.asid = s.cur.asid)

/-- The engine words: the command that each issues, and where it is not issued. -/
def Obligations.EngineCommands : Prop := Claim.CommandIssue ∧ Claim.CommandHeld

/-- The barrier words, the truss, and a completion that fires a term. -/
def Obligations.Barriers : Prop := Claim.BarrierWords ∧ Claim.BarrierReads ∧ Claim.TrussTerms ∧ Claim.TrussFires

/-! ## Events of the lanes and of the retire point -/

namespace Sys2Proof.Claim

/-- Hart `k` has become `h`, and nothing else has changed. -/
def HartBecomes (s t : State) (k : Nat) (h : Hart) : Prop :=
  t.hart k = h ∧ (∀ j, j ≠ k → t.hart j = s.hart j) ∧ { t with harts := s.harts } = s

/-- Core `c` has become `x`, and nothing else has changed. -/
def CoreBecomes (s t : State) (c : Nat) (x : Core) : Prop :=
  t.core c = x ∧ (∀ d, d ≠ c → t.core d = s.core d) ∧ { t with cores := s.cores } = s

/-- A word at place `n` of a hart's window, of which lane `l` is to do its part: the lane instruction. -/
def InLane (h : Hart) (n : Nat) (f : InFlight) (i : LaneInstr) : Prop := h.window[n]? = some f ∧ f.li = some i

/-- The elements of lane `l` that an instruction works on, ascending (R146, R59). -/
def laneOf (i : LaneInstr) (v : View) (l : Nat) : List Nat :=
  (List.range i.vl).filter fun e => v.vec.maskBit i.mask.toNat e && !i.skip.getLsbD e && e % 16 = l

/-- The hart with lane `l`'s part of the word at place `n` of its window become `r`. -/
def setLane (h : Hart) (n : Nat) (f : InFlight) (l : Nat) (r : LaneRec) : Hart :=
  { h with window := h.window.set n { f with lanes := f.lanes.set l r } }

/-- A hart whose lane `l` has no request outstanding: of its words in flight, everything but how many of the elements still to be
accessed lane `l` has requested (R301). -/
def unsent (l : Nat) (h : Hart) : Hart :=
  { h with window := h.window.map fun f => f.setLane l { f.lane l with sent := 0 } }

end Sys2Proof.Claim

/-- A lane instruction goes from dispatch to the lanes, is issued in each, makes its element accesses or meets at its
rendezvous (R249, R254, R258, R189): LANE_BROADCAST puts the newest word into every lane's queue under the next sequence
number; LANE_ISSUE carries out one lane's elements of an element-wise instruction, or begins its accesses;
ELEMENT_ACCESS_RESPONSE brings one element of a load, for the oldest word whose access need not wait (R184, R254, R316, R368); both let the
lane request further elements under its cap (R301), of which they say nothing here; RENDEZVOUS_COMPLETE makes the combined results, where every lane
has what it reads and its island runs (R253, R299). What a lane writes
stays in the result buffer (R252): no register changes. -/
def Obligations.LaneEvents : Prop :=
  (∀ (s : State) (core slot : Nat) (f : InFlight) (rest : List InFlight) (i : LaneInstr),
    let h := s.hart (4 * core + slot)
    h.window = rest ++ [f] → f.li = some i → f.lanes = [] → (rest.filter fun g => !g.lanes.isEmpty).length < 64 →
    ∃ t, exec (.laneBroadcast core slot) s = .next t ∧ HartBecomes s t (4 * core + slot) { h with
      laneSeq := h.laneSeq + 1, window := rest ++ [{ f with lanes := List.replicate 16 {}, num := h.laneSeq }] }) ∧
  (∀ (s : State) (core lane slot n : Nat) (f : InFlight) (i : LaneInstr),
    let h := s.hart (4 * core + slot)
    let v : View := h.viewAt n i
    chooseHart s core lane false = some slot → readyAt s core slot lane false = some n → InLane h n f i →
    isRendezvous i.job = false → isWhole i.job = false → isMem i.job = false → elemLane i.job = none →
    (∀ b ∈ badReads s (4 * core + slot) i v, b.1 ≠ lane) →
    ∃ t, exec (.laneIssue core lane false) s = .next t ∧
      t.hart (4 * core + slot) = setLane h n f lane
        { stage := .finished, writes := (elemResults i v (laneOf i v lane)).1,
          flags := (elemResults i v (laneOf i v lane)).2,
          done := (laneOf i v lane).foldl (fun m e => setBit m e true) 0 } ∧
      (∀ j, j ≠ 4 * core + slot → t.hart j = s.hart j) ∧
      t.core core = { s.core core with lastIssue := (t.core core).lastIssue }) ∧
  (∀ (s : State) (core lane slot n : Nat) (f : InFlight) (i : LaneInstr) (sx taint : Bool) (ad : Addressing) (vt : VOp)
    (mw : Nat) (base stride : Word),
    let h := s.hart (4 * core + slot)
    let v : View := h.viewAt n i
    chooseHart s core lane true = some slot → readyAt s core slot lane true = some n → InLane h n f i →
    i.job = .mem (.load sx taint) ad vt mw base stride → isRendezvous i.job = false →
    (∀ b ∈ badReads s (4 * core + slot) i v, b.1 ≠ lane) → laneOf i v lane ≠ [] →
    ∃ t, exec (.laneIssue core lane true) s = .next t ∧
      unsent lane (t.hart (4 * core + slot)) = unsent lane (setLane h n f lane { stage := .issued, todo := laneOf i v lane }) ∧
      (∀ j, unsent lane (t.hart j) = unsent lane (if j = 4 * core + slot then
        setLane h n f lane { stage := .issued, todo := laneOf i v lane } else s.hart j))) ∧
  (∀ (s s1 s2 : State) (core slot lane n e x left : Nat) (f : InFlight) (i : LaneInstr) (rest : List Nat) (sx taint : Bool)
    (ad : Addressing) (vt : VOp) (mw : Nat) (base stride : Word) (p : Place),
    let k := 4 * core + slot
    let h := s.hart k
    InLane h n f i → (∀ m g j, m < n → InLane h m g j → elementAccess s k lane false m g j = none) → i.job = .mem (.load sx taint) ad vt mw base stride →
    (f.lane lane).todo = e :: rest → (f.lane lane).sent = left + 1 → lane < f.lanes.length →
    s.mayAccess k n lane i.strm (elemAddr i (h.viewAt n i) e) mw = true →
    s.busWaits (s.whoHart k) 1 (elemAddr i (h.viewAt n i) e) mw = false →
    s.recalled (s.whoHart k) 1 (elemAddr i (h.viewAt n i) e) mw = false →
    checkAccess s (s.whoHart k) 1 (elemAddr i (h.viewAt n i) e) mw none = .ok (s1, p) → (p.far = true → n = 0) →
    loadAt s1 (s1.whoHart k) (elemAddr i (h.viewAt n i) e) mw = .ok (s2, x) →
    ∃ t, exec (.elementAccessResponse core slot lane) s = .next t ∧ SameMemory s2 t ∧
      unsent lane (t.hart k) = unsent lane (setLane h n f lane { f.lane lane with
        stage := if rest = [] then .finished else .issued, todo := rest,
        writes := (f.lane lane).writes ++ [writeElem i vt e i.ew (extendElem sx mw i.ew x) taint],
        warns := (f.lane lane).warns ++ s2.warnings.drop s.warnings.length,
        done := setBit (f.lane lane).done e true }) ∧ t.warnings = s.warnings) ∧
  (∀ (s : State) (core slot : Nat) (f : InFlight) (rest : List InFlight) (i : LaneInstr),
    let h := s.hart (4 * core + slot)
    let x := wholeResult i ⟨h.vec, i.dead, i.deadZero⟩
    h.window = f :: rest → f.li = some i → f.allArrived = true → isMem i.job = false → isWhole i.job = false → x.scalar = none →
    lanesHeld s core i.job = false → emptyLanes i ⟨h.vec, i.dead, i.deadZero⟩ false = [] →
    badReads s (4 * core + slot) i ⟨h.vec, i.dead, i.deadZero⟩ = [] →
    ∃ t, exec (.rendezvousComplete core slot) s = .next t ∧ HartBecomes s t (4 * core + slot) { h with
      window := ({ f with met := true, lanes := ({ stage := .finished, writes := x.writes, flags := x.flags } : LaneRec) ::
                           List.replicate 15 { stage := .finished } } : InFlight) :: rest })

/-- The retire point (R250 to R252, R257, R260, R261): RETIRE passes the oldest word once it has been carried out, whose
results then reach the register plane and VFLAGS, with what its loads have noted for the warning ring (R185), and counts it, unless
it is the mask restore of a header; TAKE_TRAP takes a fault that the sequencer recorded, or
that of the oldest lane instruction, with TLANE its lowest faulting lane and TDONE the elements done, those that its resumption skipped among them
(R189, R191, in the reading of log entry 35), and discards every younger word; SCALAR_LOAD_RESPONSE binds a load. -/
def Obligations.RetireEvents : Prop :=
  (∀ (s : State) (core slot : Nat) (f : InFlight) (rest : List InFlight),
    let h := s.hart (4 * core + slot)
    h.window = f :: rest → f.publish = none → f.li = none → f.cmd = none → f.load = none → f.held = none →
    f.spill = none → f.lanes = [] →
    ∃ t, exec (.retire core slot) s = .next t ∧ t.warnings = s.warnings ++ f.warns ∧
      HartBecomes s { t with warnings := s.warnings } (4 * core + slot) { h with
        window := rest, vflags := h.vflags ||| f.flags,
        wcount := if f.header then h.wcount else h.wcount + 1,
        lastRetire := if f.header then h.lastRetire else s.clock }) ∧
  (∀ (s : State) (core slot : Nat) (f : InFlight) (rest : List InFlight) (i : LaneInstr),
    let h := s.hart (4 * core + slot)
    h.window = f :: rest → f.publish = none → f.li = some i → f.undef = none → f.lanes.length = 16 →
    (∀ r ∈ f.lanes, r.stage = .finished ∧ r.held = []) → f.header = false →
    ∃ t, exec (.retire core slot) s = .next t ∧
      t.warnings = s.warnings ++ f.lanes.flatMap LaneRec.warns ++ f.warns ∧
      HartBecomes s { t with warnings := s.warnings } (4 * core + slot) { h with
        window := rest, vec := h.vec.applyAll (f.lanes.flatMap LaneRec.writes),
        vflags := (h.vflags ||| f.lanes.foldl (fun a r => a ||| r.flags) 0) ||| f.flags,
        wcount := h.wcount + 1, lastRetire := s.clock }) ∧
  (∀ (s : State) (core slot : Nat) (x : Trap),
    let h := s.hart (4 * core + slot)
    h.window = [] → h.recorded = some x → x.fault.abort = false → h.handler = false → tvecOk s (4 * core + slot) = true →
    ∃ t, exec (.takeTrap core slot) s = .next t ∧ (t.hart (4 * core + slot)).tepc = x.epc ∧
      (t.hart (4 * core + slot)).tblk = x.blk ∧ (t.hart (4 * core + slot)).tval = x.fault.val ∧
      (t.hart (4 * core + slot)).tcause = BitVec.ofNat 64 (x.fault.kind * 256 + x.fault.cause.code) ∧
      (t.hart (4 * core + slot)).handler = true ∧ (t.hart (4 * core + slot)).recorded = none ∧
      (t.hart (4 * core + slot)).seq.pc = h.tvec) ∧
  (∀ (s : State) (core slot l : Nat) (f : InFlight) (rest : List InFlight) (i : LaneInstr) (x : AccFault)
    (sx taint : Bool) (ad : Addressing) (vt : VOp) (mw : Nat) (base stride : Word),
    let k := 4 * core + slot
    let h := s.hart k
    h.window = f :: rest → f.li = some i → i.job = .mem (.load sx taint) ad vt mw base stride → isRendezvous i.job = false →
    f.undef = none → f.lanes.length = 16 → (∀ r ∈ f.lanes, (r.stage = .finished ∨ ∃ y, r.stage = .faulted y ∧ y.abort = false) ∧ r.held = []) →
    l < 16 → (f.lane l).stage = .faulted x → (∀ m, m < l → (f.lane m).stage = .finished) →
    h.handler = false → tvecOk s k = true → tvecOk (s.setHart k (h.rewind f)) k = true → Untraced s core 2 → slot < 4 →
    ∃ t, exec (.takeTrap core slot) s = .next t ∧ (t.hart k).tlane = l ∧
      (t.hart k).tdone = f.lanes.foldl (fun m r => m ||| r.done) i.skip ∧ (t.hart k).tepc = i.addr ∧
      (t.hart k).tblk = i.blk ∧ (t.hart k).tval = x.val ∧
      (t.hart k).tcause = BitVec.ofNat 64 (x.kind * 256 + x.cause.code) ∧ (t.hart k).window = [] ∧
      (t.hart k).vec = h.vec.applyAll (f.lanes.flatMap LaneRec.writes) ∧
      (t.hart k).seq = { f.before with pc := h.tvec, blk := h.tvec, arriving := true, boundary := false } ∧
      (∀ j, j ≠ k → t.hart j = s.hart j)) ∧
  (∀ (s s1 : State) (core slot n x : Nat) (f : InFlight) (rest : List InFlight) (sd : SReg) (a : Word) (signed taint : Bool)
    (strm : BitVec 3),
    let k := 4 * core + slot
    let h := s.hart k
    h.window = f :: rest → f.load = some ⟨sd, a, n, signed, taint, strm⟩ → sd ≠ 0 → h.seq.late.contains (sd.toNat, f.tok, false) = true →
    s.recalled (s.whoHart k) 1 a n = false → s.busWaits (s.whoHart k) 1 a n = false → scalarLoad s (s.whoHart k) a n = .ok (s1, x) →
    ∃ t, exec (.scalarLoadResponse core slot) s = .next t ∧ SameMemory s1 t ∧
      (t.hart k).getS s.freeCount sd = extended signed n x ∧ (t.hart k).taintS sd = taint ∧
      (∀ r, r ≠ sd → (t.hart k).getS s.freeCount r = h.getS s.freeCount r) ∧
      (t.hart k).window.head?.map InFlight.load = some none ∧ (t.hart k).wcount = h.wcount)

/-- COMMAND_ISSUE issues the engine command of the oldest word, which retires (R206). WFE_TIMEOUT ends a WFE whose deadline
has passed, with zero, or with the barriers that have shown an event before (R127); GBAR_RELEASE lets every member of a gang go on once each waits at a GBAR (R128); YIELD_EXPIRY
ends a YIELD's period (R130). -/
def Obligations.WaitEvents : Prop :=
  (∀ (s : State) (core slot eng n : Nat) (f : InFlight) (rest : List InFlight) (x : Command) (c : Cmd),
    let k := 4 * core + slot
    (s.hart k).window = f :: rest → f.publish = none → f.cmd = some x → cmdInfo x.instr = some (eng, c) → x.hart = k →
    slot < 4 → f.header = false → (∀ sa vo d, x.instr ≠ .twin sa vo d) → (s.core core).slot (16 * eng + c.slot.toNat) = none → n = 16 * eng + c.slot.toNat →
    Table.get none (s.core core).pending n = none → (s.core core).imaging = false → Untraced s core 1 →
    ∃ t, exec (.commandIssue core slot) s = .next t ∧
      (t.core core).slot n = some { x with stage := if c.q then .parked else firstStage x.instr } ∧
      (t.hart k).window = rest ∧ (t.hart k).wcount = (s.hart k).wcount + 1 ∧ t.mem = s.mem) ∧
  (∀ (s : State) (core slot dl : Nat) (m v : Word) (ph : List Nat) (sd : SReg) (tn : Bool),
    let k := 4 * core + slot
    let h := s.hart k
    h.wait = some (.wfe m ph (some dl) sd tn) → dl ≤ s.clock → h.window = [] → h.seq.ownGrant = none →
    (∀ n, n < 64 → v.getLsbD n =
      (m.getLsbD n && (((s.core core).barAt n).err || ((s.core core).barAt n).epoch != ph.getD n 0))) →
    ∃ t, exec (.wfeTimeout core slot) s = .next t ∧ ScalarWord { s with focus := k } t sd v tn h.passes ∧
      (∀ j, j ≠ k → t.hart j = s.hart j) ∧ { t with harts := s.harts, focus := s.focus } = s) ∧
  (∀ (s : State) (core : Nat), gangOf s core ≠ [] →
    (∀ k ∈ gangOf s core, (s.hart k).wait = some .gbar ∧ (s.hart k).window = [] ∧ (s.hart k).seq.ownGrant = none) →
    ∃ t, exec (.gbarRelease core) s = .next t ∧ (∀ k ∈ gangOf s core, t.hart k = s.retired (ordered s (s.hart k).passes)) ∧
      (∀ j, j ∉ gangOf s core → t.hart j = s.hart j) ∧ { t with harts := s.harts, focus := s.focus } = s) ∧
  (∀ (s : State) (core slot : Nat), ∃ t, exec (.yieldExpiry core slot) s = .next t ∧
    HartBecomes s t (4 * core + slot) { s.hart (4 * core + slot) with yield := 0 })

/-! ## Events of the engines -/

namespace Sys2Proof.Claim

/-- Slot `n` of engine `eng` holds the command `x`, which its engine runs (R208) and which is at stage `st`. -/
structure AtWork (s : State) (core eng n : Nat) (x : Command) (st : Stage) : Prop where
  slot : (s.core core).slot (16 * eng + n) = some x
  key : x.key = 16 * eng + n
  engine : x.eng = eng
  stage : x.stage = st
  head : (s.core core).isHead x = true

/-- The command in a slot has become `y`, and every other slot of the core is as it was. -/
def SlotBecomes (s t : State) (core key : Nat) (y : Option Command) : Prop :=
  (t.core core).slot key = y ∧ ∀ k, k ≠ key → (t.core core).slot k = (s.core core).slot k

/-- Where operand element `e` of the k-step that starts at `k0` stands, of `m` rows of A and `n` columns of B and `kk` values of K:
whether it is of B, its row and its column; A's come first, and each operand's in the order in which its tile stores them (R284). -/
def operandAt (a : MtileArgs) (m n kk k0 e : Nat) : Bool × Nat × Nat :=
  let b := e - m * kk
  if e < m * kk then (false, if a.tra then (k0 + e / m, e % m) else (e / kk, k0 + e % kk))
  else (true, if a.trb then (b / kk, k0 + b % kk) else (k0 + b / n, b % n))

/-- Element (i, j) of the tile before the products of a k-step are added (R222, R289): at the first, zero in mode 0, and
decayed in mode 2 in the rows and columns of the command. -/
def passStart (t : Tile) (x : Command) (m n i j : Nat) : Nat :=
  if x.pos ≠ 0 ∨ mtileMode x.instr = 1 then t.at_ i j
  else if mtileMode x.instr = 0 then 0
  else if i < m ∧ j < n then decayElem (arrayRnd x.vtype) (fScale x.fmt) (t.at_ i j) % 2 ^ 32
  else t.at_ i j

/-- Element (i, j) of the tile after a k-step of `kk` values of K (R91, R78, R222). -/
def passEnd (t : Tile) (x : Command) (g : MtileArgs) (m n kk i j : Nat) : Nat :=
  let c := passStart t x m n i j
  let a := (List.range kk).map fun l => leAt x.carry (2 * (if g.tra then l * m + i else i * kk + l)) 2
  let b := (List.range kk).map fun l => leAt x.carry (2 * (m * kk + if g.trb then j * kk + l else l * n + j)) 2
  if i < m ∧ j < n then
    (if fFD x.fmt = 11 then addResidues (fFA x.fmt) (fFB x.fmt) c a b
     else addGroup (arrayRnd x.vtype) c (groupSum (arrayRnd x.vtype) (arrayFmt (fFA x.fmt)) (arrayFmt (fFB x.fmt)) a b)) % 2 ^ 32
  else c

end Sys2Proof.Claim

/-- DESCRIPTOR_READ_COMPLETE: the engine has read and checked a command's descriptors (R215, R282). An MTILE whose
formats, shape and accumulator fit asks the slew limiter for its columns (R302); MCONV, which owns the lines that it
is still to write (R320, log entry 17), and MLOAD begin their rows, and a copy its elements, with values that are free where its source
and its destination overlap, by their addresses or at their homes (R230, log entry 11). An MTILE waits while an earlier command's stop
is asked for (R302). A malformed descriptor stops the command with ILL; that its fault address is the descriptor's is log entry 85. -/
def Sys2Proof.Claim.DescriptorReads : Prop :=
  (∀ (s s1 s2 : State) (core n : Nat) (x : Command) (a : MtileArgs) (ba bb : List Byte), AtWork s core 0 n x .desc →
    s.stillStops core = false →
    mtileArgs x.instr = some a → readDesc s (s.whoCmd core x) x.va = .ok (s1, ba) →
    readDesc s1 (s.whoCmd core x) x.vb = .ok (s2, bb) →
    let da := tileDesc ba
    let db := tileDesc bb
    let rows := if a.tra then da.cols else da.rows
    let cols := if a.trb then db.rows else db.cols
    let tile := (s2.core core).tile a.acc.toNat
    da.fmt = fFA x.fmt → db.fmt = fFB x.fmt → (if a.tra then da.rows else da.cols) = x.vc.toNat →
    (if a.trb then db.cols else db.rows) = x.vc.toNat → 1 ≤ rows → rows ≤ 256 → 1 ≤ cols → cols ≤ 128 →
    (da.fmt = 7 → groupSize da x.fmt ≠ none) → (db.fmt = 7 → groupSize db x.fmt ≠ none) →
    (mtileMode x.instr ≠ 0 → tile.bad 0 rows cols = false) → tile.rstep = 0 → (mtileMode x.instr ≠ 0 → tile.tag = fFD x.fmt) →
    ∃ t, exec (.descriptorReadComplete core 0 n) s = .next t ∧ SameMemory s2 t ∧ t.harts = s2.harts ∧
      SlotBecomes s2 t core (16 * 0 + n) (some { x with stage := .starting, descA := ba, descB := bb,
                                                        quarters := min 4 ((cols + 31) / 32), pos := 0 }) ∧
      t.starts = s2.starts ++ [(core, min 4 ((cols + 31) / 32))]) ∧
  (∀ (s s1 : State) (core n : Nat) (x : Command) (bs : List Byte), AtWork s core 0 n x .desc →
    readDesc s (s.whoCmd core x) x.va = .ok (s1, bs) →
    let d := tileDesc bs
    1 ≤ d.rows → d.rows ≤ 256 → 1 ≤ d.cols → d.cols ≤ 128 →
    (∀ sa acc f c, x.instr = .mconv sa acc f c → ((s1.core core).tile acc.toNat).bad 0 d.rows d.cols = false →
      d.fmt = fFD x.fmt →
      (fFD x.fmt = 11 → ((s1.core core).tile acc.toNat).tag = 11) →
      ∃ t, exec (.descriptorReadComplete core 0 n) s = .next t ∧ SameMemory s1 t ∧ t.harts = s1.harts ∧
        SlotBecomes s1 t core (16 * 0 + n) (some { x with stage := .run, descA := bs, pos := 0 }) ∧
        ∀ i, i < d.rows → ∀ p ∈ t.linesAt (s.whoCmd core x) 2 (d.row (s1.indices core) i) d.rowBytes,
          t.engineOwns p.2 = true) ∧
    (∀ sa sb acc c, x.instr = .mload sa sb acc c → (d.fmt = 8 ∨ d.fmt = 9 ∨ d.fmt = 10 ∨ d.fmt = 11) →
      (d.fmt = 11 → x.vb.toNat % 4 = 0) →
      ∃ t, exec (.descriptorReadComplete core 0 n) s = .next t ∧ SameMemory s1 t ∧ t.harts = s1.harts ∧
        SlotBecomes s1 t core (16 * 0 + n) (some { x with stage := .run, descA := bs, pos := 0 }) ∧ t.held = s1.held)) ∧
  (∀ (s s1 s2 : State) (core n : Nat) (x : Command) (bs list : List Byte), AtWork s core 1 n x .desc →
    readBytes s (s.whoCmd core x) x.va 64 = .ok (s1, bs) → copyDescOk x.instr bs = true →
    readBytes s1 (s.whoCmd core x) x.vb (if isIndexed x.instr then 4 * (copyDesc bs).n1 else 0) = .ok (s2, list) →
    let y : Command := { x with stage := .run, descA := bs, descB := list, pos := 0 }
    ∃ t, exec (.descriptorReadComplete core 1 n) s = .next t ∧ SameMemory s2 t ∧ t.harts = s2.harts ∧
      SlotBecomes s2 t core (16 * 1 + n)
        (some { y with free := if copyOverlaps s2 core y (copyDesc bs) then some s2.freeCount else none })) ∧
  (∀ (s s1 : State) (core n : Nat) (x : Command) (bs : List Byte), AtWork s core 0 n x .desc →
    s.stillStops core = false →
    readBytes s (s.whoCmd core x) x.va 64 = .ok (s1, bs) → tileDescOk bs = false →
    ∃ t, exec (.descriptorReadComplete core 0 n) s = .next t ∧ t.mem = s1.mem ∧ SlotBecomes s1 t core (16 * 0 + n)
      (some { x with stage := .failed { cause := .ill, kind := 0, val := x.va } 1 }))

/-- ENGINE_ACCESS_RESPONSE: one access of a running command (R209). A copy moves its next element from its source to its
destination (R230), where it reads no page that its context has sealed for a place outside the device (R403) and misses no store
that no chain orders before it (R317, log entry 75); MCONV and ASPILL write their next element, MLOAD, AFILL and TWLD read
theirs, the images' headers first (R225, R227, R228, R233, R321). -/
def Sys2Proof.Claim.EngineAccesses : Prop :=
  (∀ (s s1 s2 : State) (core n v : Nat) (x : Command), AtWork s core 1 n x .run →
    let d := copyDesc x.descA
    let m := fmtBits d.fmt / 8
    let total := d.n0 * d.n1 * d.n2
    let at_ := BitVec.ofNat 64 (x.pos % d.n0 * m)
    let p := x.pos / (d.n0 * d.n1)
    let r := x.pos / d.n0 % d.n1
    let src := copySource x d p r + at_
    let dst := copyDest x d p r + at_
    x.pos < total → x.free = none → d.red = 0 →
    (∀ sp, checkAccess s (s.whoCmd core x) 1 src m none = .ok sp →
      unsealsCopy s x sp.2 dst core = false ∧ copyMisses s x d sp.2 = false) →
    ((∃ sa sb c, x.instr = .cfill sa sb c ∧ s1 = s ∧ v = x.vb.toNat % 2 ^ (8 * m)) ∨
      ((∀ sa sb c, x.instr ≠ .cfill sa sb c) ∧ loadAt s (s.whoCmd core x) src m = .ok (s1, v))) →
    storeAt s1 (s.whoCmd core x) dst m v = .ok s2 →
    ∃ t, exec (.engineAccessResponse core 1 n) s = .next t ∧ SameMemory (keepDest s2 (s.whoCmd core x) d dst) t ∧
      t.harts = s2.harts ∧ t.lines = (keepDest s2 (s.whoCmd core x) d dst).lines ∧
      SlotBecomes s2 t core (16 * 1 + n) (some { x with
        pos := x.pos + 1, carry := if d.digest then x.carry ++ leBytes m v else [],
        stage := if x.pos + 1 < total ∨ d.digest = true ∨ d.follow = true then .run else .done })) ∧
  (∀ (s s1 : State) (core n : Nat) (x : Command) (sa : SReg) (acc : BitVec 5) (c : Cmd), AtWork s core 0 n x .run →
    let tile := (s.core core).tile acc.toNat
    let d := tileDesc x.descA
    (∀ f, x.instr = .mconv sa acc f c → Table.get false tile.poison (128 * (x.pos / d.cols) + x.pos % d.cols) = false →
      writeBytes s (s.whoCmd core x)
        (d.row (s.indices core) (x.pos / d.cols) + BitVec.ofNat 64 (fmtBits (fFD x.fmt) / 8 * (x.pos % d.cols)))
        (leBytes (fmtBits (fFD x.fmt) / 8) (convElem tile x (x.pos / d.cols) (x.pos % d.cols))) = (s1, none) →
      ∃ t, exec (.engineAccessResponse core 0 n) s = .next t ∧ SameMemory s1 t ∧ t.harts = s1.harts ∧
        SlotBecomes s1 t core (16 * 0 + n)
          (some { x with pos := x.pos + 1, stage := if x.pos + 1 = d.rows * d.cols then .done else .run })) ∧
    (x.instr = .aspill sa acc c → tile.bad 0 256 128 = false →
      writeBytes s (s.whoCmd core x) (if x.pos = 0 then x.va else x.va + BitVec.ofNat 64 (64 + 4 * (x.pos - 1)))
        (if x.pos = 0 then leBytes 4 tile.tag ++ leBytes 4 tile.tb.toNat ++ List.replicate 56 0
         else leBytes 4 (tile.at_ ((x.pos - 1) / 128) ((x.pos - 1) % 128))) = (s1, none) →
      ∃ t, exec (.engineAccessResponse core 0 n) s = .next t ∧ SameMemory s1 t ∧ t.harts = s1.harts ∧
        SlotBecomes s1 t core (16 * 0 + n) (some { x with pos := x.pos + 1, stage := if x.pos = 32768 then .done else .run }))) ∧
  (∀ (s s1 : State) (core n : Nat) (x : Command) (sa sb : SReg) (acc : BitVec 5) (c : Cmd) (es : List Nat)
    (qs : List QGroup),
    let d := tileDesc x.descA
    AtWork s core 0 n x .run → x.instr = .mload sa sb acc c → x.pos < d.rows * d.cols →
    readRow s (s.whoCmd core x) (s.indices core) d 0 false (x.pos / d.cols) (x.pos % d.cols) (x.pos % d.cols + 1) [] =
      .ok (s1, es, qs) →
    ∃ t, exec (.engineAccessResponse core 0 n) s = .next t ∧ SameMemory s1 t ∧ t.harts = s1.harts ∧
      SlotBecomes s1 t core (16 * 0 + n) (some { x with
        pos := x.pos + 1,
        carry := x.carry ++ es.flatMap fun v => leBytes 4 (loadElem d.fmt v),
        stage := if x.pos + 1 = d.rows * d.cols ∧ (d.fmt = 11 → x.vb = 0) then .done else .run })) ∧
  (∀ (s s1 : State) (core n : Nat) (x : Command) (sa : SReg) (acc : BitVec 5) (c : Cmd) (bs : List Byte),
    AtWork s core 0 n x .run → x.instr = .afill sa acc c → 1 ≤ x.pos →
    readBytes s (s.whoCmd core x) (x.va + BitVec.ofNat 64 (64 + 4 * (x.pos - 1))) 4 = .ok (s1, bs) →
    ∃ t, exec (.engineAccessResponse core 0 n) s = .next t ∧ SameMemory s1 t ∧ t.harts = s1.harts ∧
      SlotBecomes s1 t core (16 * 0 + n)
        (some { x with pos := x.pos + 1, carry := x.carry ++ bs, stage := if x.pos = 32768 then .done else .run })) ∧
  (∀ (s s1 : State) (core n : Nat) (x : Command) (sa : SReg) (c : Cmd) (bs : List Byte), AtWork s core 2 n x .run →
    x.instr = .twld sa c →
    readBytes s (s.whoCmd core x) (x.va + BitVec.ofNat 64 x.pos) 1 = .ok (s1, bs) →
    ∃ t, exec (.engineAccessResponse core 2 n) s = .next t ∧ SameMemory s1 t ∧ t.harts = s1.harts ∧
      SlotBecomes s1 t core (16 * 2 + n)
        (some { x with pos := x.pos + 1, carry := x.carry ++ bs, stage := if x.pos = 4095 then .done else .run }))

/-- A k-step (R222, R283 to R289): OPERAND_FETCH_RESPONSE brings the next element of its operands, whose line it pins (R284,
R285, log entry 62); K_STEP_PASS adds its products to the tile,
whose elements outside the command's rows and columns a first pass in mode 0 zeroes and any other leaves; the last pass ends
the MTILE, which asks for its stop. FILLER_K_STEP changes no tile. -/
def Sys2Proof.Claim.KSteps : Prop :=
  (∀ (s s1 : State) (core n : Nat) (x : Command) (a : MtileArgs) (es : List Nat) (qs : List QGroup),
    AtWork s core 0 n x .kstep → mtileArgs x.instr = some a → x.cut = false →
    let da := tileDesc x.descA
    let db := tileDesc x.descB
    let ks := if fFD x.fmt = 11 then 128 else 32
    let kk := min x.vc.toNat (x.pos * ks + ks) - x.pos * ks
    let rows := if a.tra then da.cols else da.rows
    let cols := if a.trb then db.rows else db.cols
    let o := operandAt a rows cols kk (x.pos * ks) (x.carry.length / 2)
    let d := if o.1 then db else da
    let w := s.whoCmd core x
    x.carry.length ≠ 2 * ((rows + cols) * kk) →
    readRow s w (s.indices core) d x.fmt o.1 o.2.1 o.2.2 (o.2.2 + 1) x.groups = .ok (s1, es, qs) →
    ∃ t, exec (.operandFetchResponse core) s = .next t ∧ SameMemory s1 t ∧ t.harts = s1.harts ∧
      SlotBecomes s1 t core (16 * 0 + n) (some { x with carry := x.carry ++ es.flatMap (leBytes 2), groups := qs }) ∧
      ∀ r ∈ rowSpans (s.indices core) d x.fmt o.1 o.2.1 (o.2.1 + 1) o.2.2 (o.2.2 + 1) x.groups, ∀ p ∈ s1.linesAt (s1.whoCmd core x) 1 r.1 r.2,
        ∃ h ∈ t.held, h.core = core ∧ h.key = x.key ∧ h.pa = p.2) ∧
  (∀ (s : State) (core n : Nat) (x : Command) (a : MtileArgs), AtWork s core 0 n x .kstep →
    mtileArgs x.instr = some a →
    let da := tileDesc x.descA
    let db := tileDesc x.descB
    let ks := if fFD x.fmt = 11 then 128 else 32
    let kk := min x.vc.toNat (x.pos * ks + ks) - x.pos * ks
    let rows := if a.tra then da.cols else da.rows
    let cols := if a.trb then db.rows else db.cols
    let last := x.vc.toNat ≤ x.pos * ks + ks
    let tile := (s.core core).tile a.acc.toNat
    let tb := nextBound (mtileMode x.instr) x.vc.toNat (productBound (fFA x.fmt) (fFB x.fmt)) tile.tb.toNat
    cols ≤ 128 → x.carry.length = 2 * ((rows + cols) * kk) → readsPoison s core x a = false →
    ∃ t, exec (.kStepPass core) s = .next t ∧ t.mem = s.mem ∧ t.harts = s.harts ∧
      (∀ k, k ≠ a.acc.toNat → (t.core core).tile k = (s.core core).tile k) ∧
      (∀ i j, j < 128 → ((t.core core).tile a.acc.toNat).at_ i j =
        if last ∧ fFD x.fmt = 11 ∧ 2 ^ 19 ≤ tb ∧ i < rows ∧ j < cols then passEnd tile x a rows cols kk i j ||| 1
        else passEnd tile x a rows cols kk i j) ∧
      (last → ((t.core core).tile a.acc.toNat).rstep = 0 ∧ (fFD x.fmt = 11 → ((t.core core).tile a.acc.toNat).tb.toNat = tb % 2 ^ 32)
        ∧ t.stops = s.stops ++ [(core, min 4 ((cols + 31) / 32))]) ∧ (¬last → t.stops = s.stops) ∧
      SlotBecomes s t core (16 * 0 + n) (some { x with carry := [], pos := x.pos + 1, begun := true,
                                                       stage := if last then .stopping none else .kstep })) ∧
  (∀ (s : State) (core n : Nat) (x : Command) (st : Stage), AtWork s core 0 n x st → fills x = true →
    ∃ t, exec (.fillerKStep core) s = .next t ∧
      CoreBecomes s t core (((s.core core).bump 6).setSlot (16 * 0 + n) (some { x with filler := x.filler + 1 })))

/-- SLEW_LIMITER_STEP (R302): at a step boundary a post that has no register write pending serves its one request. A start
admits its core's MTILE and adds its column quarters to the post's activity; a stop lets it complete and takes them off. -/
def Sys2Proof.Claim.SlewLimiter : Prop :=
  ∀ (s : State) (post core n q : Nat) (x : Command), postOf core = post → s.pwrWrites = [] → s.rampWrites = [] →
    x.quarters = q →
    (AtWork s core 0 n x .starting → s.starts.filter (fun r => postOf r.1 = post) = [(core, q)] →
      s.stops.filter (fun r => postOf r.1 = post) = [] →
      ∃ t, exec (.slewLimiterStep post) s = .next t ∧
        CoreBecomes s { t with starts := s.starts, activity := s.activity } core
          ((s.core core).setSlot (16 * 0 + n) (some { x with stage := .kstep })) ∧
        t.starts = s.starts.erase (core, q) ∧ Table.get 0 t.activity post = Table.get 0 s.activity post + q) ∧
    (AtWork s core 0 n x (.stopping none) → x.cut = false → s.starts.filter (fun r => postOf r.1 = post) = [] →
      s.stops.filter (fun r => postOf r.1 = post) = [(core, q)] →
      ∃ t, exec (.slewLimiterStep post) s = .next t ∧
        CoreBecomes s { t with stops := s.stops, activity := s.activity } core
          ((s.core core).setSlot (16 * 0 + n) (some { x with stage := .done })) ∧
        t.stops = s.stops.erase (core, q) ∧ Table.get 0 t.activity post = Table.get 0 s.activity post - q)

/-- COMMAND_COMPLETION (R210, R211): a command that is done leaves its slot with its effect and one arrival at its barrier;
the arrival of a follow-on command is noted for the harts that have yet to acquire its registers (R232). MLOAD and AFILL leave their
tile with its tag and its bound (R227, R228), and MCONV.V delivers its rows to its registers, which become full (R225);
one that a fault stopped makes an error arrival with the fault's code and address. -/
def Sys2Proof.Claim.CommandCompletions : Prop :=
  (∀ (s : State) (core eng n : Nat) (x : Command) (st : Stage), AtWork s core eng n x st → x.err = none →
    (st = .done ∨ (st = .run ∧ hasAccesses x.instr = false ∧ convertsPoison s core x = false ∧
      convertsFloat s core x = false)) →
    Untermed (s.core core) x.bar → Untraced s core 1 →
    let arrives (h : Hart) : Hart := h.arrived s.freeCount x.key ((s.core core).barAt x.bar).epoch
    ∃ t, exec (.commandCompletion core eng n) s = .next t ∧ SlotBecomes s t core (16 * eng + n) none ∧ t.mem = s.mem ∧
      (t.core core).barAt x.bar = arrivedBy ((s.core core).barAt x.bar) 1 ∧
      (∀ b, b ≠ x.bar → (t.core core).barAt b = (s.core core).barAt b) ∧
      (∀ acc f c, x.instr = .mzero acc f c → (t.core core).tile acc.toNat = { rns := fFD x.fmt = 11 }) ∧
      (∀ sa sb acc c, x.instr = .mload sa sb acc c → ∀ i j, i < 256 → j < 128 → ((t.core core).tile acc.toNat).at_ i j =
        let d := tileDesc x.descA
        if i < d.rows ∧ j < d.cols then leAt x.carry (4 * (i * d.cols + j)) 4 % 2 ^ 32 else 0) ∧
      (∀ sa sb acc c, x.instr = .mload sa sb acc c →
        let d := tileDesc x.descA
        ((t.core core).tile acc.toNat).tag = (if d.fmt = 11 then 11 else 10) ∧ ((t.core core).tile acc.toNat).tb.toNat =
          if d.fmt ≠ 11 then 0 else if x.vb = 0 then 2 ^ 32 - 1 else leAt x.carry (4 * d.rows * d.cols) 4 % 2 ^ 32) ∧
      (∀ sa acc c, x.instr = .afill sa acc c → ∀ i j, i < 256 → j < 128 → ((t.core core).tile acc.toNat).at_ i j =
        leAt x.carry (64 + 4 * (128 * i + j)) 4 % 2 ^ 32) ∧
      (∀ sa acc c, x.instr = .afill sa acc c → ((t.core core).tile acc.toNat).tag = (if leAt x.carry 0 1 = 11 then 11 else 10) ∧
        ((t.core core).tile acc.toNat).tb.toNat = leAt x.carry 4 4 % 2 ^ 32) ∧
      (∀ sb sc acc vo f c, x.instr = .mconvV sb sc acc vo f c → vo.idx.toNat + x.vc.toNat ≤ 64 →
        ∃ v, t.hart x.hart = arrives { s.hart x.hart with vec := v } ∧ v.m = (s.hart x.hart).vec.m ∧
          let got (r : Nat) : Bool := vo.idx.toNat ≤ r && r < vo.idx.toNat + x.vc.toNat
          (∀ r e, elemOf v r e (ewOf x.vtype) = if got r = true ∧ e < 128
            then convElem ((s.core core).tile acc.toNat) x (x.vb.toNat + (r - vo.idx.toNat)) e % 2 ^ ewOf x.vtype
            else elemOf (s.hart x.hart).vec r e (ewOf x.vtype)) ∧
          ∀ r l, l < 16 → (v.slice r l).full = (((s.hart x.hart).vec.slice r l).full || got r) ∧
            (v.slice r l).taint = (((s.hart x.hart).vec.slice r l).taint && !got r)) ∧
      (∀ sa vo c, x.instr = .twin sa vo c → (t.core core).temporal.ren = x.va ∧
        ∀ r, Table.get 255 (t.core core).temporal.x r = x.carry.getD r 255) ∧
      (∀ sa c, x.instr = .twld sa c → ∀ r, Table.get 255 (t.core core).temporal.d r = x.carry.getD r 255) ∧
      (∀ c, x.instr = .treset c → (t.core core).temporal = {}) ∧
      (∀ vo c, x.instr = .tcapt vo c → t.hart x.hart = arrives ((s.hart x.hart).deliver vo.idx.toNat 8
        ((List.range 64).map fun k => (k, (Table.get 255 (s.core core).temporal.y k).toNat)))) ∧
      (∀ sb vo c, x.instr = .tcaptFirstk sb vo c → t.hart x.hart = arrives ((s.hart x.hart).deliver vo.idx.toNat 8
        ((List.range x.vb.toNat).map fun j => (j, (risen (s.core core).temporal).getD j 255)))) ∧
      (∀ sd c, x.instr = .tcaptCount sd c → sd ≠ 0 → (s.hart x.hart).seq.late.contains (sd.toNat, x.tok, false) = true →
        (t.hart x.hart).getS s.freeCount sd = BitVec.ofNat 64 (risen (s.core core).temporal).length)) ∧
  (∀ (s : State) (core eng n : Nat) (x : Command) (f : AccFault) (d : Nat), AtWork s core eng n x (.failed f d) →
    Untermed (s.core core) x.bar → Untraced s core 1 →
    let b := (s.core core).barAt x.bar
    ∃ t, exec (.commandCompletion core eng n) s = .next t ∧ SlotBecomes s t core (16 * eng + n) none ∧ t.mem = s.mem ∧
      (t.core core).barAt x.bar =
        phased { (if b.err then b else { b with fcode := faultCode f eng d, faddr := f.val }) with err := true } ∧
      (∀ m, m ≠ x.bar → (t.core core).barAt m = (s.core core).barAt m))

/-- WAVE_COMPLETE replaces Y whole with the columns' ticks (R234, R349). FOLLOW_ON_ISSUE puts the oldest follow-on command
that names a slot into it (R232), also at a core that lacks the matrix array (log entry 33). REMOTE_ARRIVAL makes the oldest
arrivals of a BARV.R that no task which can still abort has sent elsewhere (R322, R341, log entry 78), at a core that holds a task
of the sender's context or is reserved for its launch; at any other, one that holds a task of another context or is reserved for
another launch, and at one that is being reset, it discards and notes them (R239, R395). -/
def Sys2Proof.Claim.EngineArrivals : Prop :=
  (∀ (s : State) (core n : Nat) (x : Command), AtWork s core 2 n x .wave →
    ∃ t, exec (.waveComplete core) s = .next t ∧ t.mem = s.mem ∧ t.harts = s.harts ∧
      SlotBecomes s t core (16 * 2 + n) (some { x with stage := .done }) ∧
      (t.core core).temporal.x = (s.core core).temporal.x ∧ (t.core core).temporal.d = (s.core core).temporal.d ∧
      (t.core core).temporal.ren = (s.core core).temporal.ren ∧
      ∀ c, c < 64 → Table.get 255 (t.core core).temporal.y c =
        BitVec.ofNat 8 (tickByte (columnTick (s.core core).temporal x.window (andColumn x.instr x.va c) c))) ∧
  (∀ (s : State) (core n : Nat) (f : Follow) (x : Command),
    (s.core core).follows.find? (fun f => ((w64At f.bytes 0).field 22 4).toNat = n) = some f →
    followCommand f = some x → x.key = n → (s.core core).slot n = none → Table.get none (s.core core).pending n = none →
    matrixChecks x (w64At f.bytes 0) (agran (s.hart f.hart).partw) (s.regsOf f.hart) = .ok () →
    (s.core core).imaging = false → Untraced s core 1 →
    ∃ t, exec (.followOnIssue core n) s = .next t ∧ t.mem = s.mem ∧ SlotBecomes s t core n (some { x with
        stage := if ((cmdInfo x.instr).map fun p => p.2.q) = some true then .parked else firstStage x.instr }) ∧
      (t.core core).follows = (s.core core).follows.erase f) ∧
  (∀ (s : State) (a : Arrival) (pre rest : List Arrival), s.arrivals = pre ++ a :: rest → (∀ b ∈ pre, s.withholds b = true) →
    s.withholds a = false →
    let c := s.core a.core
    let own (k : Task) : Prop := a.launch = some k.launch ∧ a.n = k.n
    let theirs := (∃ k, c.task = some k ∧ k.asid = a.asid) ∨ ∃ l, c.reserved = some l ∧ a.launch = some l
    (theirs → Untermed c a.bar → Untraced s a.core 1 → s.resetting a.core = false →
      ∃ t ts, exec .remoteArrival s = .next t ∧ t.arrivals = pre ++ rest ∧ t.mem = s.mem ∧ t.harts = s.harts ∧
        BarrierOnly { c with task := ts } (t.core a.core) a.bar (arrivedBy (c.barAt a.bar) a.count) ∧
        (∀ k, c.task = some k → (own k → ts = some k) ∧
          (¬own k → ts = some { k with came := k.came ++ [(a.bar, a.count)] })) ∧ (c.task = none → ts = none)) ∧
    (s.resetting a.core = true ∨ ¬theirs →
      ∃ t, exec .remoteArrival s = .next t ∧
        t = { s with arrivals := pre ++ rest, warnings := s.warnings ++ [(a.fromCore, .remote a.core a.bar)] })) ∧
  (∀ (s : State), (∀ a ∈ s.arrivals, s.withholds a = true) → exec .remoteArrival s = .next s)

/-- What the engines read and write: descriptors, rows and elements. -/
def Obligations.EngineTransfers : Prop := Claim.DescriptorReads ∧ Claim.EngineAccesses

/-- The k-steps of an MTILE, and the slew limiter that lets them start and stop. -/
def Obligations.KSteps : Prop := Claim.KSteps ∧ Claim.SlewLimiter

/-- Completions of commands, and what arrives at barriers and slots. -/
def Obligations.Completions : Prop := Claim.CommandCompletions ∧ Claim.EngineArrivals

/-! ## Events of translation, leases and stamps -/

namespace Sys2Proof.Claim

/-- The `k` bytes of host memory from `a` are `bs`, and every other byte is as it was. -/
def HostWritten (s t : State) (a : Nat) (bs : List Byte) : Prop :=
  (∀ k, k < bs.length → Memory.byte t.hostMem (a + k) = bs.getD k 0) ∧
    ∀ b, (b < a ∨ a + bs.length ≤ b) → Memory.byte t.hostMem b = Memory.byte s.hostMem b

/-- Nothing that a unit or L2 holds of the covered range is left (R274). -/
def Dropped (t : State) (c : Cover) : Prop :=
  (∀ u ∈ t.units, (∀ l ∈ u.2.leaves, c.leaf l = false) ∧ (∀ a ∈ u.2.ats, c.ats a = false) ∧
    ∀ p ∈ u.2.pointers, c.pointer p = false) ∧
    ∀ l ∈ t.lines, c.line l = false

/-- A barrier takes one normal arrival where its core still runs the task, or runs none (R245, R405). -/
def Arrives (s t : State) (core bar launch : Nat) : Prop :=
  BarrierOnly (s.core core) (t.core core) bar
    (if s.stillFor core launch then arrivedBy ((s.core core).barAt bar) 1 else (s.core core).barAt bar)

/-- A barrier takes one error arrival with a code and an address, in the same case (R237). -/
def ErrorArrives (s t : State) (core bar launch : Nat) (code : BitVec 16) (addr : Word) : Prop :=
  let b := (s.core core).barAt bar
  BarrierOnly (s.core core) (t.core core) bar
    (if s.stillFor core launch then
      phased { (if b.err then b else { b with fcode := code, faddr := addr }) with err := true }
     else b)

end Sys2Proof.Claim

/-- TRANSLATION_REQUEST is served by a cached leaf that allows it, and otherwise joins a walk of its page, takes one of 32
walkers, or waits in the list of 512, beyond which L2 holds it (R270, R271). WALK_COMPLETE ends the oldest walk: a leaf is
installed, with A set and for a store D, and that the access may use, and the line comes into L2; or the request faults and
leaves no translation (R266, R267). HOST_COMPLETION gives what the host answers for a page (R390). -/
def Sys2Proof.Claim.WalkEvents : Prop :=
  (∀ (s : State) (r : XlatReq),
    let u := unitOf r.post r.va.toNat
    let x := s.unit u
    canonical r.va = true →
    (∀ l, x.leaves.find? (leafFor r.asid r.va.toNat) = some l → (r.handler = true ∨ pteU l.pte = true) →
      pteAllows l.pte r.kind = true → (kindStores r.kind = true → pteD l.pte = true) →
      exec (.translationRequest r) s = .next (s.keep r.post r.asid r.va.toNat l none)) ∧
    (∀ l, x.leaves.find? (leafFor r.asid r.va.toNat) = some l →
      ((r.handler = false ∧ pteU l.pte = false) ∨ pteAllows l.pte r.kind = false) →
      exec (.translationRequest r) s = .next s) ∧
    (x.leaves.any (leafFor r.asid r.va.toNat) = false →
      ∃ t, exec (.translationRequest r) s = .next t ∧ (∀ v, v ≠ u → t.unit v = s.unit v) ∧ { t with units := s.units } = s ∧
        t.unit u = (if x.walks.any (fun w => w.takes s r) then
            { x with walks := x.walks.map fun w => if w.takes s r then { w with joined := w.joined ++ [r] } else w }
          else if x.walks.length < 32 then { x with walks := x.walks ++ [{ req := r }] }
          else if x.waits.length < 512 then { x with waits := x.waits ++ [r] }
          else { x with misses := x.misses ++ [r] }))) ∧
  (∀ (s : State) (u : Nat) (w : XlatWalk),
    let r := w.req
    let s0 := s.setUnit u { s.unit u with walks := (s.unit u).walks.erase w }
    (s.unit u).walks.find? (fun w => !s.stopped w.req.asid w.req.va.toNat) = some w → w.joined = [] →
    (s.unit u).waits = [] → (s.unit u).misses = [] →
    (∀ s1 l, walk s0 r.post r.asid r.ptroot r.va.toNat r.kind r.handler = .ok (s1, l) →
      ∃ t, exec (.walkComplete u) s = .next t ∧ (∀ v, t.unit v = s1.unit v) ∧
        { t with units := s1.units } = s1.keep r.post r.asid r.va.toNat l none ∧
        (t.unit (unitOf r.post r.va.toNat)).leaves.any (leafFor r.asid r.va.toNat) = true ∧
        l.asid = r.asid ∧ l.page ≤ r.va.toNat ∧ r.va.toNat < l.page + pageBytes l.lvl ∧ pteA l.pte = true ∧
        (2 ≤ r.kind → pteD l.pte = true) ∧ (r.handler = false → pteU l.pte = true) ∧ t.harts = s.harts ∧ t.cores = s.cores) ∧
    (∀ c, walk s0 r.post r.asid r.ptroot r.va.toNat r.kind r.handler = .error c →
      ∃ t, exec (.walkComplete u) s = .next t ∧ (∀ v, t.unit v = s0.unit v) ∧ { t with units := s.units } = s)) ∧
  (∀ (s : State) (page status : Nat), ∃ t, exec (.hostCompletion page status) s = .next t ∧
    (∀ a, t.hostAnswer a = if a / 4096 = page then (if status = 0 then .data else if status = 1 then .error else .poison)
      else s.hostAnswer a) ∧ { t with hostAns := s.hostAns } = s)

namespace Sys2Proof.Claim

/-- The host's answer for a page has reached the launches and the LEASEX that wait for the page, and no other (R279). -/
def Answered (s t : State) (asid : BitVec 16) (page : Word) (resident : Bool) : Prop :=
  (∀ n l, s.launch n = some l → t.launch n = some (if l.asid = asid ∧ l.resolved = false ∧
    (Record.leaseBase l.record l.pend).toNat / 4096 * 4096 + 4096 * l.pendPage = page.toNat
    then { l with answer := some resident } else l)) ∧
  t.leasexs = s.leasexs.map fun r => if r.asid = asid ∧ r.base.toNat / 4096 * 4096 + 4096 * r.page = page.toNat
    then { r with answer := some resident } else r

end Sys2Proof.Claim

/-- INVREQ is rejected with status 3 where it is malformed, and otherwise begins an invalidation (R273), as ATS_INVALIDATION
does (R390). INVALIDATION_COMPLETE ends the oldest one that need not wait, for older accesses or, without FORCE, for a pin:
it leaves nothing of the range cached and tells who asked: the host by status 1, the launches that wait for a page by
the answer, or the ATS (R274, R277, R279, R390). -/
def Obligations.Invalidations : Prop :=
  (∀ (s : State) (w0 w1 w2 w3 : Word),
    let ok := canonical w0 = true ∧ w0.toNat % 4096 = 0 ∧ w2.toNat % 8 = 0 ∧ w1.extractLsb' 51 13 = 0 ∧ w3 = 0
    (¬ok → ∃ t, exec (.invreq w0 w1 w2 w3) s = .next t ∧ HostWritten s t (w2.toNat / 8 * 8) [3, 0, 0, 0, 0, 0, 0, 0] ∧
      { t with hostMem := s.hostMem } = s) ∧
    (ok → ∃ t, exec (.invreq w0 w1 w2 w3) s = .next t ∧ { t with inv := s.inv } = s ∧
      t.inv = s.inv ++ [⟨w0, w1.extractLsb' 0 32, w1.extractLsb' 32 16, w1.extractLsb' 48 8, .host w2⟩])) ∧
  (∀ (s : State) (i : Invalidation), s.inv.find? (fun i => coverReady s i.cover) = some i →
    ∃ t, exec .invalidationComplete s = .next t ∧ Dropped t i.cover ∧ t.inv = s.inv.erase i ∧ t.mem = s.mem ∧
      t.harts = s.harts ∧ t.cores = s.cores ∧
      (∀ st, i.src = .host st → HostWritten s t st.toNat [1, 0, 0, 0, 0, 0, 0, 0]) ∧
      (∀ asid page, i.src = .answer asid page → i.flags = 0 → Answered s t asid page true ∧ t.hostMem = s.hostMem) ∧
      (i.src = .ats → t.atsDone = s.atsDone + 1 ∧ t.hostMem = s.hostMem)) ∧
  (∀ (s : State) (base : Word) (np : BitVec 32) (asid : BitVec 16),
    exec (.atsInvalidation base np asid) s = .next { s with inv := s.inv ++ [⟨base, np, asid, 0, .ats⟩] })

/-- The host fault path (R279, R388, R390): FAULT_RING_POST writes the oldest held request of a unit to the ring where there
is room, and raises its vector, and answers it as refused where the host has disabled the ring; an answer, by FRESP or by
PAGE_REQUEST_RESPONSE, ends the request: a refusal reaches the launches and LEASEX that wait for the page, and a page made
resident is first invalidated. -/
def Sys2Proof.Claim.FaultPath : Prop :=
  (∀ (s : State) (u tag origin : Nat) (page : Word) (asid : BitVec 16) (write : Bool) (corr : BitVec 32)
    (rest : List (Nat × Word × BitVec 16 × Bool × Nat × BitVec 32)),
    (s.unit u).held = (tag, page, asid, write, origin, corr) :: rest →
    (s.frbase ≠ 0 → (s.frhead - s.frtail).toNat < 2 ^ s.frsize →
      ∃ t, exec (.faultRingPost u) s = .next t ∧ t.frhead = s.frhead + 1 ∧ t.msix = s.msix ++ [1] ∧ (t.unit u).held = rest ∧
        (t.unit u).requests = (s.unit u).requests ++ [(tag, page, asid, write, origin, corr)] ∧
        HostWritten s t (s.frbase.toNat + 32 * (s.frhead.toNat % 2 ^ s.frsize))
          (leBytes 8 page.toNat ++ leBytes 2 asid.toNat ++ [if write then 2 else 1, BitVec.ofNat 8 origin] ++
            leBytes 4 corr.toNat ++ leBytes 4 tag ++ [BitVec.ofNat 8 u] ++ List.replicate 11 0) ∧
        t.mem = s.mem ∧ t.harts = s.harts ∧ t.cores = s.cores) ∧
    (s.frbase = 0 →
      ∃ t, exec (.faultRingPost u) s = .next t ∧ t.frhead = s.frhead ∧ t.msix = s.msix ∧ (t.unit u).held = rest ∧
        (t.unit u).requests = (s.unit u).requests ∧ Answered s t asid page false ∧
        t.mem = s.mem ∧ t.hostMem = s.hostMem ∧ t.harts = s.harts ∧ t.cores = s.cores)) ∧
  (∀ (s : State) (i : Instr) (u origin : Nat) (tag : BitVec 32) (refused : Bool) (page : Word) (asid : BitVec 16) (write : Bool)
    (corr : BitVec 32),
    (i = .fresp u tag refused ∨ i = .pageRequestResponse u tag refused) →
    (s.unit u).requests.find? (fun r => r.1 = tag.toNat) = some (tag.toNat, page, asid, write, origin, corr) →
    ∃ t, exec i s = .next t ∧
      (t.unit u).requests = (s.unit u).requests.erase (tag.toNat, page, asid, write, origin, corr) ∧
      (refused = false → t.inv = s.inv ++ [⟨page, 1, asid, 0, .answer asid page⟩] ∧ t.launches = s.launches ∧
        t.leasexs = s.leasexs) ∧
      (refused = true → t.inv = s.inv ∧ Answered s t asid page false) ∧
      t.mem = s.mem ∧ t.hostMem = s.hostMem ∧ t.harts = s.harts ∧ t.cores = s.cores)

/-- Lease ranges (R245, R276): a launch whose last declared range resolves holds them all, without the pages that FORCE has
removed meanwhile (R277), is measured (R404) and may walk; one that waits for
the host keeps its place; one whose page cannot be reached ends with LCODE 6. The error
record of a LEASEX at its limit is the model's choice (log entry 42). LEASEX_RESOLVED adds a LEASEX's range to what
its launch holds, and its barrier arrives. -/
def Sys2Proof.Claim.LeaseResolution : Prop :=
  (∀ (s : State) (id : Nat) (l : Launch), s.launch id = some l → l.resolved = false → (l.phase = .leases ∨ l.phase = .suspended ∨ l.phase = .draining) →
    let r : Record := l.record
    let declared := (List.range (Record.nlease r)).map fun i =>
      (⟨(Record.leaseBase r i).toNat, Record.leaseLen r i, Record.leaseWrite r i, false, 0⟩ : Range)
    let holds (m : Option (List Nat)) (x : Launch) : Launch :=
      { x with held := l.held ++ declared.flatMap (afterForced l.forced), forced := [], resolved := true,
               attested := m.isSome, code := m.getD [], phase := if l.phase = .leases then .walking else l.phase }
    let range := resolveRange l.post id l.asid l.ptroot (Record.leaseBase r l.pend) (Record.leaseWrite r l.pend) 1 l.corr
      (pagesOf (Record.leaseBase r l.pend).toNat (Record.leaseLen r l.pend) - l.pendPage) s l.pendPage l.answer
    (Record.nlease r ≤ l.pend → ∃ t, exec (.leaseResolutionComplete id) s = .next t ∧ t.mem = s.mem ∧
      t.launch id = some (holds (measured s l) l)) ∧
    (∀ s1, Record.nlease r = l.pend + 1 → range = .done s1 → ∃ t, exec (.leaseResolutionComplete id) s = .next t ∧
      SameMemory s1 t ∧ ∃ m, t.launch id = some (holds m { l with pend := l.pend + 1, pendPage := 0, answer := none })) ∧
    (∀ s1 k, l.pend < Record.nlease r → range = .wait s1 k → ∃ t, exec (.leaseResolutionComplete id) s = .next t ∧
      SameMemory s1 t ∧ t.launch id = some { l with pendPage := k, answer := none }) ∧
    (∀ s1 a c, l.pend < Record.nlease r → range = .fail s1 a c → ∃ t, exec (.leaseResolutionComplete id) s = .next t ∧ t.mem = s1.mem ∧
      t.launch id = some { l with phase := .ended, lcode := 6, failure := some c.code, walkDone := true })) ∧
  (∀ (s : State) (r : LeaseReq) (l : Launch),
    let first : Word := BitVec.ofNat 64 (r.base.toNat / 4096 * 4096)
    let rest := s.leasexs.erase r
    let range := resolveRange (postOf r.core) r.launch r.asid r.ptroot first r.write 2 r.corr
      (pagesOf r.base.toNat r.len.toNat - r.page) { s with leasexs := rest } r.page r.answer
    s.leasexs.find? (fun r => r.answer.isSome || !pageAsked s r.asid
      (BitVec.ofNat 64 (r.base.toNat / 4096 * 4096 + 4096 * r.page))) = some r →
    s.launch r.launch = some l → Untermed (s.core r.core) r.bar → Untraced s r.core 1 →
    ((l.held.filter Range.extra).length < 16 → ∀ s1, range = .done s1 → s1.launches = s.launches →
      ∃ t, exec .leasexResolved s = .next t ∧ SameMemory s1 t ∧ t.leasexs = rest ∧
        t.launch r.launch = some { l with
          held := l.held ++ afterForced r.forced ⟨r.base.toNat, r.len.toNat, r.write, true, r.n⟩ } ∧
        Arrives s t r.core r.bar r.launch) ∧
    (16 ≤ (l.held.filter Range.extra).length → ∃ t, exec .leasexResolved s = .next t ∧ t.leasexs = rest ∧
      t.launches = s.launches ∧ t.mem = s.mem ∧
      ErrorArrives s t r.core r.bar r.launch (faultCode (accFault .lease 0 r.base) 6 3) r.base) ∧
    ((l.held.filter Range.extra).length < 16 → ∀ s1 p c, range = .fail s1 p c → s1.launches = s.launches →
      ∃ t, exec .leasexResolved s = .next t ∧ t.leasexs = rest ∧ t.launches = s.launches ∧ t.mem = s1.mem ∧
        ErrorArrives s t r.core r.bar r.launch (faultCode (accFault c (if r.write then 2 else 1) p) 6 0) p))

/-- STAMP_COMPLETE (R405, R406): the oldest stamp, whose region is well formed, readable and all of it sealed and whose
manifest may be written, writes the manifest with the region's digest and its signature at its place, marks the pages of its
region and no other, takes the next sequence number, holds its lines no more, and its barrier arrives. One that is refused, for
its region, a page or a read of it, or the place of its manifest (SEAL where it lies on a sealed page, whether or not it is a multiple
of 64), writes and marks nothing but what its translations left in the page tables, and makes an error arrival with the code that
R405 gives. -/
def Sys2Proof.Claim.Stamping : Prop :=
  (∀ (s s1 s2 s3 : State) (r : StampReq) (rest : List StampReq) (pages : List Nat) (bs : List Byte) (places : List Place),
    let w := whoStamp r
    let head := manifestHead s3 r (sha256 bs)
    let s4 := writePlaces { s3 with sseq := s3.sseq + 1 } places (head ++ signatureOf head)
    s.stamps = r :: rest → r.region.toNat % 4096 = 0 → r.len ≠ 0 → r.len.toNat % 4096 = 0 → r.len.toNat ≤ 2 ^ 28 →
    sealedPages w (r.len.toNat / 4096) s r.region = .ok (s1, pages) →
    readRun s1 w r.region 8 (r.len.toNat / 8) = .ok (s2, bs) → r.manifest.toNat % 64 = 0 →
    manifestPlaces w 998 s2 r.manifest = .ok (s3, places) → Untermed (s.core r.core) r.bar → Untraced s r.core 1 →
    ∃ t, exec .stampComplete s = .next t ∧ t.stamps = rest ∧ t.sseq = s.sseq + 1 ∧ t.harts = s.harts ∧ SameMemory s4 t ∧
      (∀ p, Table.get false t.stamped p = if p ∈ pages then true else Table.get false s4.stamped p) ∧
      (∀ h ∈ t.held, ¬(h.core = r.core ∧ h.key = r.key)) ∧ Arrives s4 t r.core r.bar r.launch) ∧
  (∀ (s : State) (r : StampReq) (rest : List StampReq), s.stamps = r :: rest → Untermed (s.core r.core) r.bar →
    Untraced s r.core 1 →
    let w := whoStamp r
    let whole := r.region.toNat % 4096 = 0 ∧ r.len ≠ 0 ∧ r.len.toNat % 4096 = 0
    let refused (f : AccFault) (code : BitVec 16) := ∃ t, exec .stampComplete s = .next t ∧ t.stamps = rest ∧
      t.sseq = s.sseq ∧ t.stamped = (s.keepWalks w f).stamped ∧ SameMemory (s.keepWalks w f) t ∧
      ErrorArrives s t r.core r.bar r.launch code f.val
    (¬whole → refused (accFault .ill 0 r.region) (faultCode (accFault .ill 0 r.region) 3 2)) ∧
    (whole → 2 ^ 28 < r.len.toNat → refused (accFault .ill 0 r.region) (faultCode (accFault .ill 0 r.region) 3 3)) ∧
    (∀ f, whole → r.len.toNat ≤ 2 ^ 28 → sealedPages w (r.len.toNat / 4096) s r.region = .error f →
      refused f (faultCode f 3 0)) ∧
    (∀ s1 pages f, whole → r.len.toNat ≤ 2 ^ 28 → sealedPages w (r.len.toNat / 4096) s r.region = .ok (s1, pages) →
      readRun s1 w r.region 8 (r.len.toNat / 8) = .error f → refused { f with kind := 1 } (faultCode { f with kind := 1 } 3 0)) ∧
    (∀ s1 s2 pages bs, whole → r.len.toNat ≤ 2 ^ 28 → sealedPages w (r.len.toNat / 4096) s r.region = .ok (s1, pages) →
      readRun s1 w r.region 8 (r.len.toNat / 8) = .ok (s2, bs) →
      (r.manifest.toNat % 64 ≠ 0 → ∀ c, c = (match manifestPlaces w 998 s2 (r.manifest &&& ~~~7) with
          | .error f => if f.cause = .seal then .seal else .prot
          | .ok _ => .prot) →
        refused (accFault c 2 r.manifest) (faultCode (accFault c 2 r.manifest) 3 1)) ∧
      (∀ f, r.manifest.toNat % 64 = 0 → manifestPlaces w 998 s2 r.manifest = .error f →
        refused f (faultCode { f with cause := if f.cause = .seal ∨ f.cause = .page then f.cause else .prot } 3 1))))

/-- Walks, what the host answers, and the host fault path. -/
def Obligations.Translation : Prop := Claim.WalkEvents ∧ Claim.FaultPath

/-- Lease ranges, and the work of STAMP. -/
def Obligations.LeasesAndStamps : Prop := Claim.LeaseResolution ∧ Claim.Stamping

/-! ## Queues, packets and trace sessions -/

namespace Sys2Proof.Claim

/-- The arbiter takes the well-formed packet `p` of the enabled queue `q` (R329, R330): `s1` is the state once it has left
its ring. -/
structure Taken (s s1 : State) (q : Nat) (p : Packet) : Prop where
  picked : ∃ a b, pick s.markQueues = some (a, q) ∧ headPacket a q = .ok (b, p) ∧
    s1 = b.setQueue q { b.queue q with head := (b.queue q).head + 1, since := none }
  formed : p.refusal = none
  enabled : (s1.queue q).en = true

/-- A packet changes no memory beyond what `s` holds, and leaves its queue's head where taking it put it. -/
def TakenOnly (s t : State) (q : Nat) : Prop := SameMemory s t ∧ (t.queue q).head = (s.queue q).head

/-- A packet that may release cores changes no memory of the module or the host, and leaves its queue's head so. -/
def HeadOnly (s t : State) (q : Nat) : Prop :=
  t.mem = s.mem ∧ t.hostMem = s.hostMem ∧ t.peerMem = s.peerMem ∧ (t.queue q).head = (s.queue q).head

/-- A launch that a pre-emption can still act on (R344). -/
def Preemptible (l : Launch) : Prop := l.phase ≠ .suspended ∧ l.phase ≠ .draining ∧ l.phase ≠ .ended

/-- The launch is suspended from its next iteration on, its readied tasks are returned, its running BUFFERED tasks that can
be rerun are aborted, and its running DIRECT tasks begin to stop where `cut` is set and otherwise run on (R344). -/
def Suspended (s t : State) (id : Nat) (l : Launch) (area : Word) (cut : Bool) : Prop :=
  (∃ y, t.launch id = some y ∧ y.phase = .suspended ∧ y.used = 0 ∧ y.record = l.record ∧
    y.area = (if area = 0 then Record.imga l.record else area)) ∧
  ∀ c k, c < 128 → (s.core c).task = some k → k.launch = id →
    (k.waits = true → (t.core c).task = none) ∧
    (k.phase = .running → k.buffered = true → k.fixed = false → (t.core c).task = none) ∧
    (k.phase = .running → k.buffered = true → k.fixed = true → (t.core c).task = some k) ∧
    (k.phase = .running → k.buffered = false →
      (t.core c).task = some (if cut then { k with phase := .cutting } else k))

/-- The launch drains to the level `dlev`: of its readied tasks those from the stop on are returned and the others keep their
cores, and its running tasks run on (R344). -/
def Drains (s t : State) (id : Nat) (l : Launch) (area : Word) (dlev : Nat) : Prop :=
  (∃ y, t.launch id = some y ∧ y.phase = .draining ∧ y.dlev = dlev ∧ y.record = l.record ∧
    y.area = (if area = 0 then Record.imga l.record else area)) ∧
  ∀ c k, c < 128 → (s.core c).task = some k → k.launch = id →
    (∀ n, k.waits = true → (stopsAt s id l dlev).min? = some n →
      (t.core c).task = if n ≤ k.n then none else some k) ∧
    ((stopsAt s id l dlev).min? = none ∨ k.phase = .running → (t.core c).task = some k)

end Sys2Proof.Claim

/-- A LAUNCH packet whose record and slot descriptors can be read begins a launch of its context, which first resolves its
leases; under RESUME it keeps the cursor it was given (R331, R332, R345). A malformed record ends it with LCODE 5 (R334). -/
def Sys2Proof.Claim.LaunchPackets : Prop :=
  ∀ (s s1 s2 s3 s4 : State) (q : Nat) (p : Packet) (i : Instr) (addr : Word) (cur : Option (Nat × List Word))
    (cb : List Byte) (r : Record), Taken s s1 q p → p.opc = 1 →
    ((i = .launchPacket ∧ p.pflags / 2 % 2 = 0 ∧ s2 = s1 ∧ addr = p.addr ∧ cur = none) ∨
      (i = .launchResume ∧ p.pflags / 2 % 2 = 1 ∧ readRun s1 (s1.whoQueue (s1.queue q).asid) p.addr 8 8 = .ok (s2, cb) ∧
        addr = w64At cb 0 ∧ cur = some (leAt cb 8 8, (List.range 6).map fun j => w64At cb (16 + 8 * j)))) →
    readBytes s2 (s2.whoQueue (s2.queue q).asid) (BitVec.ofNat 64 (addr.toNat / 64 * 64)) 512 = .ok (s3, r) →
    (∀ ds, addr.toNat % 64 = 0 → Record.ok r = true →
      readSlots { s3 with nextLaunch := s3.nextLaunch + 1 } (s3.queue q).asid r 12 = .ok (s4, ds) →
      ∃ t l, exec i s = .next t ∧ TakenOnly s4 t q ∧ t.nextLaunch = s3.nextLaunch + 1 ∧
        s4.launches = s3.launches ∧ t.launch s3.nextLaunch = some l ∧ l.queue = q ∧ l.asid = (s3.queue q).asid ∧
        l.corr = p.corr ∧ l.addr = addr ∧ l.record = r ∧ l.slots = ds ∧ l.phase = .leases ∧ l.cursor = cur ∧
        l.resolved = false ∧ l.walk = none ∧ l.waiting = [] ∧ l.held = []) ∧
    ((addr.toNat % 64 ≠ 0 ∨ Record.ok r = false) →
      ∃ t l, exec i s = .next t ∧ TakenOnly s3 t q ∧ t.launch s3.nextLaunch = some l ∧ l.corr = p.corr ∧
        l.phase = .ended ∧ l.lcode = 5 ∧ l.failure = some 1)

/-- WAITMEM blocks its queue while the word is below the threshold, and WAITMEM_RECHECK unblocks it once it is not; a SIGNAL
waits for the queue's earlier launches, and SIGNAL_ADD then adds to its word; RESETQ empties a queue of the same context
(R331). -/
def Sys2Proof.Claim.QueuePackets : Prop :=
  (∀ (s s1 s2 : State) (q v : Nat) (p : Packet), Taken s s1 q p → p.opc = 2 →
    loadAt s1 (s1.whoQueue (s1.queue q).asid) p.addr 8 = .ok (s2, v) →
    ∃ t, exec .waitmem s = .next t ∧ TakenOnly s2 t q ∧
      (t.queue q).blocked = if p.val.toNat ≤ v then none else some (p.addr, p.val, p.corr)) ∧
  (∀ (s s1 : State) (q v : Nat) (a x : Word) (c : BitVec 32), (s.queue q).en = true → (s.queue q).blocked = some (a, x, c) →
    loadAt s (s.whoQueue (s.queue q).asid) a 8 = .ok (s1, v) →
    ∃ t, exec (.waitmemRecheck q) s = .next t ∧ SameMemory s1 t ∧ (t.queue q).head = (s.queue q).head ∧
      (t.queue q).blocked = if x.toNat ≤ v then none else some (a, x, c)) ∧
  (∀ (s s1 : State) (q : Nat) (p : Packet), Taken s s1 q p → p.opc = 3 →
    ∃ t, exec .signal s = .next t ∧ TakenOnly s1 t q ∧
      (t.queue q).signals = (s1.queue q).signals ++ [(p.addr, p.val, p.corr, s1.launchesOf q)]) ∧
  (∀ (s s1 : State) (q : Nat) (a x : Word) (c : BitVec 32) (ls : List Nat) (pl : Place),
    (s.queue q).signals.find? (fun g => g.2.2.2.all fun l => (s.launch l).isNone) = some (a, x, c, ls) →
    let s0 := s.setQueue q { s.queue q with signals := (s.queue q).signals.erase (a, x, c, ls) }
    checkAccess s0 (s0.whoQueue (s.queue q).asid) 3 a 8 (some .add) = .ok (s1, pl) → pl.isMemory = true →
    ∃ t, exec (.signalAdd q) s = .next t ∧ StoresAt s1 t pl 8 (readPlace s1 pl 8 + x.toNat) ∧
      (t.queue q).signals = (s.queue q).signals.erase (a, x, c, ls)) ∧
  (∀ (s s1 : State) (q : Nat) (p : Packet), Taken s s1 q p → p.opc = 5 →
    (s1.queue p.val.toNat).asid = (s1.queue q).asid → (s1.queue p.val.toNat).trace = none → (s1.queue p.val.toNat).en = true →
    ∃ t, exec .resetq s = .next t ∧ SameMemory s1 t ∧ (t.queue p.val.toNat).head = (s1.queue p.val.toNat).tail ∧
      (t.queue p.val.toNat).tail = (s1.queue p.val.toNat).tail ∧ (t.queue p.val.toNat).blocked = none ∧
      (t.queue p.val.toNat).signals = [])

/-- A PREEMPT against a launch that it can still act on (R344): DRAIN, CUT, ABORT, or what the record's policy names; RESUME
lets a suspended launch go on (R346). A later one changes nothing, and so does a RESUME where nothing is suspended. Under CUT every
running DIRECT task begins to stop; that one whose image does not fit is found later, and then runs on, is log entry 47. -/
def Obligations.Preemption : Prop :=
  ∀ (s s1 : State) (q id : Nat) (p : Packet) (l : Launch), Taken s s1 q p → p.opc = 4 →
    preemptTarget s1 q p = some (id, l) →
    (p.pflags % 8 = 0 → p.pflags / 16 % 8 < Record.nlev l.record → Preemptible l →
      ∃ t, exec .preemptDrain s = .next t ∧ HeadOnly s1 t q ∧ Drains s1 t id l p.addr (p.pflags / 16 % 8)) ∧
    (p.pflags % 8 = 1 → Preemptible l →
      ∃ t, exec .preemptCut s = .next t ∧ HeadOnly s1 t q ∧ Suspended s1 t id l p.addr true) ∧
    (p.pflags % 8 = 2 → Preemptible l →
      ∃ t, exec .preemptAbort s = .next t ∧ HeadOnly s1 t q ∧ Suspended s1 t id l p.addr false) ∧
    (p.pflags % 8 = 3 → Preemptible l →
      ∃ t, exec .preemptPolicy s = .next t ∧ HeadOnly s1 t q ∧
        (Record.ppol l.record = 0 → Drains s1 t id l p.addr (Record.dlev l.record)) ∧
        (Record.ppol l.record = 1 → Suspended s1 t id l p.addr true) ∧
        (Record.ppol l.record = 2 → Suspended s1 t id l p.addr false)) ∧
    (p.pflags % 8 = 4 → l.phase = .suspended →
      ∃ t, exec .preemptResume s = .next t ∧ HeadOnly s1 t q ∧
        t.launch id = some { l with energy := false, phase := if l.resolved then .walking else .leases }) ∧
    (∀ i, ((i = .preemptDrain ∧ p.pflags % 8 = 0 ∧ p.pflags / 16 % 8 < Record.nlev l.record) ∨ (i = .preemptCut ∧ p.pflags % 8 = 1) ∨
        (i = .preemptAbort ∧ p.pflags % 8 = 2) ∨ (i = .preemptPolicy ∧ p.pflags % 8 = 3)) ∧ ¬Preemptible l ∨
        i = .preemptResume ∧ p.pflags % 8 = 4 ∧ l.phase ≠ .suspended →
      ∃ t, exec i s = .next t ∧ HeadOnly s1 t q ∧ t.launches = s1.launches ∧ t.cores = s1.cores ∧ t.harts = s1.harts)

/-- TRACEON opens its queue's session with the parts that the debug level grants, and TRACEOFF closes it and lets the
queue's stopped harts run (R407, R408, R410, R411); that level 0 opens an empty session is the model's choice (log entry
48). -/
def Sys2Proof.Claim.TraceSessions : Prop :=
  (∀ (s s1 : State) (q : Nat) (p : Packet), Taken s s1 q p → p.opc = 6 → (s1.queue q).trace = none →
    ∃ t x, exec .traceon s = .next t ∧ (t.queue q).trace = some x ∧ x.base = BitVec.ofNat 64 (leAt p.bytes 24 8) ∧
      x.log = leAt p.bytes 32 1 ∧ x.corr = p.corr ∧ x.stseq = BitVec.ofNat 64 (leAt p.bytes 48 8) ∧
      x.opt = (if s1.debugLevel = 0 then 0 else if s1.debugLevel = 1 then leAt p.bytes 33 1 % 8 else leAt p.bytes 33 1) ∧
      x.sk = (if s1.debugLevel = 0 then 0 else leAt p.bytes 34 1)) ∧
  (∀ (s s1 : State) (q : Nat) (p : Packet), Taken s s1 q p → p.opc = 7 →
    ∃ t, exec .traceoff s = .next t ∧ (t.queue q).trace = none ∧ (t.queue q).head = (s1.queue q).head ∧
      (∀ k, (s1.hart k).status = .halted → ((s1.coreLaunch (k / 4)).map Launch.queue) = some q →
        t.hart k = { s1.hart k with status := .running, lastRetire := s1.clock }) ∧
      (∀ k, ((s1.coreLaunch (k / 4)).map Launch.queue) ≠ some q → t.hart k = s1.hart k))

/-- What the packets of the work queues do. -/
def Obligations.Packets : Prop := Claim.LaunchPackets ∧ Claim.QueuePackets

/-! ## Events of launches and tasks, cuts and restores -/

namespace Sys2Proof.Claim

/-- The core holds no task, its members are idle, and its pool has neither contents nor grants (R340, R359). -/
def Released (t : State) (core : Nat) : Prop :=
  (t.core core).task = none ∧ (t.core core).pool = [] ∧ (t.core core).valid = [] ∧ (t.core core).granted = [0, 0, 0, 0] ∧
    ∀ k, k < 4 → (t.hart (4 * core + k)).status = .idle

/-- A launch's leases, cores and record given up (R343): no leaf is pinned for it, no LEASEX of it is left and no core is
reserved for it. -/
def givenUp (s : State) (id : Nat) : State :=
  let units := s.units.foldl (fun s u => s.setUnit u.1 { u.2 with
    leaves := u.2.leaves.map fun k => { k with pins := k.pins.filter (· ≠ id) } }) s
  let free := (List.range 128).foldl (fun s c =>
    if (s.core c).reserved = some id then s.setCore c { s.core c with reserved := none } else s)
    { units with leasexs := units.leasexs.filter fun r => r.launch ≠ id }
  free.setLaunch id none

/-- LCODE and CAUSE of a launch that is over (R343). -/
def endCode (l : Launch) : Nat × Nat :=
  if l.phase = .ended then (l.lcode, l.failure.getD 0)
  else match l.failure with
    | some c => (7, c)
    | none => (if l.phase = .draining then 2 else 1, 0)

/-- A launch that is refused once its record has been taken in: LCODE 5 with cause ILL, and no task starts (R345). -/
def refusedLaunch (l : Launch) : Launch :=
  { l with phase := .ended, lcode := 5, failure := some 1, walkDone := true, waiting := [], cursor := none }

/-- The tiles of slots with the descriptors `ds`, in ascending order and row by row in pieces of up to 64 bytes: for each piece its
place in the tile, of a task with the indices `x`, its offset in the scratchpad from SPDEST on, and its length (R338, R340). -/
def slotMoves (x : List Word) (ds : List (List Byte)) : List (Word × Nat × Nat) :=
  ds.flatMap fun b =>
    let d := tileDesc b
    if b.isEmpty then []
    else (List.range d.rows).flatMap fun i => (List.range ((d.rowBytes + 63) / 64)).map fun k =>
      (d.row x i + BitVec.ofNat 64 (64 * k), d.spdest + i * d.rowBytes + 64 * k, min 64 (d.rowBytes - 64 * k))

/-- Move pieces between their tiles and the scratchpad, one after another, until one faults: in (step 3 of R338), or out (step 1 of
R340), where a word that nothing has written is free (log entry 31). -/
def moveAll (w : Who) (out : Bool) : List (Word × Nat × Nat) → State → State × Option AccFault
  | [], s => (s, none)
  | (a, o, n) :: rest, s =>
    let p := BitVec.ofNat 64 (Config.pwBase + o)
    let s1 := if out then staleWords s w.core o n else s
    match readBytes s1 w (if out then p else a) n with
    | .error f => (s1, some f)
    | .ok (s2, bs) => match writeBytes s2 w (if out then a else p) bs with
      | (s3, some f) => (s3, some f)
      | (s3, none) => moveAll w out rest s3

/-- Every descriptor of a launch's slots is well formed; there are 8 of inputs and 4 of outputs (R332). -/
def SlotsFormed (l : Launch) : Prop := l.slots.length = 12 ∧ ∀ b ∈ l.slots, b.isEmpty = true ∨ tileDescOk b = true

/-- What is left of a task's staging: the tiles of the input slots come into the scratchpad. -/
def staged (s : State) (core : Nat) (k : Task) (l : Launch) : State × Option AccFault :=
  moveAll (whoTask core k) false ((slotMoves k.x (l.slots.take 8)).drop k.moved) s

/-- What is left of a task's commit (R340): the tiles of the output slots leave the scratchpad, then each hart's posted atomics are
performed in program order, and then 1 is added at TSIG. -/
def committed (s : State) (core : Nat) (k : Task) (l : Launch) : State × Option AccFault :=
  match moveAll (whoTask core k) true ((slotMoves k.x (l.slots.drop 8)).drop k.moved) s with
  | (s1, some f) => (s1, some f)
  | (s1, none) => match commitAtomics core k ((List.range 4).flatMap fun j => (s1.hart (4 * core + j)).commitQ) s1 with
    | (s2, some f) => (s2, some f)
    | (s2, none) =>
      if Record.tsig l.record = 0 then (s2, none)
      else match atomicAt s2 (s2.whoQueue l.asid) .add (Record.tsig l.record) 8 1 0 with
        | .error f => (s2, some f)
        | .ok (s3, _) => (s3, none)

/-- Where hart record `j` of a context image starts (R327): behind the header and the records before it. -/
def recordAt (bs : List Byte) : Nat → Nat
  | 0 => 256
  | j + 1 => recordAt bs j + leAt bs (recordAt bs j) 8

end Sys2Proof.Claim

/-- The walk (R335, R345): WALKER_ENUMERATE gives the next iteration in nesting order its number and its X, skipping those
before a cursor; it ends, or fails the launch where a table cannot be read. A cursor whose X is another than that of the iteration CN,
or a walk that ends otherwise than after exactly CN iterations with a cursor of zeros, refuses the launch with cause ILL. COHORT_RESERVE takes the cohort's cores once
all are free, with barriers, terms and pending bits at reset and PBAR preset (R280). -/
def Obligations.Walks : Prop :=
  (∀ (s s1 : State) (id lev : Nat) (l : Launch) (p : List (Nat × Word)), s.launch id = some l → l.walkDone = false →
    l.failure = none → l.phase = .walking → nextPlace s l.asid l.record l.walk = .ok (s1, some (p, lev)) →
    let x := placeX l.record p
    let it : Iteration := { n := l.next, x := x, lev := lev, since := s1.clock }
    ((Record.place l.record ≠ 1 ∨ cohortBad s1 l l.next = false) → (l.cursor = none ∨ l.cursor = some (l.next, x)) →
      ∃ t, exec (.walkerEnumerate id) s = .next t ∧ SameMemory s1 t ∧ t.harts = s.harts ∧
        t.launch id = some { l with walk := some p, next := l.next + 1, waiting := l.waiting ++ [it], cursor := none }) ∧
    (∀ n y, l.cursor = some (n, y) → l.next < n →
      ∃ t, exec (.walkerEnumerate id) s = .next t ∧ SameMemory s1 t ∧ t.harts = s.harts ∧
        t.launch id = some { l with walk := some p, next := l.next + 1 }) ∧
    (∀ y, l.cursor = some (l.next, y) → y ≠ x →
      ∃ t, exec (.walkerEnumerate id) s = .next t ∧ SameMemory s1 t ∧ t.harts = s.harts ∧
        t.launch id = some (refusedLaunch { l with walk := some p, next := l.next + 1 }))) ∧
  (∀ (s s1 : State) (id : Nat) (l : Launch), s.launch id = some l → l.walkDone = false → l.failure = none →
    l.phase = .walking → nextPlace s l.asid l.record l.walk = .ok (s1, none) →
    let done (y : Launch) := ∃ t, exec (.walkerEnumerate id) s = .next t ∧ SameMemory s1 t ∧ t.launch id = some y
    (l.cursor = none → done { l with walkDone := true }) ∧
    (∀ n y, l.cursor = some (n, y) → (n = l.next ∧ ∀ v ∈ y, v = 0) → done { l with walkDone := true, cursor := none }) ∧
    (∀ n y, l.cursor = some (n, y) → ¬(n = l.next ∧ ∀ v ∈ y, v = 0) → done (refusedLaunch l))) ∧
  (∀ (s : State) (id : Nat) (l : Launch) (f : AccFault), s.launch id = some l → l.walkDone = false → l.failure = none →
    l.phase = .walking → nextPlace s l.asid l.record l.walk = .error f →
    ∃ t, exec (.walkerEnumerate id) s = .next t ∧ t.mem = (s.keepWalks (s.whoQueue l.asid) f).mem ∧
      t.launch id = some { l with walkDone := true, failure := some f.cause.code }) ∧
  (∀ (s : State) (id : Nat) (l : Launch), s.launch id = some l →
    let cs := l.waiting.map fun i => Record.cohortCore l.record i.n
    Record.place l.record = 1 → l.walkDone = true → l.failure = none → l.phase = .walking → l.resolved = true → cs ≠ [] →
    cs.Nodup → cohortHeat s (Record.heat l.record) cs = true →
    (∀ c ∈ cs, (s.core c).task = none ∧ (s.core c).reserved = none ∧ (s.core c).noCommands = true) →
    ∃ t, exec (.cohortReserve id) s = .next t ∧ { t with cores := s.cores } = s ∧ (∀ c, c ∉ cs → t.core c = s.core c) ∧
      ∀ c ∈ cs, t.core c = { s.core c with
        reserved := some id, truss := [], pending := [],
        bars := if Record.pcount l.record = 0 then []
          else Table.set {} [] (Record.pbar l.record) { expect := Record.pcount l.record } })

/-- TASK_PLACEMENT gives a core that is free, present and fits the record to the next iteration, in its launch's turn (R336,
R337); STAGING_COMPLETE brings its input tiles in, each element to its place in the scratchpad (R338); TASK_START begins its harts at their entries with the values of
R339: the loop indices in S1 to S6, n in S7, the record in S8, and every other register zero. -/
def Obligations.TaskStarts : Prop :=
  (∀ (s : State) (id core : Nat) (l : Launch) (it : Iteration) (g : List Nat), s.launch id = some l →
    l.candidate = some it → it.image = none → core < 128 → myTurn s id l = true →
    (Record.heat l.record = 2 → hotChoice s (fun c => (placeGrants s id l it c).isSome) = some core) →
    placeGrants s id l it core = some g →
    (s.core core).task = none ∧ (s.core core).lacks.getLsbD 0 = false ∧ Record.vmin l.record ≤ g.foldl (· + ·) 0 ∧
    ∃ t k, exec (.taskPlacement id core) s = .next t ∧ (t.core core).task = some k ∧ k.launch = id ∧ k.n = it.n ∧ k.x = it.x ∧
      k.phase = .staging ∧ k.record = l.addr ∧ k.gang = Record.gang l.record ∧ k.buffered = Record.buffered l.record ∧
      k.partw = Record.partw l.record ∧ k.fixed = false ∧ (t.core core).granted = g ∧ (t.core core).pool = [] ∧
      (t.core core).valid = [] ∧ t.harts = s.harts ∧ t.mem = s.mem ∧
      t.launch id = some { l with waiting := l.waiting.filter fun j => j.n ≠ it.n } ∧
      (∀ c, c ≠ core → (t.core c).task = (s.core c).task)) ∧
  (∀ (s s1 : State) (core : Nat) (k : Task) (l : Launch), (s.core core).task = some k → k.phase = .staging →
    s.launch k.launch = some l → SlotsFormed l → staged s core k l = (s1, none) →
    ∃ t, exec (.stagingComplete core) s = .next t ∧ t.mem = s1.mem ∧ t.hostMem = s1.hostMem ∧ t.harts = s1.harts ∧
      (t.core core).pool = (s1.core core).pool ∧ (t.core core).task = some { k with phase := .ready, moved := 0 }) ∧
  (∀ (s : State) (core : Nat) (k : Task) (l : Launch), (s.core core).task = some k → k.phase = .ready →
    s.launch k.launch = some l → (s.context l.asid).stopped = false → l.failure = none →
    (l.phase = .walking ∨ l.phase = .draining) → lowerStarted s k.launch l k.n = true → k.x.length = 6 → k.gang ≤ 4 →
    Untraced s core 2 →
    ∃ t, exec (.taskStart core) s = .next t ∧ t.mem = s.mem ∧ (t.core core).task = some { k with
        phase := .running, bars := (s.core core).bars, temporal := (s.core core).temporal, came := [] } ∧
      (t.core core).grant = {} ∧ (t.core core).tiles = [] ∧ (t.core core).bars = (s.core core).bars ∧
      t.launch k.launch = some { l with started := max l.started (k.n + 1) } ∧
      (∀ j, j < k.gang →
        let h := t.hart (4 * core + j)
        h.status = .running ∧ h.handler = false ∧ h.seq.pc = Record.entry l.record j ∧ h.seq.arriving = true ∧
          h.tvec = Record.handler l.record ∧ h.partw = k.partw ∧ h.taskid = BitVec.ofNat 64 k.n ∧ h.corr = k.corr ∧
          h.asid = k.asid ∧ h.ptroot = k.ptroot ∧ h.wcount = 0 ∧ h.vec = {} ∧ h.window = [] ∧
          h.rspbase = Record.rspb l.record + BitVec.ofNat 64 (Record.rspstep l.record * (4 * k.n + j)) ∧
          ∀ r : SReg, h.getS s.freeCount r =
            if r = 0 then 0 else if r.toNat ≤ 6 then k.x.getD (r.toNat - 1) 0
            else if r = 7 then BitVec.ofNat 64 k.n else if r = 8 then k.record else 0) ∧
      (∀ j, k.gang ≤ j → j < 4 → t.hart (4 * core + j) = {}) ∧
      (∀ j, j / 4 ≠ core → t.hart j = s.hart j))

/-- COMMIT_COMPLETE performs a task's commit, each element of an output slot going from its place in the scratchpad to its place in
the slot's tile, and releases its core (R340), or ends it faulted where the commit faults (R342).
LAUNCH_COMPLETION, once nothing of a launch runs or is to run, writes the cursor of a drained one, gives up its leases and
cores, and writes its status word (R343, R345). -/
def Obligations.TaskEnds : Prop :=
  (∀ (s s1 : State) (core : Nat) (k : Task) (l : Launch), (s.core core).task = some k → k.phase = .commit →
    s.launch k.launch = some l → SlotsFormed l → committed s core k l = (s1, none) → s1.launches = s.launches →
    (s1.core core).task.map Task.launch = some k.launch → traceOpt s1 l.queue 2 = false →
    ∃ t, exec (.commitComplete core) s = .next t ∧ t.mem = s1.mem ∧ t.hostMem = s1.hostMem ∧ t.peerMem = s1.peerMem ∧
      Released t core ∧ t.launch k.launch = some { l with ntask := l.ntask + 1 }) ∧
  (∀ (s s1 : State) (core : Nat) (k k1 : Task) (l : Launch) (f : AccFault), (s.core core).task = some k →
    k.phase = .commit → s.launch k.launch = some l → SlotsFormed l → committed s core k l = (s1, some f) →
    s1.launches = s.launches →
    (s1.core core).task = some k1 → k1.launch = k.launch →
    ∃ t, exec (.commitComplete core) s = .next t ∧ Released t core ∧
      (t.hart (4 * core)).tcause = BitVec.ofNat 64 (f.kind * 256 + f.cause.code) ∧ (t.hart (4 * core)).tval = f.val ∧
      t.launch k.launch = some { l with failure := some (l.failure.getD f.cause.code), walkDone := true }) ∧
  (∀ (s s1 s2 : State) (id : Nat) (l : Launch), s.launch id = some l → launchQuiet s id l = true →
    let code := endCode l
    let stop := l.stop.getD (l.next, [])
    (if code.1 = 2 then writeRun s (s.whoQueue l.asid) l.area 8 8 (leBytes 8 l.addr.toNat ++ leBytes 8 stop.1 ++
      (List.range 6).flatMap fun j => leBytes 8 (stop.2.getD j 0).toNat) = (s1, none) else s1 = s) →
    (if Record.lstat l.record = 0 then s2 = givenUp s1 id
      else writeRun (givenUp s1 id) (s.whoQueue l.asid) (Record.lstat l.record) 8 1
        (leBytes 8 (2 ^ 16 * (l.ntask % 2 ^ 32) + 256 * code.2 + code.1)) = (s2, none)) →
    ∃ t, exec (.launchCompletion id) s = .next t ∧ t.launch id = none ∧ SameMemory s2 t ∧ t.harts = s.harts ∧
      (∀ c, c < 128 → (t.core c).reserved ≠ some id) ∧ (∀ r ∈ t.leasexs, r.launch ≠ id))

/-- A cut (R263, R291, R326, R344): HART_CUT_STOP stops a hart at its boundary; CUT_STAGE_TWO, once every member has
stopped, keeps an MTILE that has not begun, stops one that has with its place in RS, and lets one with NOCUT end;
IMAGE_WRITE_COMPLETE writes the image and releases the core, or lets the task run on where the area is full (when that is
found is log entry 47's) or where what it would hold cannot be read (R344, R383, log entry 98). -/
def Sys2Proof.Claim.Cuts : Prop :=
  (∀ (s : State) (core slot : Nat),
    let k := 4 * core + slot
    let h := s.hart k
    h.status = .running → h.seq.arriving = true → h.window = [] → h.recorded = none → heldAtBoundary s k = true →
    ∃ t, exec (.hartCutStop core slot) s = .next t ∧ HartBecomes s t k { h with status := .cut, wait := none }) ∧
  (∀ (s : State) (core : Nat) (k : Task), (s.core core).task = some k → k.phase = .cutting →
    (∀ j, j < k.gang → (s.hart (4 * core + j)).status = .cut ∨ (s.hart (4 * core + j)).status = .finished) →
    ((s.core core).morder = [] → ∃ t, exec (.cutStageTwo core) s = .next t ∧
      CoreBecomes s t core { s.core core with task := some { k with phase := .imaging } }) ∧
    (∀ n x a, (s.core core).morder = [n] → (s.core core).slot n = some x → x.key = n → mtileArgs x.instr = some a → x.eng = 0 →
      (x.stage = .desc → ∃ t, exec (.cutStageTwo core) s = .next t ∧
        CoreBecomes s t core ({ s.core core with task := some { k with phase := .imaging } }.setSlot n
          (some { x with stage := .kept }))) ∧
      (x.stage = .kstep → x.begun = true → a.nocut = false → ∃ t, exec (.cutStageTwo core) s = .next t ∧
        t.stops = s.stops ++ [(core, x.quarters)] ∧ (t.core core).slot n = some { x with stage := .stopping none, cut := true } ∧
        ((t.core core).tile a.acc.toNat) = { (s.core core).tile a.acc.toNat with
          rstep := x.pos, rk := x.vc.toNat, rmode := rmodeOf (mtileMode x.instr) a, rfmt := x.fmt &&& 0xFFF0FF00 }) ∧
      (x.stage = .kstep → x.begun = true → a.nocut = true → ∃ t, exec (.cutStageTwo core) s = .next t ∧
        CoreBecomes s t core { s.core core with task := some { k with phase := .imaging } }))) ∧
  (∀ (s s1 : State) (core : Nat) (k : Task) (l : Launch), (s.core core).task = some k → s.launch k.launch = some l →
    k.phase = .imaging → cutQuiet s core = true → lowestCut s k = true →
    let bs := contextImage s core k (Record.temp l.record)
    let off := (l.used + 63) / 64 * 64
    let a := l.area + BitVec.ofNat 64 off
    (off + bs.length ≤ Record.imglen l.record → imageBad s core k = false → writeRun s (s.whoQueue l.asid) a 8 (bs.length / 8) bs = (s1, none) →
      s1.launches = s.launches →
      ∃ t y, exec (.imageWriteComplete core) s = .next t ∧ t.mem = s1.mem ∧ t.hostMem = s1.hostMem ∧ Released t core ∧
        t.launch k.launch = some y ∧ y.used = off + bs.length ∧
        (∃ i ∈ y.waiting, i.n = k.n ∧ i.x = k.x ∧ i.image = some a)) ∧
    (Record.imglen l.record < off + bs.length →
      ∃ t, exec (.imageWriteComplete core) s = .next t ∧ t.mem = s.mem ∧ t.launches = s.launches ∧
        (t.core core).task = some { k with phase := .running } ∧
        ∀ j, j < k.gang → (s.hart (4 * core + j)).status = .cut → (t.hart (4 * core + j)).status = .running) ∧
    (off + bs.length ≤ Record.imglen l.record → imageBad s core k = true →
      ∃ t, exec (.imageWriteComplete core) s = .next t ∧ t.launches = s.launches ∧
        (t.core core).task = some { k with phase := .running }))

/-- CONTEXT_RESTORE (R346): a cut task whose image is whole is given a core that fits it, its inputs are staged, and its
harts run on with the registers, the places and the counts of their records; one whose image cannot be used fails its
launch. -/
def Sys2Proof.Claim.Restores : Prop :=
  (∀ (s s1 s2 s3 : State) (id core : Nat) (l : Launch) (it : Iteration) (a : Word) (hd bs : List Byte) (k : Task),
    s.launch id = some l → l.candidate = some it → it.image = some a → imageHead s l it a = .ok (s1, hd) →
    readRun s1 (s1.whoQueue l.asid) a 8 (leAt hd 4 4 / 8) = .ok (s2, bs) → core < 128 →
    restoreFits s2 id l it hd core = true → myTurn s2 id l = true →
    (Record.heat l.record = 2 → hotChoice s2 (restoreFits s2 id l it hd) = some core) → lowerStarted s2 id l it.n = true →
    ((readyCore (takeIteration s2 id l it) id l it core (headGrants bs)).core core).task = some k →
    SlotsFormed l → staged (readyCore (takeIteration s2 id l it) id l it core (headGrants bs)) core k l = (s3, none) → k.gang ≤ 4 →
    k.launch = id ∧ k.n = it.n ∧
    ∃ t, exec (.contextRestore id core) s = .next t ∧ (t.core core).task = some { k with
        phase := .running, bars := (s3.core core).bars, temporal := (s3.core core).temporal, came := [] } ∧
      (t.core core).grant = { vtype := BitVec.ofNat 32 (leAt bs (256 + 28) 1), vl := leAt bs (256 + 24) 4 } ∧
      ∀ j, j < k.gang →
        let h := t.hart (4 * core + j)
        let o := recordAt bs j
        h.status = (if leAt bs (o + 29) 1 = 1 then .finished else .running) ∧ h.seq.pc = w64At bs (o + 8) ∧
          h.wcount = w64At bs (o + 16) ∧ h.vflags = BitVec.ofNat 32 (leAt bs (o + 32) 4) ∧ h.rspbase = w64At bs (o + 352) ∧
          (∀ r : SReg, h.getS s.freeCount r = if r = 0 then 0 else w64At bs (o + 64 + 8 * r.toNat)) ∧
          (∀ m, 1 ≤ m → m < 8 → Table.get 0 h.vec.m m = BitVec.ofNat 2048 (leAt bs (o + 656 + 256 * (m - 1)) 256))) ∧
  (∀ (s s1 : State) (id core : Nat) (l : Launch) (it : Iteration) (a : Word) (f : AccFault), s.launch id = some l →
    l.candidate = some it → it.image = some a → imageHead s l it a = .error (s1, f) →
    ∃ t y, exec (.contextRestore id core) s = .next t ∧ t.mem = (s1.keepWalks (s1.whoQueue l.asid) f).mem ∧ t.launch id = some y ∧
      y.failure = some (l.failure.getD f.cause.code) ∧ y.walkDone = true ∧ (∀ i ∈ y.waiting, i.n ≠ it.n))

/-- A cut of a task, and its restoration from its image. -/
def Obligations.CutsAndRestores : Prop := Claim.Cuts ∧ Claim.Restores

/-! ## Power, energy, heat and the host's windows -/

namespace Sys2Proof.Claim

/-- Island `i` of a core has become `x`; its other islands, what else it holds but for its counters, the other cores and
everything else are as they were. -/
def IslandBecomes (s t : State) (core i : Nat) (x : Island) : Prop :=
  (t.core core).island i = x ∧ (∀ j, j ≠ i → (t.core core).island j = (s.core core).island j) ∧
    { t.core core with islands := (s.core core).islands, counters := (s.core core).counters } = s.core core ∧
    (∀ c, c ≠ core → t.core c = s.core c) ∧ { t with cores := s.cores } = s

/-- An event has been put into the event ring, with its vector raised; it is dropped and counted while the ring is full or
disabled (R387, R388). Nothing else has changed. -/
def EventPosted (s t : State) (kind : Nat) (corr : BitVec 32) (b16 b24 : Nat) : Prop :=
  if s.erbase = 0 ∨ 2 ^ s.ersize ≤ (s.erhead - s.ertail).toNat then t = { s with erdropped := s.erdropped + 1 }
  else
    t.erhead = s.erhead + 1 ∧ t.erdropped = 0 ∧ t.msix = s.msix ++ [0] ∧
      HostWritten s t (s.erbase.toNat + 32 * (s.erhead.toNat % 2 ^ s.ersize))
        (leBytes 1 kind ++ leBytes 1 (min s.erdropped 255) ++ [0, 0] ++ leBytes 4 corr.toNat ++ leBytes 8 s.refcnt ++
          leBytes 8 b16 ++ leBytes 8 b24) ∧
      { t with erhead := s.erhead, erdropped := s.erdropped, msix := s.msix, hostMem := s.hostMem } = s

/-- The lanes of an island are held from `now` on for `n` reference periods more, which follow on those for which they have been held. -/
def heldFor (now n : Nat) (x : Island) : Island :=
  { x with since := if now ≤ x.until_ then x.since else now, until_ := max x.until_ (now + n) }

/-- A hold that begins now and lasts `n` reference periods leaves the lanes of an island held for no more than 2^10 together (R307). -/
def Bounded (now n : Nat) (x : Island) : Prop := now + n ≤ (if now ≤ x.until_ then x.since else now) + 1024

/-- What a sample makes of an island (R299), one in each reference period: an island that changes its mode pauses, and its
counts begin anew; it changes none while it pauses. -/
def Sampled (enabled : Bool) (now : Nat) (x : Island) (p : IslandSample) (y : Island) : Prop :=
  let starved := if p.starved then min 16 (x.starved + 1) else 0
  let held := if p.held then min 2 (x.held + 1) else 0
  let stays := { x with starved := starved, held := held, sampled := some now }
  let change := if x.near then held = 2 ∨ enabled = false ∨ p.rendezvous = true else enabled = true ∧ starved = 16
  let may := (∀ a, x.pause = some a → a + 1 ≤ now) ∧ Bounded now 1 x ∧ change
  (x.sampled = some now → y = x) ∧
    (x.sampled ≠ some now → may → y = { heldFor now 1 stays with near := !x.near, pause := some now, starved := 0, held := 0 }) ∧
    (x.sampled ≠ some now → ¬may → y = stays)

/-- An answer to a droop as its time limits leave it (R300): 4 reference periods of injection, 100 of a stretched clock. -/
def afterLimits (now : Nat) (x : Island) : Island :=
  { x with inject := if x.inject.any (fun a => now < a + 4) then x.inject else none,
           stretch := if x.stretch.any (fun a => now < a + 100) then x.stretch else none }

end Sys2Proof.Claim

/-- The islands (R299, R300): a sample moves an island to the near-threshold clock after sixteen starved samples where PWRCTL
enables it, and back, with a pause of one reference period; a droop is met by one injection in sixteen windows of 1 µs where
that is enabled, and otherwise by a stretched clock, each of which ends when the supply recovers or its time is up (how the
samples, and the reference periods of a pause, a window and a limit, are counted is the model's choice, log entry 26). A hold that
would pass the bound of R307 does not begin. -/
def Sys2Proof.Claim.Islands : Prop :=
  ∀ (s : State) (core i : Nat),
    let x := (s.core core).island i
    let ctl := s.pwrctlOf (postOf core)
    (∀ p, ∃ t y, exec (.islandSample core i p) s = .next t ∧ IslandBecomes s t core i y ∧ Sampled (ctl.getLsbD 7) s.clock x p y) ∧
    (∃ t, exec (.islandTransitionEnd core i) s = .next t ∧ IslandBecomes s t core i
      { x with pause := if x.pause.any (fun a => s.clock < a + 1) then x.pause else none }) ∧
    (let y := afterLimits s.clock x
     y.inject = none → y.stretch = none → ∃ t, exec (.droop core i) s = .next t ∧ IslandBecomes s t core i
      (if ctl.getLsbD 6 = true ∧ 16 ≤ y.duty + (s.clock / 100 - y.window)
        then { y with inject := some s.clock, duty := 0, window := s.clock / 100 }
        else if s.clock + 100 ≤ (if s.clock ≤ y.until_ then y.since else s.clock) + 1024
        then { heldFor s.clock 100 y with stretch := some s.clock } else x)) ∧
    (∃ t, exec (.supplyRecovered core i) s = .next t ∧ IslandBecomes s t core i
      { x with inject := none, stretch := none, until_ := if x.stretch.isSome then min x.until_ (s.clock + 1) else x.until_ }) ∧
    (∃ t, exec (.droopTimeLimit core i) s = .next t ∧ IslandBecomes s t core i (afterLimits s.clock x)) ∧
    (∃ t, exec (.dutyWindowEnd core i) s = .next t ∧ IslandBecomes s t core i
      (if x.duty < 16 ∧ x.window < s.clock / 100 then { x with duty := x.duty + 1, window := x.window + 1 } else x))

/-- The controls (R298, R301, R355): the caps of a post's lanes, once in each reference period, halve towards LSFLOOR, and never rise, above its budget and
rise by 4, to 64 at most, below it; PWRCTL and the ramp table wait for the post's step boundary; HEATCTL takes its fields
that are in range, and its colour turns every ROTP. -/
def Sys2Proof.Claim.PowerControls : Prop :=
  (∀ (s : State) (post : Nat) (above : Bool), Table.get 0 s.capTimes post ≠ s.clock + 1 →
    ∃ t, exec (.requestCapUpdate post above) s = .next t ∧ { t with cores := s.cores, capTimes := s.capTimes } = s ∧
    exec (.requestCapUpdate post above) t = .next t ∧ (∀ c, postOf c ≠ post → t.core c = s.core c) ∧
    ∀ c, postOf c = post → { t.core c with caps := (s.core c).caps } = s.core c ∧ ∀ l, l < 16 →
      Table.get 64 (t.core c).caps l =
        let cap := Table.get 64 (s.core c).caps l
        if above then max 1 (min cap (max (cap / 2) ((s.pwrctlOf post).extractLsb' 8 8).toNat)) else min 64 (cap + 4)) ∧
  (∀ (s : State) (post n : Nat) (v : Word) (r : BitVec 32),
    exec (.pwrctlWrite post v) s = .next { s with pwrWrites := s.pwrWrites ++ [(post, v)] } ∧
    exec (.rampWrite post n r) s = .next { s with rampWrites := s.rampWrites ++ [(16 * post + n, r)] }) ∧
  (∀ (s : State) (v : Word), ∃ t, exec (.heatctlWrite v) s = .next t ∧
    { t with heatctl := s.heatctl, rotStart := s.rotStart } = s ∧ t.rotStart = s.clock ∧
    t.heatctl.getLsbD 0 = v.getLsbD 0 ∧ t.heatctl.extractLsb' 8 24 = v.extractLsb' 8 24 ∧ t.heatctl.extractLsb' 1 7 = 0 ∧
    (∀ k, k = 32 ∨ k = 40 → (v.extractLsb' k 8).toNat ≤ 64 → t.heatctl.extractLsb' k 8 = v.extractLsb' k 8) ∧
    (∀ k, k = 32 ∨ k = 40 → 64 < (v.extractLsb' k 8).toNat →
      t.heatctl.extractLsb' k 8 = s.heatctl.extractLsb' k 8)) ∧
  (∀ (s : State),
    let rotp := (s.heatctl.extractLsb' 8 24).toNat
    rotp ≠ 0 → s.rotStart + rotp ≤ s.clock →
    exec .colourRotation s = .next { s with heatctl := s.heatctl ^^^ 1, rotStart := s.rotStart + rotp })

/-- Energy (R303, R304): ECOUNT takes what has been used; once it has reached a quota that is not zero the context stops, and
each launch of it that can be is pre-empted by its policy. A grant charges the overdraft, and lets the context and the
launches that the quota suspended go on. HANG_REPORT reports a hung hart, which goes on (R306; the
fields of its event are the model's choice, log entry 51). -/
def Sys2Proof.Claim.EnergyAndHangs : Prop :=
  (∀ (s : State) (asid : BitVec 16) (used : Word),
    let x := s.context asid
    let y := { x with ecount := x.ecount + used }
    ((x.stopped = true ∨ x.equota = 0 ∨ (x.ecount + used).toNat < x.equota.toNat) →
      ∃ t, exec (.ecountUpdate asid used) s = .next t ∧ t.context asid = y ∧ { t with contexts := s.contexts } = s ∧
        ∀ a, a ≠ asid → t.context a = s.context a) ∧
    (x.stopped = false → x.equota ≠ 0 → x.equota.toNat ≤ (x.ecount + used).toNat →
      ∃ t, exec (.ecountUpdate asid used) s = .next t ∧ t.context asid = { y with stopped := true } ∧ t.mem = s.mem ∧
        ∀ id l, s.launch id = some l → l.asid = asid → Preemptible l →
          ∃ z, t.launch id = some z ∧ (z.phase = .suspended ∨ z.phase = .draining) ∧ (z.energy = true ↔ z.phase = .suspended))) ∧
  (∀ (s : State) (asid : BitVec 16) (quota : Word),
    let x := s.context asid
    let excess := x.ecount.toNat - x.equota.toNat
    x.stopped = true →
    (quota ≠ 0 → quota.toNat ≤ excess → ∃ t, exec (.quotaGrant asid quota) s = .next t ∧
      t.context asid = { x with equota := quota, ecount := BitVec.ofNat 64 excess } ∧ { t with contexts := s.contexts } = s) ∧
    ((quota = 0 ∨ excess < quota.toNat) → ∃ t, exec (.quotaGrant asid quota) s = .next t ∧
      t.context asid = { x with equota := quota, ecount := BitVec.ofNat 64 excess, stopped := false } ∧
      { t with contexts := s.contexts, launches := s.launches } = s ∧
      ∀ id l, s.launch id = some l → l.asid = asid → l.energy = true → l.phase = .suspended →
        ∃ z, t.launch id = some z ∧ z.phase = (if l.resolved then .walking else .leases) ∧ z.energy = false)) ∧
  (∀ (s : State) (core slot : Nat),
    let h := s.hart (4 * core + slot)
    hung s core slot = true → s.debugLevel = 0 →
    ∃ t, exec (.hangReport core slot) s = .next t ∧
      EventPosted (s.setHart (4 * core + slot) { h with lastRetire := s.clock }) t 1 h.corr (4 * core + slot) h.taskid.toNat)

/-- Power states (R308): a request waits; D0-idle is entered at once, D1 and D2 once no task runs and no walker is active,
and the cores' barriers, terms and engines are then lost, in D2 their pools too; D3 loses everything, and a wake from it
is a full bring-up (what both keep is the model's choice, log entry 27). -/
def Sys2Proof.Claim.PowerStates : Prop :=
  (∀ (s : State),
    exec .pstateD0Idle s = .next { s with pstateReq := if s.pstate = 1 then none else some 1 } ∧
    exec .pstateD1 s = .next { s with pstateReq := if s.pstate = 2 then none else some 2 } ∧
    exec .pstateD2 s = .next { s with pstateReq := if s.pstate = 3 then none else some 3 } ∧
    exec .pstateD3 s = .next { s with pstateReq := if s.pstate = 4 then none else some 4 } ∧
    (s.pstate < 4 → exec .pstateD0 s = .next { s with pstateReq := if s.pstate = 0 then none else some 0 }) ∧
    (s.pstate = 4 → ∃ t, exec .pstateD0 s = .next t ∧ t.pstate = 0 ∧ t.rstBusy = true ∧ t.rstPending = some (4, 0) ∧
      t.harts = [] ∧ t.mem = [] ∧ t.queues = [] ∧ t.launches = [] ∧ t.hostMem = s.hostMem ∧ t.refcnt = s.refcnt)) ∧
  (∀ (s : State) (k : Nat), s.pstateReq = some k → s.pstate < 4 →
    (k = 1 → exec .powerStateEntry s = .next { s with pstate := 1, pstateReq := none }) ∧
    (2 ≤ k → k < 4 → s.atRest = true → ∃ t, exec .powerStateEntry s = .next t ∧ t.pstate = k ∧ t.pstateReq = none ∧
      { t with cores := s.cores, lines := s.lines, pstate := s.pstate, pstateReq := s.pstateReq } = s ∧
      (s.pstate < 2 → t.lines = [] ∧ ∀ e ∈ t.cores, e.2.bars = [] ∧ e.2.truss = [] ∧ e.2.pending = [] ∧ e.2.slots = [] ∧
        e.2.temporal = {}) ∧
      (k = 3 → s.pstate < 3 → ∀ e ∈ t.cores, e.2.pool = [] ∧ e.2.valid = [] ∧ e.2.tiles = [])) ∧
    (k = 4 → s.atRest = true → ∃ t, exec .powerStateEntry s = .next t ∧ t.pstate = 4 ∧ t.harts = [] ∧ t.mem = [] ∧
      t.queues = [] ∧ t.refcnt = s.refcnt ∧ t.rstPending = none)) ∧
  (∀ (s : State), s.pstateReq = some 0 → s.pstate < 4 →
    exec .wakeToD0Complete s = .next { s with pstate := 0, pstateReq := none })

/-- The host's windows (R328, R386, R388, R389, R403): a write of QTAIL, FRTAIL or ERTAIL that would overfill its ring is
ignored; QBASE and QCFG take their fields; a read or a write of device memory in BAR 4 is performed at its home, but a
sealed page answers an abort and keeps its contents, and an uncorrectable word read is logged. -/
def Sys2Proof.Claim.HostWindows : Prop :=
  (∀ (s : State) (q : Nat) (v : BitVec 32) (w : Word), ¬(s.rstBusy = true ∧ s.rstPending.map Prod.fst = some 4) → q < 4096 →
    (s.queue q).en = true →
    (∃ t, exec (.qtailWrite q v) s = .next t ∧ t.mem = s.mem ∧ (t.queue q).tail =
      if (v - (s.queue q).head).toNat ≤ 2 ^ (s.queue q).log2sz then v else (s.queue q).tail) ∧
    (∃ t, exec (.registerWrite true (64 * q) w) s = .next t ∧ t.mem = s.mem ∧
      (t.queue q).base = w &&& 0xFFFFFFFFFFFFFFC0 ∧ (t.queue q).tail = (s.queue q).tail) ∧
    (w.getLsbD 63 = true → ∃ t, exec (.registerWrite true (64 * q + 8) w) s = .next t ∧ t.mem = s.mem ∧
      (t.queue q).en = true ∧ (t.queue q).asid = w.extractLsb' 24 16 ∧ (t.queue q).weight = w.extractLsb' 16 8 ∧
      (t.queue q).prio = (w.extractLsb' 8 3).toNat ∧ (t.queue q).log2sz =
        let n := (w.extractLsb' 0 5).toNat
        if 4 ≤ n ∧ n ≤ 16 then n else (s.queue q).log2sz)) ∧
  (∀ (s : State) (v : BitVec 32),
    exec (.frtailWrite v) s = .next (if (s.frhead - v).toNat ≤ 2 ^ s.frsize then { s with frtail := v } else s) ∧
    exec (.ertailWrite v) s = .next (if (s.erhead - v).toNat ≤ 2 ^ s.ersize then { s with ertail := v } else s)) ∧
  (∀ (s : State) (v : Word),
    exec (.registerWrite false 0x100 v) s = .next { s with agep := v.extractLsb' 0 32 } ∧
    (s.frhead = s.frtail → exec (.registerWrite false 0x2100 v) s = .next { s with frbase := v &&& 0xFFFFFFFFFFFFF000 }) ∧
    (s.erhead = s.ertail → exec (.registerWrite false 0x3000 v) s = .next { s with erbase := v &&& 0xFFFFFFFFFFFFF000 }) ∧
    exec (.registerWrite false 0x200 v) s = exec (.heatctlWrite v) s ∧
    exec (.registerWrite false 0x3018 v) s = exec (.ertailWrite (v.extractLsb' 0 32)) s) ∧
  (∀ (s : State) (a n : Nat), n ≠ 0 → ∃ t, exec (.memoryWindowRead a n) s = .next t ∧
    (2 ^ s.bar4 < a + n → t = s) ∧
    (a + n ≤ 2 ^ s.bar4 → s.heldUp a n = false → { t with windowReads := s.windowReads } = s.loggedAs t ∧ (s.poisoned a n = false → s.loggedAs t = s) ∧
      t.windowReads = s.windowReads ++ [if s.liveCap < a + n ∨ sealedRange s a n = true then .abort
        else if s.poisoned a n then .poisoned else .data (Memory.loadBytes s.mem a n)])) ∧
  (∀ (s : State) (a : Nat) (bs : List Byte), bs ≠ [] → a % 8 + bs.length ≤ 8 →
    ∃ t, exec (.memoryWindowWrite a bs) s = .next t ∧
      (sealedRange s a bs.length = true → t = s) ∧ (s.liveCap < a + bs.length → t = s) ∧ (2 ^ s.bar4 < a + bs.length → t = s) ∧
      (sealedRange s a bs.length = false → a + bs.length ≤ s.liveCap → a + bs.length ≤ 2 ^ s.bar4 → s.markCode a = false →
        s.poisoned a bs.length = false → s.heldUp a bs.length = false →
        (∀ k, k < bs.length → Memory.byte t.mem (a + k) = bs.getD k 0) ∧
        (∀ b, (b < a ∨ a + bs.length ≤ b) → Memory.byte t.mem b = Memory.byte s.mem b)))

/-- The islands, and the controls of power and heat. -/
def Obligations.PowerControls : Prop := Claim.Islands ∧ Claim.PowerControls

/-- Energy quotas, hung harts and power states. -/
def Obligations.EnergyAndPower : Prop := Claim.EnergyAndHangs ∧ Claim.PowerStates

/-! ## Resets, the stacks, remapping, checkpoints, peers and trust -/

namespace Sys2Proof.Claim

/-- A counter of a stack has gone up by one, and every other is as it was. -/
def Counted (s t : State) (stack k : Nat) : Prop :=
  Table.get 0 t.counters (8 * stack + k) = Table.get 0 s.counters (8 * stack + k) + 1

end Sys2Proof.Claim

/-- A reset is discarded while another is in progress; otherwise it is BUSY until RESET_COMPLETE, which posts its event
(R394, R396). CORE ends the core's task and leaves its barriers, terms, slots and temporal array at reset; POST does so for every
core of the post, and empties its L2; CONTEXT ends the context's launches and disables its queues; MODULE leaves nothing of the
module but what lies outside it, its time and its lane maps (log entry 27). A task that CORE ends is recorded with MCHK, and its launch
fails with it; a launch that CONTEXT ends completes FAULTED with cause 0 (R394). A context's policy ends with it, which wipes every
sealed page and clears its bit (R401, R402, log entry 52). -/
def Obligations.Resets : Prop :=
  (∀ (s : State) (i : Instr), s.rstBusy = true →
    ((∃ c, i = .resetCore c) ∨ (∃ p, i = .resetPost p) ∨ (∃ a, i = .resetContext a) ∨ i = .resetModule) → exec i s = .next s) ∧
  (∀ (s : State) (core : Nat), s.rstBusy = false → ∃ t, exec (.resetCore core) s = .next t ∧ t.rstBusy = true ∧
    t.rstPending = some (1, core) ∧ (t.core core).task = none ∧ (t.core core).bars = [] ∧ (t.core core).truss = [] ∧
    (t.core core).pending = [] ∧ (t.core core).slots = [] ∧ (t.core core).temporal = {} ∧ (t.core core).lent = [0, 0, 0, 0] ∧
    ∀ k l, (s.core core).task = some k → s.launch k.launch = some l → k.phase ≠ .commit → k.canAbort = false →
      (t.hart (4 * core)).tcause = 12 ∧
        ∃ y, t.launch k.launch = some y ∧ y.failure = some (l.failure.getD 12) ∧ y.walkDone = true) ∧
  (∀ (s : State) (post : Nat), s.rstBusy = false → ∃ t, exec (.resetPost post) s = .next t ∧ t.rstBusy = true ∧
    t.rstPending = some (2, post) ∧ (∀ l ∈ t.lines, l.post ≠ post) ∧
    ∀ c, postOf c = post → (t.core c).task = none ∧ (t.core c).bars = [] ∧ (t.core c).truss = [] ∧ (t.core c).pending = [] ∧
      (t.core c).slots = [] ∧ (t.core c).temporal = {}) ∧
  (∀ (s : State) (asid : BitVec 16), s.rstBusy = false → ∃ t, exec (.resetContext asid) s = .next t ∧ t.rstBusy = true ∧
    t.rstPending = some (3, asid.toNat) ∧ (∀ p ∈ t.policies, p.asid ≠ asid) ∧ (∀ r ∈ t.stamps, r.asid ≠ asid) ∧
    (∀ r ∈ t.leasexs, r.asid ≠ asid) ∧ (s.sealedCtx asid = true → t.sealed = []) ∧
    (∀ q, (s.queue q).asid = asid → (t.queue q).en = false ∧ (t.queue q).head = (t.queue q).tail) ∧
    ∀ id l, s.launch id = some l → l.asid = asid → t.launch id = none) ∧
  (∀ (s s1 : State) (asid : BitVec 16) (id : Nat) (l : Launch), s.rstBusy = false → s.launch id = some l →
    (s.inFlight.filter fun e => e.2.asid = asid) = [(id, l)] → s.coresOf id = [] → s.sealedCtx asid = false →
    (∀ q, (s.queue q).asid = asid → (s.queue q).trace = none) → Record.lstat l.record ≠ 0 →
    writeRun (givenUp s id) (s.whoQueue l.asid) (Record.lstat l.record) 8 1
      (leBytes 8 (2 ^ 16 * (l.ntask % 2 ^ 32) + 7)) = (s1, none) →
    ∃ t, exec (.resetContext asid) s = .next t ∧ t.mem = s1.mem ∧ t.hostMem = s1.hostMem) ∧
  (∀ (s : State), s.rstBusy = false → ∃ t, exec .resetModule s = .next t ∧ t.rstBusy = true ∧ t.rstPending = some (4, 0) ∧
    t.harts = [] ∧ t.mem = [] ∧ t.queues = [] ∧ t.launches = [] ∧ t.policies = [] ∧ t.sealed = [] ∧ t.debugLevel = 0 ∧
    t.refcnt = s.refcnt ∧ t.laneMaps = s.laneMaps ∧ ∀ e ∈ t.cores, e.2 = { lacks := e.2.lacks, live := e.2.live, regmax := e.2.regmax }) ∧
  (∀ (s : State) (scope target : Nat), s.rstPending = some (scope, target) → (scope = 4 → s.firmwareOk = true) →
    ∃ t, exec .resetComplete s = .next t ∧
      EventPosted { s with rstBusy := false, rstScope := scope, rstPending := none } t 6 0 scope target)

/-- The stacks' arrays and buses (R364, R367, R368, R371 to R373): a single-bit error is counted and logged and the word
stays good, and another makes the word poisoned; a burst that mismatches is transferred again, up to four times, and the
lane that a walk finds failing alone takes a spare; a burst that has failed stays so until a clean transfer (log entry
29). What is not installed or not live has no errors; where a word or a burst lies is fixed between remapping steps, and not
architectural (R377, log entry 76). -/
def Sys2Proof.Claim.StackErrors : Prop :=
  (∀ (s : State) (e : ArrayError) (i : Instr), (i = .hbmArrayRead e ∨ i = .scrub e) →
    let stack := (s.wordPlace (e.paddr / 64 * 8 + e.word % 8) e.corr).stack
    (s.liveCap ≤ e.paddr → exec i s = .next s) ∧ (e.paddr < s.liveCap →
    ∃ t, exec i s = .next t ∧ Counted s t stack 5 ∧ t.mem = s.mem ∧ t.harts = s.harts ∧ t.cores = s.cores ∧
      (∀ b, e.bit = some b → Counted s t stack 0 ∧ t.poison = s.poison) ∧
      (e.bit = none → Counted s t stack 1 ∧ Table.get false t.poison (e.paddr / 64 * 8 + e.word % 8) = true) ∧
      (let at_ := 1024 * stack + 4 * ((Table.get 0 s.counters (8 * stack + 5)).toNat % 256)
       Table.get 0 t.arrayLog at_ = BitVec.ofNat 64 (e.paddr / 64 * 64) ∧
       Table.get 0 t.arrayLog (at_ + 3) = BitVec.ofNat 64 ((if e.writeFirst = false ∧ e.bit ≠ none then 1 else 0) +
         (if i = .scrub e then 0 else e.corr.toNat) * 2 ^ 32)))) ∧
  (∀ (s : State) (x : BusTransfer), s.bursts.find? (fun b => b.same x) = none → x.paddr < s.liveCap →
    (x.groups = [] → ∃ t, exec (.vbusTransfer x) s = .next t ∧ t.bursts = s.bursts ∧
      Table.get false t.badBursts (x.paddr / 64) = false) ∧
    (x.groups ≠ [] → ∃ t b, exec (.vbusTransfer x) s = .next t ∧ t.bursts = s.bursts ++ [b] ∧ b.paddr = x.paddr ∧ b.tries = 1 ∧
      b.walk = none ∧ { t with bursts := s.bursts } = s)) ∧
  (∀ (s : State) (x : BusTransfer) (b : Burst), s.bursts.find? (fun b => b.same x) = some b → b.walk = none →
    (x.groups = [] → ∃ t, exec (.vbusTransfer x) s = .next t ∧ Counted s t b.stack 2 ∧ Counted s t b.stack 6 ∧
      (∀ y ∈ t.bursts, y.same x = false) ∧ Table.get false t.badBursts (b.paddr / 64) = false) ∧
    (x.groups ≠ [] → b.tries = 3 → ∃ t, exec (.vbusTransfer x) s = .next t ∧ Counted s t b.stack 2 ∧ Counted s t b.stack 4 ∧
      (∀ y ∈ t.bursts, y.same x = false) ∧ Table.get false t.badBursts (b.paddr / 64) = true) ∧
    (x.groups ≠ [] → b.tries < 3 → ∃ t, exec (.vbusTransfer x) s = .next t ∧ Counted s t b.stack 2 ∧
      { b with tries := b.tries + 1, walk := if b.tries = 2 then some x.groups else none } ∈ t.bursts)) ∧
  (∀ (s : State) (stack ch lane : Nat) (b : Burst) (groups failing : List Nat),
    s.bursts.find? (fun b => b.stack = stack && b.ch = ch && b.walk.isSome) = some b → b.walk = some groups →
    (failing.filter fun l => l < 64 && groups.contains (l / 16)).eraseDups = [lane] →
    let m := Table.get 0x7F7F s.laneMaps (32 * stack + ch)
    ∃ t, exec (.laneWalk stack ch failing) s = .next t ∧
      (m.extractLsb' 0 7 = 0x7F → Counted s t stack 3 ∧
        (Table.get 0x7F7F t.laneMaps (32 * stack + ch)).extractLsb' 0 7 = BitVec.ofNat 7 lane ∧
        (Table.get 0x7F7F t.laneMaps (32 * stack + ch)).extractLsb' 8 8 = m.extractLsb' 8 8) ∧
      (m.extractLsb' 0 7 ≠ 0x7F → m.extractLsb' 8 7 = 0x7F → Counted s t stack 3 ∧
        (Table.get 0x7F7F t.laneMaps (32 * stack + ch)).extractLsb' 8 7 = BitVec.ofNat 7 lane ∧
        (Table.get 0x7F7F t.laneMaps (32 * stack + ch)).extractLsb' 0 8 = m.extractLsb' 0 8) ∧
      (m.extractLsb' 0 7 ≠ 0x7F → m.extractLsb' 8 7 ≠ 0x7F →
        (∀ k, Table.get 0x7F7F t.laneMaps k = Table.get 0x7F7F s.laneMaps k) ∧ t.counters = s.counters)) ∧
  (∀ (s : State) (ratio : Nat), exec (.clockRatioChange ratio) s = .next { s with clockRatio := ratio })

/-- Remapping (R375, R379, R380): a step begins with GEN odd; once no held lease range pins a page above the new capacity it
completes with GEN even, the bank gone or back, and nothing cached of what lies above; while it waits it posts an event
each 2^20 periods, whose zero fields are the model's choice (log entry 51). -/
def Sys2Proof.Claim.Remapping : Prop :=
  (∀ (s : State) (bank : Nat) (i : Instr) (back thermal : Bool),
    (i = .remapRetire bank ∧ back = false ∧ thermal = false ∨ i = .remapReturn bank ∧ back = true ∧ thermal = false ∨
      i = .thermalRetire bank ∧ back = false ∧ thermal = true ∨ i = .thermalReturn bank ∧ back = true ∧ thermal = true) →
    (s.remap = none → s.sillStopped = false → bank < 16384 → (back = false → Table.get false s.dead bank = false) →
      (back = true → Table.get false s.therm bank = true) →
      exec i s = .next { s with remap := some (bank, back, thermal, s.clock), mapGen := s.mapGen + 1 }) ∧
    ((s.remap ≠ none ∨ 16384 ≤ bank) → exec i s = .next s)) ∧
  (∀ (s : State) (bank since : Nat) (back thermal : Bool), s.remap = some (bank, back, thermal, since) →
    (back = false → pinnedAbove s (s.liveCap - Config.bankBytes) = false) →
    ∃ t, exec .remapProceed s = .next t ∧ t.mapGen = s.mapGen + 1 ∧ t.remap = none ∧ Table.get false t.dead bank = !back ∧
      Table.get false t.therm bank = (!back && thermal) ∧ t.harts = s.harts ∧ t.cores = s.cores ∧
      (let cap := if back then s.liveCap else s.liveCap - Config.bankBytes
       (∀ a, a < cap → Memory.byte t.mem a = Memory.byte s.mem a) ∧ (∀ a, cap ≤ a → Memory.byte t.mem a = 0) ∧
         (∀ u ∈ t.units, ∀ l ∈ u.2.leaves, leafAbove cap l = false) ∧ ∀ l ∈ t.lines, leafAbove cap l.leaf = false)) ∧
  (∀ (s : State) (bank since : Nat) (thermal : Bool), s.remap = some (bank, false, thermal, since) →
    pinnedAbove s (s.liveCap - Config.bankBytes) = true → since + 2 ^ 20 ≤ s.clock →
    ∃ t, exec .remapWaitEvent s = .next t ∧
      EventPosted { s with remap := some (bank, false, thermal, since + 2 ^ 20) } t 4 0 0 0)

/-- Checkpoints (R397): one is asked for at a time; it completes in D0 while no task runs. A save to host memory writes a
header and device memory, in which a sealed page that is not stamped is zeros; a restore brings the saved bytes back where
the module's capacity holds them, and otherwise reports that it does not. The layout of the stream and the event's zero
fields are the model's choice (log entries 28 and 51). -/
def Sys2Proof.Claim.Checkpoints : Prop :=
  (∀ (s : State) (v : Word), s.sillStopped = false →
    exec (.checkpointSave v) s = .next (if s.ckpt = none then { s with ckpt := some (false, v) } else s) ∧
    exec (.checkpointRestore v) s = .next (if s.ckpt = none then { s with ckpt := some (true, v) } else s)) ∧
  (∀ (s : State) (v : Word), s.ckpt = some (false, v) → s.sillStopped = false → s.busClear = true → s.pstate = 0 → (∀ e ∈ s.cores, e.2.task = none) →
    v.getLsbD 63 = false →
    ∃ t u, exec .checkpointComplete s = .next t ∧ EventPosted u t 7 0 0 0 ∧ u.mem = s.mem ∧ u.ckpt = none ∧
      (let at_ := v.toNat / 256 * 4096
       Memory.load u.hostMem at_ 8 = s.mapGen.toNat ∧ Memory.load u.hostMem (at_ + 8) 8 = s.liveCap ∧
       (∀ a, a < s.liveCap → Memory.byte u.hostMem (at_ + 64 + a) =
         if Table.get false s.sealed (a / 4096) = true ∧ Table.get false s.stamped (a / 4096) = false then 0
         else Memory.byte s.mem a) ∧
       (∀ b, (b < at_ ∨ at_ + 64 + s.liveCap ≤ b) → Memory.byte u.hostMem b = Memory.byte s.hostMem b))) ∧
  (∀ (s : State) (v : Word), s.ckpt = some (true, v) → s.sillStopped = false → s.busClear = true → s.pstate = 0 → (∀ e ∈ s.cores, e.2.task = none) →
    v.getLsbD 63 = false →
    (let at_ := v.toNat / 256 * 4096
     let cap := Memory.load s.hostMem (at_ + 8) 8
     (s.liveCap < cap → ∃ t, exec .checkpointComplete s = .next t ∧ EventPosted { s with ckpt := none } t 7 0 1 0) ∧
     (cap ≤ s.liveCap → ∃ t, exec .checkpointComplete s = .next t ∧ t.ckpt = none ∧
       (∀ a, a < cap → Memory.byte t.mem a = Memory.byte s.hostMem (at_ + 64 + a)) ∧
       (∀ a, cap ≤ a → Memory.byte t.mem a = Memory.byte s.mem a)))) ∧
  (∀ (s : State) (v : Word) (restore : Bool), s.ckpt = some (restore, v) → s.sillStopped = false → s.busClear = true → s.pstate = 0 →
    (∀ e ∈ s.cores, e.2.task = none) → v.getLsbD 63 = true → (∀ w, w < 16 → v.getLsbD (8 + w) = false) →
    ∃ t, exec .checkpointComplete s = .next t ∧ EventPosted { s with ckpt := none } t 7 0 2 0)

/-- Peers (R5, R391 to R393): a request, an access or an element of a reduce copy, is checked and performed at its home and
answered; a port that goes down, or a peer that resets or powers down, takes down the windows that have no other way to it.
Harts are as they were where no task can abort. That a peer's request for an address of the pool window is answered with PROT is
log entry 50. -/
def Sys2Proof.Claim.Peers : Prop :=
  (∀ (s : State) (r : PeerReq), (r.kind = 1 ∨ r.kind = 2 ∨ r.kind = 3) ∧ (r.bytes = 1 ∨ r.bytes = 2 ∨ r.bytes = 4 ∨ r.bytes = 8) ∨
      r.kind = 4 ∧ (r.bytes = 2 ∨ r.bytes = 4) ∨ r.kind = 5 ∧ r.bytes = 4 →
    s.recalled (whoPeer s r) (min r.kind 3) r.addr r.bytes = false →
    (inPool r.addr = true → exec (.peerRequest r) s = .next { s with peerAnswers := s.peerAnswers ++ [(4, 0)] }) ∧
    (inPool r.addr = false → ∀ s1 p, p.isMemory = true →
      checkAccess s (whoPeer s r) (min r.kind 3) r.addr r.bytes (peerOp r) = .ok (s1, p) →
      ∃ t, exec (.peerRequest r) s = .next t ∧ t.harts = s.harts ∧
        (r.kind = 1 → SameMemory s1 t ∧ t.peerAnswers = s.peerAnswers ++ [(0, readPlace s1 p r.bytes)]) ∧
        (r.kind = 2 → StoresAt s1 t p r.bytes r.data.toNat ∧ t.peerAnswers = s.peerAnswers ++ [(0, 0)]) ∧
        (r.kind = 3 → r.op = .add → StoresAt s1 t p r.bytes (readPlace s1 p r.bytes + r.data.toNat) ∧
          t.peerAnswers = s.peerAnswers ++ [(0, readPlace s1 p r.bytes)]) ∧
        (r.kind = 4 → StoresAt s1 t p r.bytes (combine 1 (if r.bytes = 4 then 10 else 8) (readPlace s1 p r.bytes) r.data.toNat) ∧
          t.peerAnswers = s.peerAnswers ++ [(0, 0)]) ∧
        (r.kind = 5 → StoresAt s1 t p r.bytes (combine 2 11 (readPlace s1 p r.bytes) r.data.toNat) ∧
          t.peerAnswers = s.peerAnswers ++ [(0, 0)])) ∧
    (inPool r.addr = false → ∀ f,
      checkAccess s (whoPeer s r) (min r.kind 3) r.addr r.bytes (peerOp r) = .error f →
      let s1 := s.keepWalks (whoPeer s r) f
      ∃ t, exec (.peerRequest r) s = .next t ∧ { t with peerAnswers := s.peerAnswers } = s1.loggedAs t ∧
        (f.cause ≠ .mchk → s1.loggedAs t = s1) ∧ t.peerAnswers = s.peerAnswers ++ [(f.cause.code, 0)])) ∧
  (∀ (s : State) (i : Instr) (port : Nat), (i = .linkLoss port ∨ i = .portAckTimeout port) → port < 24 →
    ∃ t, exec i s = .next t ∧ t.ports.getLsbD port = false ∧ (∀ p, p ≠ port → t.ports.getLsbD p = s.ports.getLsbD p) ∧
      t.mem = s.mem ∧ ((∀ c, s.aborts c = false) → t.harts = s.harts) ∧
      ∀ k, let w := Table.get {} s.pwin k
        Table.get {} t.pwin k = if w.ports.setWidth 24 &&& t.ports = 0 then { w with up := false } else w) ∧
  (∀ (s : State) (i : Instr) (peer : Nat), (i = .peerResetSignal peer ∨ i = .peerPowerDownSignal peer) →
    ∃ t, exec i s = .next t ∧ t.mem = s.mem ∧ ((∀ c, s.aborts c = false) → t.harts = s.harts) ∧ t.ports = s.ports ∧
      ∀ k, let w := Table.get {} s.pwin k
        Table.get {} t.pwin k = if w.peer.toNat = peer then { w with up := false } else w) ∧
  (∀ (s : State) (v : Word), exec (.refcntSync v) s = .next { s with refcnt := v.toNat })

/-- Trust and debug (R400, R401, R407, R412): a policy is taken for a context that has none, runs nothing and is not under
debug level 3; a token raises the level of the module that it names, and a lowering closes or resumes what the level no
longer allows; a measurement with a nonce of 32 bytes appends its report, whose signature is a free value (log entry
13). Where bring-up has stopped because the firmware fails its checks, the sill does none of this (R399). -/
def Sys2Proof.Claim.TrustAndDebug : Prop :=
  (∀ (s : State) (p : SealPolicy),
    (p.reservedSet = false → s.sillStopped = false → s.sealedCtx p.asid = false → s.debugLevel ≠ 3 → (∀ e ∈ s.inFlight, e.2.asid ≠ p.asid) →
      exec (.sealPolicy p) s = .next { s with policies := s.policies ++ [p] }) ∧
    ((p.reservedSet = true ∨ s.sealedCtx p.asid = true ∨ s.debugLevel = 3) → exec (.sealPolicy p) s = .next s)) ∧
  (∀ (s : State) (level module : Nat) (signed : Bool), exec (.debugToken level signed module) s = .next
    (if s.sillStopped = false ∧ signed = true ∧ module = s.moduleNo.toNat ∧ (level = 2 ∨ level = 3 ∧ s.policies = [])
     then { s with debugLevel := max level s.debugLevel } else s)) ∧
  (∀ (s : State), s.sillStopped = false → exec .debugLevel1Request s = .next { s with debugLevel := max 1 s.debugLevel }) ∧
  (∀ (s : State) (level : Nat), (s.debugLevel ≤ level → exec (.debugLevelLower level) s = .next s) ∧
    (level < s.debugLevel → ∃ t, exec (.debugLevelLower level) s = .next t ∧ t.debugLevel = level ∧
      (level < 2 → ∀ k, (t.hart k).status ≠ .halted) ∧ (level = 0 → ∀ q, (t.queue q).trace = none) ∧
      (1 ≤ level → t.mem = s.mem ∧ t.queues = s.queues))) ∧
  (∀ (s : State) (nonce : List Byte), (nonce.length ≠ 32 → exec (.spdmMeasurement nonce) s = .next s) ∧
    (nonce.length = 32 → s.sillStopped = false → ∃ t r, exec (.spdmMeasurement nonce) s = .next t ∧ { t with reports := s.reports } = s ∧
    t.reports = s.reports ++ [r] ∧ r.length = (reportBody s nonce).length + 7856 ∧
    r.take (reportBody s nonce).length = reportBody s nonce)) ∧
  (∀ (s : State), (∀ q, sampleDue s q = false) → exec .seriesSample s = .next s) ∧
  (∀ (s : State) (q : Nat) (x : Trace), (s.queues.map Prod.fst).filter (sampleDue s) = [q] → (s.queue q).trace = some x →
    ∃ t, exec .seriesSample s = .next t ∧
      (t.queue q).trace = some { x with samples := x.samples + 1, latched := some s.refcnt } ∧ t.harts = s.harts)

/-- What the host and the peers do through their windows. -/
def Obligations.Outside : Prop := Claim.HostWindows ∧ Claim.Peers

/-- Errors of the stacks, remapping and checkpoints. -/
def Obligations.StackRepair : Prop := Claim.StackErrors ∧ Claim.Remapping ∧ Claim.Checkpoints

/-- Trust, debug and trace sessions. -/
def Obligations.TrustAndDebug : Prop := Claim.TrustAndDebug ∧ Claim.TraceSessions

/-! ## A step -/

namespace Sys2Proof.Claim

/-- Hart `k` may run the word at its dispatch point: its clock runs, it has no trap to take and no cut to stop at, no word that
it holds is at the retire point, its window has room, and no header stands before the word. -/
structure Dispatches (s : State) (k : Nat) : Prop where
  clock : s.pstate = 0
  status : (s.hart k).status = .running
  recorded : (s.hart k).recorded = none
  boundary : heldAtBoundary { s with focus := k } k = false
  room : (s.hart k).inWindow < 64
  held : heldWord (s.hart k) = none
  broadcast : unbroadcast (s.hart k) = false
  inside : (s.hart k).seq.arriving = false

/-- The state in which a step's turn is taken (log entry 5): one more step counted, and the turn used up. -/
def begun (s : State) (rest : List Turn) : State := { s with freeCount := s.freeCount + 1, turns := rest }

end Sys2Proof.Claim

/-- A step runs the word that the hart's program counter names: the eight bytes there, as instruction fetch reads them,
decode to `i`, and the step is exec of `i`, followed by the stops that fall due (R34, R37, R411). The bytes are those that
memory holds, but where a write of them has not been followed by FENCE and a transfer they are undefined (R40, log entry 49). Where they decode to
nothing, or to a word that ends its block and is not its last, the hart traps ILL with the word as its value. A turn that
names an event runs that event. Work that would write a line that an operand pins or a STAMP owns waits (R285, R405). A turn that
names time lets it pass, where no sample is due up to the next at which one is (R412), and for a hart in a documented wait none of it
counts (R306). Which turn comes next is the model's choice (log
entry 5). -/
def Obligations.StepRunsWord : Prop :=
  (∀ (s s1 : State) (core slot : Nat) (rest : List Turn) (w : Word),
    let k := 4 * core + slot
    let q := (s.hart k).seq
    let a := begun s rest
    let b := { a with focus := k }
    s.turns = .hart core slot :: rest → Dispatches s k → s.busClear = true → fetchAt b k q.pc = .ok (s1, w) →
    (∀ i u, decode w = .ok i →
      (i.endsBlock = true → q.pc = q.blk + BitVec.ofNat 64 (8 * q.len) ∧ (s.hart k).fencing = false) → exec i s1 = .next u →
      step s = withStops { s with freeCount := s.freeCount + 1 } (.next (if a.keepsHeld u
        then { u with queued := u.queued.filter fun e => some e.1 ≠ some (.hart core slot) } else a.idle (some (.hart core slot))))) ∧
    (((∃ e, decode w = .error e) ∨ (∃ i, decode w = .ok i ∧ i.endsBlock = true ∧ q.pc ≠ q.blk + BitVec.ofNat 64 (8 * q.len))) →
      HasHandler s1 → (s.hart k).window = [] → (∀ j, (s.queue j).trace = none) → s.held = [] →
      ∃ t, step s = .next t ∧ Trapped t { cause := .ill, kind := 0, val := w } q.pc q.blk)) ∧
  (∀ (s s1 : State) (k : Nat) (a w : Word), s.blocking = none → fetchAt s k a = .ok (s1, w) →
    ∃ s2 l x, translate s (postOf (k / 4)) (s.hart k).asid (s.hart k).ptroot a.toNat 0 (s.hart k).handler = .ok (s2, l) ∧
      s2.physRead (leafPa l a.toNat) 8 = .ok x ∧ (s2.staleAt k (leafPa l a.toNat) = false → w = BitVec.ofNat 64 x) ∧
      s1.harts = s.harts ∧ s1.cores = s.cores) ∧
  (∀ (s t : State) (i : Instr) (rest : List Turn), let b := begun s rest
    s.turns = .event i :: rest → i.hasWord = false → powered b i = true → s.busClear = true → exec i b = .next t →
    step s = withStops { s with freeCount := s.freeCount + 1 } (.next (if b.keepsHeld t
      then { t with queued := t.queued.filter fun e => some e.1 ≠ some (.event i) } else b))) ∧
  (∀ (s : State) (n : Nat) (rest : List Turn), s.turns = .time n :: rest → (∀ q, sampleDue (begun s rest) q = false) →
    let m := untilSample s n
    ∃ t, step s = .next t ∧ { t with refcnt := s.refcnt, clock := s.clock, harts := s.harts } = begun s rest ∧
      t.refcnt = s.refcnt + m ∧ t.clock = s.clock + m ∧
      ∀ k, t.hart k = if s.waitsWell k = true ∧ k ∈ s.harts.map Prod.fst then { s.hart k with lastRetire := s.clock + m } else s.hart k) ∧
  (∀ (s : State) (n : Nat), (∀ j, (s.queue j).trace = none) → untilSample s n = n ∧ ∀ q, sampleDue s q = false) ∧
  (∀ (s t : State), (∀ j, (t.queue j).trace = none) → withStops s (.next t) = .next t)

/-- Every step, from every state, answers a next state: no fault of the manual stops the machine, which runs on for ever. -/
def Obligations.EveryStepGoesOn : Prop :=
  (∀ (i : Instr) (s : State), goesOn (exec i s)) ∧ (∀ s : State, goesOn (step s)) ∧ ∀ s : State, Safe s

/-- After reset (R94, R236, R308, R328, R394 to R396): no task is on any core, no queue is enabled, the module is in D0
and its bring-up is still to complete; and the values that a register takes at reset are those the rules give: barriers
that expect one arrival, terms that are off, a queue of weight 1 and of 2^4 packets, PWRCTL and HEATCTL. That memory lists nothing
and so reads zero is the model's choice (log entry 1). -/
def Sys2Proof.Claim.ResetValues : Prop :=
  let s := State.reset
  s.rstBusy = true ∧ s.rstPending = some (4, 0) ∧ s.pstate = 0 ∧ s.debugLevel = 0 ∧ s.policies = [] ∧ s.launches = [] ∧
    (∀ c, (s.core c).task = none ∧ (s.core c).truss = [] ∧ (s.core c).slots = [] ∧
      ∀ b, (s.core c).barAt b = { expect := 1, arrived := 0, phase := false, err := false, fcode := 0, faddr := 0 }) ∧
    (∀ q, (s.queue q).en = false ∧ (s.queue q).weight = 1 ∧ (s.queue q).log2sz = 4 ∧ (s.queue q).head = (s.queue q).tail) ∧
    (∀ k, (s.hart k).status = .idle) ∧ s.mem = [] ∧ s.erbase = 0 ∧ s.frbase = 0 ∧
    (∀ p, s.pwrctlOf p = 0x1604C0) ∧ s.heatctl = 0x000040401E848000

/-- The memories of the state after reset are in their canonical form. -/
def Sys2Proof.Claim.MemoryOkAtReset : Prop := State.MemoryOk State.reset

/-- Every step, from every state whose memories are in their canonical form, leaves them in it: equal memories stay equal
data. -/
def Obligations.MemoryOkKept : Prop := ∀ s t : State, State.MemoryOk s → step s = .next t → State.MemoryOk t

/-- R36: execution that passes a block's last word stands at the fall-through address; where the word there is no header the
hart traps HDR, with TEPC and TVAL the fall-through address and TBLK the header of the block that ran out. -/
def Obligations.FallThrough : Prop :=
  (∀ q : Seq, q.pc = q.blk + BitVec.ofNat 64 (8 * q.len) →
    q.passes.pc = q.blk + BitVec.ofNat 64 (8 * (q.len + 1)) ∧ q.passes.arriving = true ∧ q.passes.blk = q.blk) ∧
  (∀ (s s1 : State) (k : Nat) (w : Word), k = s.focus → s.pstate = 0 → s.cur.status = .running → s.cur.recorded = none →
    s.cur.window = [] → s.cur.seq.arriving = true → heldAtBoundary s k = false →
    s.cur.seq.pc = s.cur.seq.blk + BitVec.ofNat 64 (8 * (s.cur.seq.len + 1)) →
    fetchAt s k s.cur.seq.pc = .ok (s1, w) → w.extractLsb' 58 6 ≠ 63 → HasHandler s1 → Untraced s1 (k / 4) 2 →
    ∃ t, runHart s k = .next t ∧ OnlyHart s1 t ∧
      Trapped t { cause := .hdr, kind := 0, val := s.cur.seq.pc } s.cur.seq.pc s.cur.seq.blk)

/-- R102: in a BUFFERED task whose commit has not begun a ST outside the pool window is performed at once, whatever its
alignment, and makes the task unrerunnable. -/
def Obligations.DirectStores : Prop :=
  ∀ (s s1 : State) (strm : BitVec 3) (wid : BitVec 2) (sd sa : SReg) (imm : BitVec 32) (x : Task), Ready s [sd, sa] →
    let a := s.getS sa + imm.signExtend 64
    let n : Nat := 2 ^ wid.toNat
    s.recalled s.who 2 a n = false → inPool a = false → inPool (a + BitVec.ofNat 64 (n - 1)) = false →
    s.curCore.task = some x → x.buffered = true → x.phase ≠ .commit →
    scalarStore s (s.who.on strm) a n ((s.getS sd).toNat % 2 ^ (8 * n)) = (s1, none) →
    ∃ t, exec (.st strm wid sd sa imm) s = .next t ∧ SameMemory s1 t ∧ t.curCore.task = some { x with fixed := true } ∧
      t.cur.wcount = s.cur.wcount + 1 ∧ t.cur.seq.pc = s.cur.seq.pc + 8

/-- What reset leaves, and that its memories are in their canonical form. -/
def Obligations.ResetValues : Prop := Claim.ResetValues ∧ Claim.MemoryOkAtReset

/-! ## Where the events complete -/

/-- Each event of an engine completes with its own effect: DESCRIPTOR_READ_COMPLETE leaves the command running with the
descriptor that it has read, ENGINE_ACCESS_RESPONSE takes a byte of a table into the command, WAVE_COMPLETE ends the wave,
COMMAND_COMPLETION empties the slot with one arrival, FOLLOW_ON_ISSUE fills one, and REMOTE_ARRIVAL makes its arrivals (R209 to
R211, R215, R232, R234, R239). -/
def Obligations.EngineEventsComplete : Prop :=
  (∀ (s s1 : State) (core n : Nat) (x : Command) (bs : List Byte), AtWork s core 1 n x .desc →
    isIndexed x.instr = false → readBytes s (s.whoCmd core x) x.va 64 = .ok (s1, bs) → copyDescOk x.instr bs = true →
    ∃ t y, exec (.descriptorReadComplete core 1 n) s = .next t ∧ (t.core core).slot (16 + n) = some y ∧ y.stage = .run ∧
      y.descA = bs ∧ y.pos = 0) ∧
  (∀ (s s1 : State) (core n : Nat) (x : Command) (sa : SReg) (c : Cmd) (b : Byte), AtWork s core 2 n x .run →
    x.instr = .twld sa c → readBytes s (s.whoCmd core x) (x.va + BitVec.ofNat 64 x.pos) 1 = .ok (s1, [b]) →
    ∃ t y, exec (.engineAccessResponse core 2 n) s = .next t ∧ (t.core core).slot (32 + n) = some y ∧ y.pos = x.pos + 1 ∧
      y.carry = x.carry ++ [b]) ∧
  (∀ (s : State) (core n : Nat) (x : Command), AtWork s core 2 n x .wave →
    ∃ t, exec (.waveComplete core) s = .next t ∧ (t.core core).slot (32 + n) = some { x with stage := .done }) ∧
  (∀ (s : State) (core eng n : Nat) (x : Command), AtWork s core eng n x .done → x.err = none →
    Untermed (s.core core) x.bar → Untraced s core 1 →
    ∃ t, exec (.commandCompletion core eng n) s = .next t ∧ (t.core core).slot (16 * eng + n) = none ∧
      (t.core core).barAt x.bar = arrivedBy ((s.core core).barAt x.bar) 1) ∧
  (∀ (s : State) (core n : Nat) (f : Follow) (x : Command),
    (s.core core).follows.find? (fun f => ((w64At f.bytes 0).extractLsb' 22 4).toNat = n) = some f → followCommand f = some x →
    x.key = n → (s.core core).slot n = none →
    matrixChecks x (w64At f.bytes 0) (agran (s.hart f.hart).partw) (s.regsOf f.hart) = .ok () →
    ∃ t y, exec (.followOnIssue core n) s = .next t ∧ (t.core core).slot n = some y ∧ y.instr = x.instr ∧
      (t.core core).follows = (s.core core).follows.erase f) ∧
  (∀ (s : State) (a : Arrival) (rest : List Arrival) (k : Task), s.arrivals = a :: rest → (s.core a.core).task = some k →
    k.asid = a.asid → s.withholds a = false → s.resetting a.core = false → Untermed (s.core a.core) a.bar → Untraced s a.core 1 →
    ∃ t, exec .remoteArrival s = .next t ∧ t.arrivals = rest ∧
      (t.core a.core).barAt a.bar = arrivedBy ((s.core a.core).barAt a.bar) a.count)

/-- Each event of a launch and of its tasks completes with its own effect: its leases resolve, LEASEX_RESOLVED adds a range,
STAMP_COMPLETE takes a sequence number, the walk goes on and reserves a cohort, a core is given, staged and started, a commit
ends the task, and the launch ends; and a cut stops a hart and then the engines, writes the image and restores it (R245, R276,
R280, R335 to R340, R343 to R346, R405). -/
def Sys2Proof.Claim.LaunchEventsComplete : Prop :=
  (∀ (s : State) (id : Nat) (l : Launch), s.launch id = some l → l.resolved = false → l.phase = .leases →
    Record.nlease l.record ≤ l.pend →
    ∃ t y, exec (.leaseResolutionComplete id) s = .next t ∧ t.launch id = some y ∧ y.resolved = true ∧ y.phase = .walking) ∧
  (∀ (s s1 : State) (r : LeaseReq) (l : Launch), s.leasexs = [r] → r.answer = some true → s.launch r.launch = some l →
    (l.held.filter Range.extra).length < 16 → Untermed (s.core r.core) r.bar → Untraced s r.core 1 → s1.launches = s.launches →
    resolveRange (postOf r.core) r.launch r.asid r.ptroot (BitVec.ofNat 64 (r.base.toNat / 4096 * 4096)) r.write 2 r.corr
      (pagesOf r.base.toNat r.len.toNat - r.page) { s with leasexs := [] } r.page (some true) = .done s1 →
    ∃ t y, exec .leasexResolved s = .next t ∧ t.leasexs = [] ∧ t.launch r.launch = some y ∧
      y.held = l.held ++ afterForced r.forced ⟨r.base.toNat, r.len.toNat, r.write, true, r.n⟩) ∧
  (∀ (s s1 s2 s3 : State) (r : StampReq) (pages : List Nat) (bs : List Byte) (places : List Place), s.stamps = [r] →
    r.region.toNat % 4096 = 0 → r.len = 4096 → r.manifest.toNat % 64 = 0 →
    sealedPages (whoStamp r) 1 s r.region = .ok (s1, pages) → readRun s1 (whoStamp r) r.region 8 512 = .ok (s2, bs) →
    manifestPlaces (whoStamp r) 998 s2 r.manifest = .ok (s3, places) → Untermed (s.core r.core) r.bar → Untraced s r.core 1 →
    ∃ t, exec .stampComplete s = .next t ∧ t.stamps = [] ∧ t.sseq = s.sseq + 1) ∧
  (∀ (s s1 : State) (id : Nat) (l : Launch), s.launch id = some l → l.walkDone = false → l.failure = none →
    l.phase = .walking → l.cursor = none → nextPlace s l.asid l.record l.walk = .ok (s1, none) →
    ∃ t y, exec (.walkerEnumerate id) s = .next t ∧ t.launch id = some y ∧ y.walkDone = true) ∧
  (∀ (s : State) (id c : Nat) (l : Launch), s.launch id = some l → Record.place l.record = 1 → l.walkDone = true →
    l.failure = none → l.phase = .walking → l.resolved = true →
    l.waiting.map (fun i => Record.cohortCore l.record i.n) = [c] → cohortHeat s (Record.heat l.record) [c] = true →
    (s.core c).task = none → (s.core c).reserved = none → (s.core c).noCommands = true →
    ∃ t, exec (.cohortReserve id) s = .next t ∧ (t.core c).reserved = some id ∧ (t.core c).truss = []) ∧
  (∀ (s : State) (id core : Nat) (l : Launch) (it : Iteration) (g : List Nat), s.launch id = some l →
    l.candidate = some it → it.image = none → core < 128 → myTurn s id l = true → Record.heat l.record = 0 →
    placeGrants s id l it core = some g →
    ∃ t k, exec (.taskPlacement id core) s = .next t ∧ (t.core core).task = some k ∧ k.launch = id ∧ k.n = it.n ∧ k.phase = .staging) ∧
  (∀ (s s1 : State) (core : Nat) (k : Task) (l : Launch), (s.core core).task = some k → k.phase = .staging →
    s.launch k.launch = some l → stageInputs s core k l = (s1, none) →
    ∃ t, exec (.stagingComplete core) s = .next t ∧ (t.core core).task = some { k with phase := .ready, moved := 0 }) ∧
  (∀ (s : State) (core : Nat) (k : Task) (l : Launch), (s.core core).task = some k → k.phase = .ready →
    s.launch k.launch = some l → (s.context l.asid).stopped = false → l.failure = none → l.phase = .walking →
    lowerStarted s k.launch l k.n = true → 1 ≤ k.gang → k.gang ≤ 4 → Untraced s core 2 →
    ∃ t, exec (.taskStart core) s = .next t ∧ (t.hart (4 * core)).status = .running ∧
      (t.hart (4 * core)).seq.pc = Record.entry l.record 0 ∧ (t.hart (4 * core)).wcount = 0) ∧
  (∀ (s s1 : State) (core : Nat) (k : Task) (l : Launch), (s.core core).task = some k → k.phase = .commit →
    s.launch k.launch = some l → commitTask s core k l = (s1, none) →
    ∃ t, exec (.commitComplete core) s = .next t ∧ (t.core core).task = none ∧ (t.hart (4 * core)).status = .idle) ∧
  (∀ (s : State) (id : Nat) (l : Launch), s.launch id = some l → launchQuiet s id l = true →
    ∃ t, exec (.launchCompletion id) s = .next t ∧ t.launch id = none ∧ ∀ c, c < 128 → (t.core c).reserved ≠ some id) ∧
  (∀ (s : State) (core slot : Nat),
    let h := s.hart (4 * core + slot)
    h.status = .running → h.seq.arriving = true → h.window = [] → h.recorded = none → heldAtBoundary s (4 * core + slot) = true →
    ∃ t, exec (.hartCutStop core slot) s = .next t ∧ (t.hart (4 * core + slot)).status = .cut) ∧
  (∀ (s : State) (core : Nat) (k : Task), (s.core core).task = some k → k.phase = .cutting →
    (∀ j, j < k.gang → (s.hart (4 * core + j)).status = .cut) → (s.core core).morder = [] →
    ∃ t, exec (.cutStageTwo core) s = .next t ∧ (t.core core).task = some { k with phase := .imaging }) ∧
  (∀ (s s1 : State) (core : Nat) (k : Task) (l : Launch), (s.core core).task = some k → s.launch k.launch = some l →
    k.phase = .imaging → cutQuiet s core = true → lowestCut s k = true → imageBad s core k = false →
    let bs := contextImage s core k (Record.temp l.record)
    let off := (l.used + 63) / 64 * 64
    off + bs.length ≤ Record.imglen l.record →
    writeRun s (s.whoQueue l.asid) (l.area + BitVec.ofNat 64 off) 8 (bs.length / 8) bs = (s1, none) →
    s1.launches = s.launches →
    ∃ t, exec (.imageWriteComplete core) s = .next t ∧ (t.core core).task = none ∧ t.mem = s1.mem) ∧
  (∀ (s s1 s2 s3 : State) (id core : Nat) (l : Launch) (it : Iteration) (a : Word) (hd bs : List Byte) (k : Task),
    s.launch id = some l → l.candidate = some it → it.image = some a → imageHead s l it a = .ok (s1, hd) →
    readRun s1 (s1.whoQueue l.asid) a 8 (leAt hd 4 4 / 8) = .ok (s2, bs) → core < 128 →
    restoreFits s2 id l it hd core = true → myTurn s2 id l = true → Record.heat l.record = 0 →
    lowerStarted s2 id l it.n = true →
    ((readyCore (takeIteration s2 id l it) id l it core (headGrants bs)).core core).task = some k →
    stageInputs (readyCore (takeIteration s2 id l it) id l it core (headGrants bs)) core k l = (s3, none) → 1 ≤ k.gang → k.gang ≤ 4 →
    ∃ t y, exec (.contextRestore id core) s = .next t ∧ (t.core core).task = some y ∧ y.phase = .running ∧ y.n = it.n ∧
      (t.hart (4 * core)).seq.pc = w64At bs 264)

/-- Each packet that the arbiter takes completes with its own effect (R331, R332, R344, R346, R408): a launch begins, a WAITMEM
whose word has reached its threshold lets its queue go on, and so does its re-check; a SIGNAL is noted and its sum made, a RESETQ
empties its queue, a launch is suspended or let go on, and a session is opened or closed. -/
def Sys2Proof.Claim.PacketEventsComplete : Prop :=
  (∀ (s s1 s2 s3 : State) (q : Nat) (p : Packet) (r : Record) (ds : List (List Byte)), Taken s s1 q p → p.opc = 1 →
    p.pflags / 2 % 2 = 0 → p.addr.toNat % 64 = 0 →
    readBytes s1 (s1.whoQueue (s1.queue q).asid) p.addr 512 = .ok (s2, r) → Record.ok r = true →
    readSlots { s2 with nextLaunch := s2.nextLaunch + 1 } (s2.queue q).asid r 12 = .ok (s3, ds) → s3.launches = s2.launches →
    ∃ t l, exec .launchPacket s = .next t ∧ t.launch s2.nextLaunch = some l ∧ l.phase = .leases ∧ l.addr = p.addr ∧ l.cursor = none) ∧
  (∀ (s s1 s2 s3 s4 : State) (q : Nat) (p : Packet) (cb : List Byte) (r : Record) (ds : List (List Byte)), Taken s s1 q p → p.opc = 1 →
    p.pflags / 2 % 2 = 1 → readRun s1 (s1.whoQueue (s1.queue q).asid) p.addr 8 8 = .ok (s2, cb) → (w64At cb 0).toNat % 64 = 0 →
    readBytes s2 (s2.whoQueue (s2.queue q).asid) (w64At cb 0) 512 = .ok (s3, r) → Record.ok r = true →
    readSlots { s3 with nextLaunch := s3.nextLaunch + 1 } (s3.queue q).asid r 12 = .ok (s4, ds) → s4.launches = s3.launches →
    ∃ t l, exec .launchResume s = .next t ∧ t.launch s3.nextLaunch = some l ∧ l.phase = .leases ∧ l.addr = w64At cb 0 ∧
      l.cursor.map Prod.fst = some (leAt cb 8 8)) ∧
  (∀ (s s1 s2 : State) (q v : Nat) (p : Packet), Taken s s1 q p → p.opc = 2 →
    loadAt s1 (s1.whoQueue (s1.queue q).asid) p.addr 8 = .ok (s2, v) → p.val.toNat ≤ v →
    ∃ t, exec .waitmem s = .next t ∧ (t.queue q).blocked = none) ∧
  (∀ (s s1 : State) (q v : Nat) (a x : Word) (c : BitVec 32), (s.queue q).en = true → (s.queue q).blocked = some (a, x, c) →
    loadAt s (s.whoQueue (s.queue q).asid) a 8 = .ok (s1, v) → x.toNat ≤ v →
    ∃ t, exec (.waitmemRecheck q) s = .next t ∧ (t.queue q).blocked = none) ∧
  (∀ (s s1 : State) (q : Nat) (p : Packet), Taken s s1 q p → p.opc = 3 →
    ∃ t, exec .signal s = .next t ∧
      (t.queue q).signals = (s1.queue q).signals ++ [(p.addr, p.val, p.corr, s1.launchesOf q)]) ∧
  (∀ (s s1 : State) (q : Nat) (a x : Word) (c : BitVec 32) (pl : Place), (s.queue q).signals = [(a, x, c, [])] →
    let s0 := s.setQueue q { s.queue q with signals := [] }
    checkAccess s0 (s0.whoQueue (s.queue q).asid) 3 a 8 (some .add) = .ok (s1, pl) → pl.isMemory = true →
    ∃ t, exec (.signalAdd q) s = .next t ∧ StoresAt s1 t pl 8 (readPlace s1 pl 8 + x.toNat) ∧ (t.queue q).signals = []) ∧
  (∀ (s s1 : State) (q : Nat) (p : Packet), Taken s s1 q p → p.opc = 5 → (s1.queue p.val.toNat).asid = (s1.queue q).asid →
    (s1.queue p.val.toNat).trace = none → (s1.queue p.val.toNat).en = true →
    ∃ t, exec .resetq s = .next t ∧ (t.queue p.val.toNat).head = (s1.queue p.val.toNat).tail ∧
      (t.queue p.val.toNat).blocked = none) ∧
  (∀ (s s1 : State) (q id : Nat) (p : Packet) (l : Launch), Taken s s1 q p → p.opc = 4 → preemptTarget s1 q p = some (id, l) →
    (∀ i, (p.pflags % 8 = 1 ∧ i = .preemptCut ∨ p.pflags % 8 = 2 ∧ i = .preemptAbort) → Preemptible l →
      ∃ t y, exec i s = .next t ∧ t.launch id = some y ∧ y.phase = .suspended) ∧
    (∀ i, (p.pflags % 8 = 0 ∧ i = .preemptDrain ∧ p.pflags / 16 % 8 < Record.nlev l.record ∨
        p.pflags % 8 = 3 ∧ i = .preemptPolicy ∧ Record.ppol l.record = 0) → Preemptible l →
      ∃ t y, exec i s = .next t ∧ t.launch id = some y ∧ y.phase = .draining) ∧
    (p.pflags % 8 = 4 → l.phase = .suspended → l.resolved = true →
      ∃ t y, exec .preemptResume s = .next t ∧ t.launch id = some y ∧ y.phase = .walking)) ∧
  (∀ (s s1 : State) (q : Nat) (p : Packet), Taken s s1 q p → p.opc = 6 → (s1.queue q).trace = none →
    ∃ t x, exec .traceon s = .next t ∧ (t.queue q).trace = some x ∧ x.corr = p.corr) ∧
  (∀ (s s1 : State) (q : Nat) (p : Packet), Taken s s1 q p → p.opc = 7 →
    ∃ t, exec .traceoff s = .next t ∧ (t.queue q).trace = none)

/-- Where the events of launches, tasks and packets complete. -/
def Obligations.LaunchEventsComplete : Prop := Claim.LaunchEventsComplete ∧ Claim.PacketEventsComplete

end Statements
end

