-- ==== Sys2Proof/Laws/Table.lean ====
section
/-! SUPPORT. Laws of tables and memories: reading after writing, and the canonical form that every operation keeps. -/

namespace Sys2Proof.Machine

variable {α : Type} [DecidableEq α] {d : α}

/-! ## The canonical form -/

theorem Table.wfFrom_nil (d : α) (lo : Option Nat) : Table.wfFrom d lo [] = true := by
  cases lo <;> rfl

theorem Table.wfFrom_some_cons (lo j : Nat) (v : α) (t : Table α) :
    Table.wfFrom d (some lo) ((j, v) :: t) = true ↔ lo < j ∧ v ≠ d ∧ Table.wfFrom d (some j) t = true := by
  simp [Table.wfFrom, and_assoc]

theorem Table.wfFrom_none_cons (j : Nat) (v : α) (t : Table α) :
    Table.wfFrom d none ((j, v) :: t) = true ↔ v ≠ d ∧ Table.wfFrom d (some j) t = true := by
  simp [Table.wfFrom]

theorem Table.wfFrom_mono {lo lo' : Nat} (h : lo' ≤ lo) {t : Table α} (ht : Table.wfFrom d (some lo) t = true) :
    Table.wfFrom d (some lo') t = true := by
  cases t with
  | nil => exact Table.wfFrom_nil d _
  | cons e t =>
    obtain ⟨j, v⟩ := e
    rw [Table.wfFrom_some_cons] at ht ⊢
    exact ⟨by omega, ht.2⟩

theorem Table.wf_of_wfFrom {lo : Nat} {t : Table α} (ht : Table.wfFrom d (some lo) t = true) : Table.wf d t = true := by
  cases t with
  | nil => exact Table.wfFrom_nil d _
  | cons e t =>
    obtain ⟨j, v⟩ := e
    rw [Table.wfFrom_some_cons] at ht
    exact (Table.wfFrom_none_cons j v t).2 ht.2

theorem Table.wf_nil (d : α) : Table.wf d [] = true := Table.wfFrom_nil d none

/-- A canonical table: empty, or a first entry with a canonical rest above it. -/
theorem Table.wf_cons {j : Nat} {v : α} {t : Table α} :
    Table.wf d ((j, v) :: t) = true ↔ v ≠ d ∧ Table.wfFrom d (some j) t = true := Table.wfFrom_none_cons j v t

theorem Table.wfFrom_drop {lo : Nat} {t : Table α} (ht : Table.wfFrom d (some lo) t = true) (k : Nat) :
    Table.wfFrom d (some lo) (Table.drop t k) = true := by
  induction t generalizing lo with
  | nil => exact ht
  | cons e t ih =>
    obtain ⟨j, v⟩ := e
    rw [Table.wfFrom_some_cons] at ht
    simp only [Table.drop]
    split
    · exact Table.wfFrom_mono (by omega) (ih ht.2.2)
    · exact (Table.wfFrom_some_cons _ _ _ _).2 ⟨ht.1, ht.2.1, ih ht.2.2⟩

theorem Table.wfFrom_put {lo : Nat} {t : Table α} (ht : Table.wfFrom d (some lo) t = true) {k : Nat} (hk : lo < k)
    {v : α} (hv : v ≠ d) : Table.wfFrom d (some lo) (Table.put t k v) = true := by
  induction t generalizing lo with
  | nil => exact (Table.wfFrom_some_cons _ _ _ _).2 ⟨hk, hv, Table.wfFrom_nil d _⟩
  | cons e t ih =>
    obtain ⟨j, w⟩ := e
    rw [Table.wfFrom_some_cons] at ht
    simp only [Table.put]
    split
    · next h => exact (Table.wfFrom_some_cons _ _ _ _).2 ⟨ht.1, ht.2.1, ih ht.2.2 h⟩
    · split
      · next h => subst h; exact (Table.wfFrom_some_cons _ _ _ _).2 ⟨hk, hv, ht.2.2⟩
      · next h h' =>
        exact (Table.wfFrom_some_cons _ _ _ _).2
          ⟨hk, hv, (Table.wfFrom_some_cons _ _ _ _).2 ⟨by omega, ht.2⟩⟩

theorem Table.wf_drop {t : Table α} (ht : Table.wf d t = true) (k : Nat) : Table.wf d (Table.drop t k) = true := by
  cases t with
  | nil => exact ht
  | cons e t =>
    obtain ⟨j, v⟩ := e
    have ht' := Table.wf_cons.1 ht
    simp only [Table.drop]
    split
    · exact Table.wf_of_wfFrom (Table.wfFrom_drop ht'.2 k)
    · exact Table.wf_cons.2 ⟨ht'.1, Table.wfFrom_drop ht'.2 k⟩

theorem Table.wf_put {t : Table α} (ht : Table.wf d t = true) (k : Nat) {v : α} (hv : v ≠ d) :
    Table.wf d (Table.put t k v) = true := by
  cases t with
  | nil => exact Table.wf_cons.2 ⟨hv, Table.wfFrom_nil d _⟩
  | cons e t =>
    obtain ⟨j, w⟩ := e
    have ht' := Table.wf_cons.1 ht
    simp only [Table.put]
    split
    · next h => exact Table.wf_cons.2 ⟨ht'.1, Table.wfFrom_put ht'.2 h hv⟩
    · split
      · next h => subst h; exact Table.wf_cons.2 ⟨hv, ht'.2⟩
      · next h h' => exact Table.wf_cons.2 ⟨hv, (Table.wfFrom_some_cons _ _ _ _).2 ⟨by omega, ht'⟩⟩

/-- Writing an entry keeps the canonical form. -/
theorem Table.wf_set {t : Table α} (ht : Table.wf d t = true) (k : Nat) (v : α) :
    Table.wf d (Table.set d t k v) = true := by
  unfold Table.set
  split
  · exact Table.wf_drop ht k
  · next h => exact Table.wf_put ht k h

theorem Table.wfFrom_filter {lo : Nat} {t : Table α} (ht : Table.wfFrom d (some lo) t = true) (p : Nat × α → Bool) :
    Table.wfFrom d (some lo) (t.filter p) = true := by
  induction t generalizing lo with
  | nil => exact ht
  | cons e t ih =>
    obtain ⟨j, v⟩ := e
    rw [Table.wfFrom_some_cons] at ht
    simp only [List.filter_cons]
    split
    · exact (Table.wfFrom_some_cons _ _ _ _).2 ⟨ht.1, ht.2.1, ih ht.2.2⟩
    · exact Table.wfFrom_mono (by omega) (ih ht.2.2)

/-- Leaving entries out keeps the canonical form. -/
theorem Table.wf_filter {t : Table α} (ht : Table.wf d t = true) (p : Nat × α → Bool) :
    Table.wf d (t.filter p) = true := by
  cases t with
  | nil => exact ht
  | cons e t =>
    obtain ⟨j, v⟩ := e
    have ht' := Table.wf_cons.1 ht
    simp only [List.filter_cons]
    split
    · exact Table.wf_cons.2 ⟨ht'.1, Table.wfFrom_filter ht'.2 p⟩
    · exact Table.wf_of_wfFrom (Table.wfFrom_filter ht'.2 p)

/-! ## Reading after writing -/

omit [DecidableEq α] in
theorem Table.get_put (t : Table α) (k : Nat) (v : α) (k' : Nat) :
    Table.get d (Table.put t k v) k' = if k = k' then v else Table.get d t k' := by
  induction t with
  | nil => rfl
  | cons e t ih =>
    obtain ⟨j, w⟩ := e
    simp only [Table.put]
    split
    · simp only [Table.get, ih]
      split
      · rw [if_neg (by omega)]
      · rfl
    · split
      · next h => subst h; simp only [Table.get]; split <;> rfl
      · rfl

omit [DecidableEq α] in
theorem Table.get_drop (t : Table α) (k k' : Nat) :
    Table.get d (Table.drop t k) k' = if k = k' then d else Table.get d t k' := by
  induction t with
  | nil => simp [Table.drop, Table.get]
  | cons e t ih =>
    obtain ⟨j, w⟩ := e
    simp only [Table.drop]
    split
    · next h =>
      subst h
      simp only [Table.get, ih]
      split <;> rfl
    · simp only [Table.get, ih]
      split
      · rw [if_neg (by omega)]
      · rfl

/-- Reading after writing, in any table. -/
theorem Table.get_set (t : Table α) (k : Nat) (v : α) (k' : Nat) :
    Table.get d (Table.set d t k v) k' = if k = k' then v else Table.get d t k' := by
  unfold Table.set
  split
  · next h => rw [Table.get_drop, h]
  · exact Table.get_put t k v k'

/-- A key reads what was written to it. -/
@[simp] theorem Table.get_set_self (t : Table α) (k : Nat) (v : α) : Table.get d (Table.set d t k v) k = v := by
  rw [Table.get_set, if_pos rfl]

/-- A write leaves every other key alone. -/
theorem Table.get_set_other (t : Table α) {k k' : Nat} (v : α) (h : k ≠ k') :
    Table.get d (Table.set d t k v) k' = Table.get d t k' := by
  rw [Table.get_set, if_neg h]

/-! ## Memories -/

theorem Memory.wf_setByte {m : Table Byte} (hm : Memory.wf m = true) (a : Nat) (b : Byte) :
    Memory.wf (Memory.setByte m a b) = true := Table.wf_set hm a b

theorem Memory.wf_store {m : Table Byte} (hm : Memory.wf m = true) (a n v : Nat) :
    Memory.wf (Memory.store m a n v) = true := by
  induction n generalizing a v with
  | zero => exact hm
  | succ n ih => exact Memory.wf_setByte (ih (a + 1) (v / 256)) a _

theorem Memory.wf_storeBytes {m : Table Byte} (hm : Memory.wf m = true) (a : Nat) (bs : List Byte) :
    Memory.wf (Memory.storeBytes m a bs) = true := by
  induction bs generalizing a with
  | nil => exact hm
  | cons b t ih => exact Memory.wf_setByte (ih (a + 1)) a b

theorem Memory.byte_setByte (m : Table Byte) (a : Nat) (b : Byte) (a' : Nat) :
    Memory.byte (Memory.setByte m a b) a' = if a = a' then b else Memory.byte m a' := Table.get_set m a b a'

/-- A store leaves every byte outside it as it was. -/
theorem Memory.byte_store_outside (m : Table Byte) (a n v a' : Nat)
    (h : a' < a ∨ a + n ≤ a') : Memory.byte (Memory.store m a n v) a' = Memory.byte m a' := by
  induction n generalizing a v with
  | zero => rfl
  | succ n ih =>
    rw [Memory.store, Memory.byte_setByte, if_neg (by omega)]
    exact ih (a + 1) (v / 256) (by omega)

/-- A store writes its value's bytes, little-endian. -/
theorem Memory.byte_store_inside (m : Table Byte) (a n v k : Nat) (hk : k < n) :
    Memory.byte (Memory.store m a n v) (a + k) = BitVec.ofNat 8 (v / 256 ^ k) := by
  induction n generalizing a v k with
  | zero => omega
  | succ n ih =>
    rw [Memory.store, Memory.byte_setByte]
    cases k with
    | zero => simp
    | succ k =>
      rw [if_neg (by omega), show a + (k + 1) = a + 1 + k by omega, ih (a + 1) (v / 256) k (by omega),
        Nat.div_div_eq_div_mul, Nat.pow_succ, Nat.mul_comm]

/-- A load depends on the bytes that it reads alone. -/
theorem Memory.load_congr {m m' : Table Byte} (a n : Nat)
    (h : ∀ k, k < n → Memory.byte m' (a + k) = Memory.byte m (a + k)) : Memory.load m' a n = Memory.load m a n := by
  induction n generalizing a with
  | zero => rfl
  | succ n ih =>
    have h0 := h 0 (by omega)
    rw [Nat.add_zero] at h0
    rw [Memory.load, Memory.load, h0, ih (a + 1) fun k hk => by
      have := h (k + 1) (by omega)
      rwa [show a + (k + 1) = a + 1 + k by omega] at this]

/-- A load after a store to the same bytes gives the value stored. -/
theorem Memory.load_store_same (m : Table Byte) (a n v : Nat) :
    Memory.load (Memory.store m a n v) a n = v % 256 ^ n := by
  induction n generalizing a v with
  | zero => simp [Memory.load, Nat.mod_one]
  | succ n ih =>
    have rest : Memory.load (Memory.store m a (n + 1) v) (a + 1) n = (v / 256) % 256 ^ n := by
      rw [← ih (a + 1) (v / 256)]
      refine Memory.load_congr _ _ fun k hk => ?_
      rw [Memory.store, Memory.byte_setByte, if_neg (by omega)]
    have split : v % 256 ^ (n + 1) = v % 256 + 256 * (v / 256 % 256 ^ n) := by
      rw [Nat.pow_succ, Nat.mul_comm, Nat.mod_mul]
    rw [Memory.load, rest, Memory.store, Memory.byte_setByte, if_pos rfl, split]
    simp

/-- A load of bytes that a store does not touch gives what it gave before. -/
theorem Memory.load_store_disjoint (m : Table Byte) (a n v b k : Nat) (h : b + k ≤ a ∨ a + n ≤ b) :
    Memory.load (Memory.store m a n v) b k = Memory.load m b k :=
  Memory.load_congr b k fun j hj => Memory.byte_store_outside m a n v (b + j) (by omega)

end Sys2Proof.Machine
end

