-- ==== Sys2Proof/Laws/State.lean ====
section
/-! SUPPORT. One lemma per field per update of State, so that no proof unfolds a record update; and reading a part after it
has been replaced. -/

namespace Sys2Proof.Machine

variable (s : State)

/-! ## setHart -/

@[simp] theorem State.setHart_cores (k : Nat) (h : Hart) : (s.setHart k h).cores = s.cores := rfl
@[simp] theorem State.setHart_mem (k : Nat) (h : Hart) : (s.setHart k h).mem = s.mem := rfl
@[simp] theorem State.setHart_wrote (k : Nat) (h : Hart) : (s.setHart k h).wrote = s.wrote := rfl
@[simp] theorem State.setHart_poison (k : Nat) (h : Hart) : (s.setHart k h).poison = s.poison := rfl
@[simp] theorem State.setHart_found (k : Nat) (h : Hart) : (s.setHart k h).found = s.found := rfl
@[simp] theorem State.setHart_sealed (k : Nat) (h : Hart) : (s.setHart k h).sealed = s.sealed := rfl
@[simp] theorem State.setHart_stamped (k : Nat) (h : Hart) : (s.setHart k h).stamped = s.stamped := rfl
@[simp] theorem State.setHart_hostMem (k : Nat) (h : Hart) : (s.setHart k h).hostMem = s.hostMem := rfl
@[simp] theorem State.setHart_hostAns (k : Nat) (h : Hart) : (s.setHart k h).hostAns = s.hostAns := rfl
@[simp] theorem State.setHart_peerMem (k : Nat) (h : Hart) : (s.setHart k h).peerMem = s.peerMem := rfl
@[simp] theorem State.setHart_peerAns (k : Nat) (h : Hart) : (s.setHart k h).peerAns = s.peerAns := rfl
@[simp] theorem State.setHart_remote (k : Nat) (h : Hart) : (s.setHart k h).remote = s.remote := rfl
@[simp] theorem State.setHart_lines (k : Nat) (h : Hart) : (s.setHart k h).lines = s.lines := rfl
@[simp] theorem State.setHart_held (k : Nat) (h : Hart) : (s.setHart k h).held = s.held := rfl
@[simp] theorem State.setHart_units (k : Nat) (h : Hart) : (s.setHart k h).units = s.units := rfl
@[simp] theorem State.setHart_contexts (k : Nat) (h : Hart) : (s.setHart k h).contexts = s.contexts := rfl
@[simp] theorem State.setHart_queues (k : Nat) (h : Hart) : (s.setHart k h).queues = s.queues := rfl
@[simp] theorem State.setHart_ptr (k : Nat) (h : Hart) : (s.setHart k h).ptr = s.ptr := rfl
@[simp] theorem State.setHart_launches (k : Nat) (h : Hart) : (s.setHart k h).launches = s.launches := rfl
@[simp] theorem State.setHart_nextLaunch (k : Nat) (h : Hart) : (s.setHart k h).nextLaunch = s.nextLaunch := rfl
@[simp] theorem State.setHart_agep (k : Nat) (h : Hart) : (s.setHart k h).agep = s.agep := rfl
@[simp] theorem State.setHart_heatctl (k : Nat) (h : Hart) : (s.setHart k h).heatctl = s.heatctl := rfl
@[simp] theorem State.setHart_rotStart (k : Nat) (h : Hart) : (s.setHart k h).rotStart = s.rotStart := rfl
@[simp] theorem State.setHart_pwrctl (k : Nat) (h : Hart) : (s.setHart k h).pwrctl = s.pwrctl := rfl
@[simp] theorem State.setHart_ramp (k : Nat) (h : Hart) : (s.setHart k h).ramp = s.ramp := rfl
@[simp] theorem State.setHart_pwrWrites (k : Nat) (h : Hart) : (s.setHart k h).pwrWrites = s.pwrWrites := rfl
@[simp] theorem State.setHart_rampWrites (k : Nat) (h : Hart) : (s.setHart k h).rampWrites = s.rampWrites := rfl
@[simp] theorem State.setHart_activity (k : Nat) (h : Hart) : (s.setHart k h).activity = s.activity := rfl
@[simp] theorem State.setHart_starts (k : Nat) (h : Hart) : (s.setHart k h).starts = s.starts := rfl
@[simp] theorem State.setHart_stops (k : Nat) (h : Hart) : (s.setHart k h).stops = s.stops := rfl
@[simp] theorem State.setHart_pstate (k : Nat) (h : Hart) : (s.setHart k h).pstate = s.pstate := rfl
@[simp] theorem State.setHart_pstateReq (k : Nat) (h : Hart) : (s.setHart k h).pstateReq = s.pstateReq := rfl
@[simp] theorem State.setHart_rstBusy (k : Nat) (h : Hart) : (s.setHart k h).rstBusy = s.rstBusy := rfl
@[simp] theorem State.setHart_rstScope (k : Nat) (h : Hart) : (s.setHart k h).rstScope = s.rstScope := rfl
@[simp] theorem State.setHart_rstPending (k : Nat) (h : Hart) : (s.setHart k h).rstPending = s.rstPending := rfl
@[simp] theorem State.setHart_inv (k : Nat) (h : Hart) : (s.setHart k h).inv = s.inv := rfl
@[simp] theorem State.setHart_atsDone (k : Nat) (h : Hart) : (s.setHart k h).atsDone = s.atsDone := rfl
@[simp] theorem State.setHart_invBytes (k : Nat) (h : Hart) : (s.setHart k h).invBytes = s.invBytes := rfl
@[simp] theorem State.setHart_frbase (k : Nat) (h : Hart) : (s.setHart k h).frbase = s.frbase := rfl
@[simp] theorem State.setHart_frsize (k : Nat) (h : Hart) : (s.setHart k h).frsize = s.frsize := rfl
@[simp] theorem State.setHart_frhead (k : Nat) (h : Hart) : (s.setHart k h).frhead = s.frhead := rfl
@[simp] theorem State.setHart_frtail (k : Nat) (h : Hart) : (s.setHart k h).frtail = s.frtail := rfl
@[simp] theorem State.setHart_erbase (k : Nat) (h : Hart) : (s.setHart k h).erbase = s.erbase := rfl
@[simp] theorem State.setHart_ersize (k : Nat) (h : Hart) : (s.setHart k h).ersize = s.ersize := rfl
@[simp] theorem State.setHart_erhead (k : Nat) (h : Hart) : (s.setHart k h).erhead = s.erhead := rfl
@[simp] theorem State.setHart_ertail (k : Nat) (h : Hart) : (s.setHart k h).ertail = s.ertail := rfl
@[simp] theorem State.setHart_erdropped (k : Nat) (h : Hart) : (s.setHart k h).erdropped = s.erdropped := rfl
@[simp] theorem State.setHart_msix (k : Nat) (h : Hart) : (s.setHart k h).msix = s.msix := rfl
@[simp] theorem State.setHart_pwin (k : Nat) (h : Hart) : (s.setHart k h).pwin = s.pwin := rfl
@[simp] theorem State.setHart_ports (k : Nat) (h : Hart) : (s.setHart k h).ports = s.ports := rfl
@[simp] theorem State.setHart_mapGen (k : Nat) (h : Hart) : (s.setHart k h).mapGen = s.mapGen := rfl
@[simp] theorem State.setHart_dead (k : Nat) (h : Hart) : (s.setHart k h).dead = s.dead := rfl
@[simp] theorem State.setHart_therm (k : Nat) (h : Hart) : (s.setHart k h).therm = s.therm := rfl
@[simp] theorem State.setHart_remap (k : Nat) (h : Hart) : (s.setHart k h).remap = s.remap := rfl
@[simp] theorem State.setHart_counters (k : Nat) (h : Hart) : (s.setHart k h).counters = s.counters := rfl
@[simp] theorem State.setHart_laneMaps (k : Nat) (h : Hart) : (s.setHart k h).laneMaps = s.laneMaps := rfl
@[simp] theorem State.setHart_arrayLog (k : Nat) (h : Hart) : (s.setHart k h).arrayLog = s.arrayLog := rfl
@[simp] theorem State.setHart_busLog (k : Nat) (h : Hart) : (s.setHart k h).busLog = s.busLog := rfl
@[simp] theorem State.setHart_bursts (k : Nat) (h : Hart) : (s.setHart k h).bursts = s.bursts := rfl
@[simp] theorem State.setHart_badBursts (k : Nat) (h : Hart) : (s.setHart k h).badBursts = s.badBursts := rfl
@[simp] theorem State.setHart_chanHold (k : Nat) (h : Hart) : (s.setHart k h).chanHold = s.chanHold := rfl
@[simp] theorem State.setHart_clockRatio (k : Nat) (h : Hart) : (s.setHart k h).clockRatio = s.clockRatio := rfl
@[simp] theorem State.setHart_ckpt (k : Nat) (h : Hart) : (s.setHart k h).ckpt = s.ckpt := rfl
@[simp] theorem State.setHart_capbase (k : Nat) (h : Hart) : (s.setHart k h).capbase = s.capbase := rfl
@[simp] theorem State.setHart_bankmapPa (k : Nat) (h : Hart) : (s.setHart k h).bankmapPa = s.bankmapPa := rfl
@[simp] theorem State.setHart_statusPa (k : Nat) (h : Hart) : (s.setHart k h).statusPa = s.statusPa := rfl
@[simp] theorem State.setHart_bankmapVa (k : Nat) (h : Hart) : (s.setHart k h).bankmapVa = s.bankmapVa := rfl
@[simp] theorem State.setHart_moduleNo (k : Nat) (h : Hart) : (s.setHart k h).moduleNo = s.moduleNo := rfl
@[simp] theorem State.setHart_pcie (k : Nat) (h : Hart) : (s.setHart k h).pcie = s.pcie := rfl
@[simp] theorem State.setHart_bar4 (k : Nat) (h : Hart) : (s.setHart k h).bar4 = s.bar4 := rfl
@[simp] theorem State.setHart_capGen (k : Nat) (h : Hart) : (s.setHart k h).capGen = s.capGen := rfl
@[simp] theorem State.setHart_refcnt (k : Nat) (h : Hart) : (s.setHart k h).refcnt = s.refcnt := rfl
@[simp] theorem State.setHart_clock (k : Nat) (h : Hart) : (s.setHart k h).clock = s.clock := rfl
@[simp] theorem State.setHart_policies (k : Nat) (h : Hart) : (s.setHart k h).policies = s.policies := rfl
@[simp] theorem State.setHart_sseq (k : Nat) (h : Hart) : (s.setHart k h).sseq = s.sseq := rfl
@[simp] theorem State.setHart_stamps (k : Nat) (h : Hart) : (s.setHart k h).stamps = s.stamps := rfl
@[simp] theorem State.setHart_leasexs (k : Nat) (h : Hart) : (s.setHart k h).leasexs = s.leasexs := rfl
@[simp] theorem State.setHart_arrivals (k : Nat) (h : Hart) : (s.setHart k h).arrivals = s.arrivals := rfl
@[simp] theorem State.setHart_warnings (k : Nat) (h : Hart) : (s.setHart k h).warnings = s.warnings := rfl
@[simp] theorem State.setHart_debugLevel (k : Nat) (h : Hart) : (s.setHart k h).debugLevel = s.debugLevel := rfl
@[simp] theorem State.setHart_windowReads (k : Nat) (h : Hart) : (s.setHart k h).windowReads = s.windowReads := rfl
@[simp] theorem State.setHart_peerAnswers (k : Nat) (h : Hart) : (s.setHart k h).peerAnswers = s.peerAnswers := rfl
@[simp] theorem State.setHart_reports (k : Nat) (h : Hart) : (s.setHart k h).reports = s.reports := rfl
@[simp] theorem State.setHart_firmware (k : Nat) (h : Hart) : (s.setHart k h).firmware = s.firmware := rfl
@[simp] theorem State.setHart_keyHashes (k : Nat) (h : Hart) : (s.setHart k h).keyHashes = s.keyHashes := rfl
@[simp] theorem State.setHart_revoked (k : Nat) (h : Hart) : (s.setHart k h).revoked = s.revoked := rfl
@[simp] theorem State.setHart_leastVersion (k : Nat) (h : Hart) : (s.setHart k h).leastVersion = s.leastVersion := rfl
@[simp] theorem State.setHart_focus (k : Nat) (h : Hart) : (s.setHart k h).focus = s.focus := rfl
@[simp] theorem State.setHart_turns (k : Nat) (h : Hart) : (s.setHart k h).turns = s.turns := rfl
@[simp] theorem State.setHart_beat (k : Nat) (h : Hart) : (s.setHart k h).beat = s.beat := rfl
@[simp] theorem State.setHart_freeCount (k : Nat) (h : Hart) : (s.setHart k h).freeCount = s.freeCount := rfl

/-! ## setCore -/

@[simp] theorem State.setCore_harts (c : Nat) (x : Core) : (s.setCore c x).harts = s.harts := rfl
@[simp] theorem State.setCore_mem (c : Nat) (x : Core) : (s.setCore c x).mem = s.mem := rfl
@[simp] theorem State.setCore_wrote (c : Nat) (x : Core) : (s.setCore c x).wrote = s.wrote := rfl
@[simp] theorem State.setCore_poison (c : Nat) (x : Core) : (s.setCore c x).poison = s.poison := rfl
@[simp] theorem State.setCore_found (c : Nat) (x : Core) : (s.setCore c x).found = s.found := rfl
@[simp] theorem State.setCore_sealed (c : Nat) (x : Core) : (s.setCore c x).sealed = s.sealed := rfl
@[simp] theorem State.setCore_stamped (c : Nat) (x : Core) : (s.setCore c x).stamped = s.stamped := rfl
@[simp] theorem State.setCore_hostMem (c : Nat) (x : Core) : (s.setCore c x).hostMem = s.hostMem := rfl
@[simp] theorem State.setCore_hostAns (c : Nat) (x : Core) : (s.setCore c x).hostAns = s.hostAns := rfl
@[simp] theorem State.setCore_peerMem (c : Nat) (x : Core) : (s.setCore c x).peerMem = s.peerMem := rfl
@[simp] theorem State.setCore_peerAns (c : Nat) (x : Core) : (s.setCore c x).peerAns = s.peerAns := rfl
@[simp] theorem State.setCore_remote (c : Nat) (x : Core) : (s.setCore c x).remote = s.remote := rfl
@[simp] theorem State.setCore_lines (c : Nat) (x : Core) : (s.setCore c x).lines = s.lines := rfl
@[simp] theorem State.setCore_held (c : Nat) (x : Core) : (s.setCore c x).held = s.held := rfl
@[simp] theorem State.setCore_units (c : Nat) (x : Core) : (s.setCore c x).units = s.units := rfl
@[simp] theorem State.setCore_contexts (c : Nat) (x : Core) : (s.setCore c x).contexts = s.contexts := rfl
@[simp] theorem State.setCore_queues (c : Nat) (x : Core) : (s.setCore c x).queues = s.queues := rfl
@[simp] theorem State.setCore_ptr (c : Nat) (x : Core) : (s.setCore c x).ptr = s.ptr := rfl
@[simp] theorem State.setCore_launches (c : Nat) (x : Core) : (s.setCore c x).launches = s.launches := rfl
@[simp] theorem State.setCore_nextLaunch (c : Nat) (x : Core) : (s.setCore c x).nextLaunch = s.nextLaunch := rfl
@[simp] theorem State.setCore_agep (c : Nat) (x : Core) : (s.setCore c x).agep = s.agep := rfl
@[simp] theorem State.setCore_heatctl (c : Nat) (x : Core) : (s.setCore c x).heatctl = s.heatctl := rfl
@[simp] theorem State.setCore_rotStart (c : Nat) (x : Core) : (s.setCore c x).rotStart = s.rotStart := rfl
@[simp] theorem State.setCore_pwrctl (c : Nat) (x : Core) : (s.setCore c x).pwrctl = s.pwrctl := rfl
@[simp] theorem State.setCore_ramp (c : Nat) (x : Core) : (s.setCore c x).ramp = s.ramp := rfl
@[simp] theorem State.setCore_pwrWrites (c : Nat) (x : Core) : (s.setCore c x).pwrWrites = s.pwrWrites := rfl
@[simp] theorem State.setCore_rampWrites (c : Nat) (x : Core) : (s.setCore c x).rampWrites = s.rampWrites := rfl
@[simp] theorem State.setCore_activity (c : Nat) (x : Core) : (s.setCore c x).activity = s.activity := rfl
@[simp] theorem State.setCore_starts (c : Nat) (x : Core) : (s.setCore c x).starts = s.starts := rfl
@[simp] theorem State.setCore_stops (c : Nat) (x : Core) : (s.setCore c x).stops = s.stops := rfl
@[simp] theorem State.setCore_pstate (c : Nat) (x : Core) : (s.setCore c x).pstate = s.pstate := rfl
@[simp] theorem State.setCore_pstateReq (c : Nat) (x : Core) : (s.setCore c x).pstateReq = s.pstateReq := rfl
@[simp] theorem State.setCore_rstBusy (c : Nat) (x : Core) : (s.setCore c x).rstBusy = s.rstBusy := rfl
@[simp] theorem State.setCore_rstScope (c : Nat) (x : Core) : (s.setCore c x).rstScope = s.rstScope := rfl
@[simp] theorem State.setCore_rstPending (c : Nat) (x : Core) : (s.setCore c x).rstPending = s.rstPending := rfl
@[simp] theorem State.setCore_inv (c : Nat) (x : Core) : (s.setCore c x).inv = s.inv := rfl
@[simp] theorem State.setCore_atsDone (c : Nat) (x : Core) : (s.setCore c x).atsDone = s.atsDone := rfl
@[simp] theorem State.setCore_invBytes (c : Nat) (x : Core) : (s.setCore c x).invBytes = s.invBytes := rfl
@[simp] theorem State.setCore_frbase (c : Nat) (x : Core) : (s.setCore c x).frbase = s.frbase := rfl
@[simp] theorem State.setCore_frsize (c : Nat) (x : Core) : (s.setCore c x).frsize = s.frsize := rfl
@[simp] theorem State.setCore_frhead (c : Nat) (x : Core) : (s.setCore c x).frhead = s.frhead := rfl
@[simp] theorem State.setCore_frtail (c : Nat) (x : Core) : (s.setCore c x).frtail = s.frtail := rfl
@[simp] theorem State.setCore_erbase (c : Nat) (x : Core) : (s.setCore c x).erbase = s.erbase := rfl
@[simp] theorem State.setCore_ersize (c : Nat) (x : Core) : (s.setCore c x).ersize = s.ersize := rfl
@[simp] theorem State.setCore_erhead (c : Nat) (x : Core) : (s.setCore c x).erhead = s.erhead := rfl
@[simp] theorem State.setCore_ertail (c : Nat) (x : Core) : (s.setCore c x).ertail = s.ertail := rfl
@[simp] theorem State.setCore_erdropped (c : Nat) (x : Core) : (s.setCore c x).erdropped = s.erdropped := rfl
@[simp] theorem State.setCore_msix (c : Nat) (x : Core) : (s.setCore c x).msix = s.msix := rfl
@[simp] theorem State.setCore_pwin (c : Nat) (x : Core) : (s.setCore c x).pwin = s.pwin := rfl
@[simp] theorem State.setCore_ports (c : Nat) (x : Core) : (s.setCore c x).ports = s.ports := rfl
@[simp] theorem State.setCore_mapGen (c : Nat) (x : Core) : (s.setCore c x).mapGen = s.mapGen := rfl
@[simp] theorem State.setCore_dead (c : Nat) (x : Core) : (s.setCore c x).dead = s.dead := rfl
@[simp] theorem State.setCore_therm (c : Nat) (x : Core) : (s.setCore c x).therm = s.therm := rfl
@[simp] theorem State.setCore_remap (c : Nat) (x : Core) : (s.setCore c x).remap = s.remap := rfl
@[simp] theorem State.setCore_counters (c : Nat) (x : Core) : (s.setCore c x).counters = s.counters := rfl
@[simp] theorem State.setCore_laneMaps (c : Nat) (x : Core) : (s.setCore c x).laneMaps = s.laneMaps := rfl
@[simp] theorem State.setCore_arrayLog (c : Nat) (x : Core) : (s.setCore c x).arrayLog = s.arrayLog := rfl
@[simp] theorem State.setCore_busLog (c : Nat) (x : Core) : (s.setCore c x).busLog = s.busLog := rfl
@[simp] theorem State.setCore_bursts (c : Nat) (x : Core) : (s.setCore c x).bursts = s.bursts := rfl
@[simp] theorem State.setCore_badBursts (c : Nat) (x : Core) : (s.setCore c x).badBursts = s.badBursts := rfl
@[simp] theorem State.setCore_chanHold (c : Nat) (x : Core) : (s.setCore c x).chanHold = s.chanHold := rfl
@[simp] theorem State.setCore_clockRatio (c : Nat) (x : Core) : (s.setCore c x).clockRatio = s.clockRatio := rfl
@[simp] theorem State.setCore_ckpt (c : Nat) (x : Core) : (s.setCore c x).ckpt = s.ckpt := rfl
@[simp] theorem State.setCore_capbase (c : Nat) (x : Core) : (s.setCore c x).capbase = s.capbase := rfl
@[simp] theorem State.setCore_bankmapPa (c : Nat) (x : Core) : (s.setCore c x).bankmapPa = s.bankmapPa := rfl
@[simp] theorem State.setCore_statusPa (c : Nat) (x : Core) : (s.setCore c x).statusPa = s.statusPa := rfl
@[simp] theorem State.setCore_bankmapVa (c : Nat) (x : Core) : (s.setCore c x).bankmapVa = s.bankmapVa := rfl
@[simp] theorem State.setCore_moduleNo (c : Nat) (x : Core) : (s.setCore c x).moduleNo = s.moduleNo := rfl
@[simp] theorem State.setCore_pcie (c : Nat) (x : Core) : (s.setCore c x).pcie = s.pcie := rfl
@[simp] theorem State.setCore_bar4 (c : Nat) (x : Core) : (s.setCore c x).bar4 = s.bar4 := rfl
@[simp] theorem State.setCore_capGen (c : Nat) (x : Core) : (s.setCore c x).capGen = s.capGen := rfl
@[simp] theorem State.setCore_refcnt (c : Nat) (x : Core) : (s.setCore c x).refcnt = s.refcnt := rfl
@[simp] theorem State.setCore_clock (c : Nat) (x : Core) : (s.setCore c x).clock = s.clock := rfl
@[simp] theorem State.setCore_policies (c : Nat) (x : Core) : (s.setCore c x).policies = s.policies := rfl
@[simp] theorem State.setCore_sseq (c : Nat) (x : Core) : (s.setCore c x).sseq = s.sseq := rfl
@[simp] theorem State.setCore_stamps (c : Nat) (x : Core) : (s.setCore c x).stamps = s.stamps := rfl
@[simp] theorem State.setCore_leasexs (c : Nat) (x : Core) : (s.setCore c x).leasexs = s.leasexs := rfl
@[simp] theorem State.setCore_arrivals (c : Nat) (x : Core) : (s.setCore c x).arrivals = s.arrivals := rfl
@[simp] theorem State.setCore_warnings (c : Nat) (x : Core) : (s.setCore c x).warnings = s.warnings := rfl
@[simp] theorem State.setCore_debugLevel (c : Nat) (x : Core) : (s.setCore c x).debugLevel = s.debugLevel := rfl
@[simp] theorem State.setCore_windowReads (c : Nat) (x : Core) : (s.setCore c x).windowReads = s.windowReads := rfl
@[simp] theorem State.setCore_peerAnswers (c : Nat) (x : Core) : (s.setCore c x).peerAnswers = s.peerAnswers := rfl
@[simp] theorem State.setCore_reports (c : Nat) (x : Core) : (s.setCore c x).reports = s.reports := rfl
@[simp] theorem State.setCore_firmware (c : Nat) (x : Core) : (s.setCore c x).firmware = s.firmware := rfl
@[simp] theorem State.setCore_keyHashes (c : Nat) (x : Core) : (s.setCore c x).keyHashes = s.keyHashes := rfl
@[simp] theorem State.setCore_revoked (c : Nat) (x : Core) : (s.setCore c x).revoked = s.revoked := rfl
@[simp] theorem State.setCore_leastVersion (c : Nat) (x : Core) : (s.setCore c x).leastVersion = s.leastVersion := rfl
@[simp] theorem State.setCore_focus (c : Nat) (x : Core) : (s.setCore c x).focus = s.focus := rfl
@[simp] theorem State.setCore_turns (c : Nat) (x : Core) : (s.setCore c x).turns = s.turns := rfl
@[simp] theorem State.setCore_beat (c : Nat) (x : Core) : (s.setCore c x).beat = s.beat := rfl
@[simp] theorem State.setCore_freeCount (c : Nat) (x : Core) : (s.setCore c x).freeCount = s.freeCount := rfl

/-! ## setQueue -/

@[simp] theorem State.setQueue_harts (q : Nat) (x : Queue) : (s.setQueue q x).harts = s.harts := rfl
@[simp] theorem State.setQueue_cores (q : Nat) (x : Queue) : (s.setQueue q x).cores = s.cores := rfl
@[simp] theorem State.setQueue_mem (q : Nat) (x : Queue) : (s.setQueue q x).mem = s.mem := rfl
@[simp] theorem State.setQueue_wrote (q : Nat) (x : Queue) : (s.setQueue q x).wrote = s.wrote := rfl
@[simp] theorem State.setQueue_poison (q : Nat) (x : Queue) : (s.setQueue q x).poison = s.poison := rfl
@[simp] theorem State.setQueue_found (q : Nat) (x : Queue) : (s.setQueue q x).found = s.found := rfl
@[simp] theorem State.setQueue_sealed (q : Nat) (x : Queue) : (s.setQueue q x).sealed = s.sealed := rfl
@[simp] theorem State.setQueue_stamped (q : Nat) (x : Queue) : (s.setQueue q x).stamped = s.stamped := rfl
@[simp] theorem State.setQueue_hostMem (q : Nat) (x : Queue) : (s.setQueue q x).hostMem = s.hostMem := rfl
@[simp] theorem State.setQueue_hostAns (q : Nat) (x : Queue) : (s.setQueue q x).hostAns = s.hostAns := rfl
@[simp] theorem State.setQueue_peerMem (q : Nat) (x : Queue) : (s.setQueue q x).peerMem = s.peerMem := rfl
@[simp] theorem State.setQueue_peerAns (q : Nat) (x : Queue) : (s.setQueue q x).peerAns = s.peerAns := rfl
@[simp] theorem State.setQueue_remote (q : Nat) (x : Queue) : (s.setQueue q x).remote = s.remote := rfl
@[simp] theorem State.setQueue_lines (q : Nat) (x : Queue) : (s.setQueue q x).lines = s.lines := rfl
@[simp] theorem State.setQueue_held (q : Nat) (x : Queue) : (s.setQueue q x).held = s.held := rfl
@[simp] theorem State.setQueue_units (q : Nat) (x : Queue) : (s.setQueue q x).units = s.units := rfl
@[simp] theorem State.setQueue_contexts (q : Nat) (x : Queue) : (s.setQueue q x).contexts = s.contexts := rfl
@[simp] theorem State.setQueue_ptr (q : Nat) (x : Queue) : (s.setQueue q x).ptr = s.ptr := rfl
@[simp] theorem State.setQueue_launches (q : Nat) (x : Queue) : (s.setQueue q x).launches = s.launches := rfl
@[simp] theorem State.setQueue_nextLaunch (q : Nat) (x : Queue) : (s.setQueue q x).nextLaunch = s.nextLaunch := rfl
@[simp] theorem State.setQueue_agep (q : Nat) (x : Queue) : (s.setQueue q x).agep = s.agep := rfl
@[simp] theorem State.setQueue_heatctl (q : Nat) (x : Queue) : (s.setQueue q x).heatctl = s.heatctl := rfl
@[simp] theorem State.setQueue_rotStart (q : Nat) (x : Queue) : (s.setQueue q x).rotStart = s.rotStart := rfl
@[simp] theorem State.setQueue_pwrctl (q : Nat) (x : Queue) : (s.setQueue q x).pwrctl = s.pwrctl := rfl
@[simp] theorem State.setQueue_ramp (q : Nat) (x : Queue) : (s.setQueue q x).ramp = s.ramp := rfl
@[simp] theorem State.setQueue_pwrWrites (q : Nat) (x : Queue) : (s.setQueue q x).pwrWrites = s.pwrWrites := rfl
@[simp] theorem State.setQueue_rampWrites (q : Nat) (x : Queue) : (s.setQueue q x).rampWrites = s.rampWrites := rfl
@[simp] theorem State.setQueue_activity (q : Nat) (x : Queue) : (s.setQueue q x).activity = s.activity := rfl
@[simp] theorem State.setQueue_starts (q : Nat) (x : Queue) : (s.setQueue q x).starts = s.starts := rfl
@[simp] theorem State.setQueue_stops (q : Nat) (x : Queue) : (s.setQueue q x).stops = s.stops := rfl
@[simp] theorem State.setQueue_pstate (q : Nat) (x : Queue) : (s.setQueue q x).pstate = s.pstate := rfl
@[simp] theorem State.setQueue_pstateReq (q : Nat) (x : Queue) : (s.setQueue q x).pstateReq = s.pstateReq := rfl
@[simp] theorem State.setQueue_rstBusy (q : Nat) (x : Queue) : (s.setQueue q x).rstBusy = s.rstBusy := rfl
@[simp] theorem State.setQueue_rstScope (q : Nat) (x : Queue) : (s.setQueue q x).rstScope = s.rstScope := rfl
@[simp] theorem State.setQueue_rstPending (q : Nat) (x : Queue) : (s.setQueue q x).rstPending = s.rstPending := rfl
@[simp] theorem State.setQueue_inv (q : Nat) (x : Queue) : (s.setQueue q x).inv = s.inv := rfl
@[simp] theorem State.setQueue_atsDone (q : Nat) (x : Queue) : (s.setQueue q x).atsDone = s.atsDone := rfl
@[simp] theorem State.setQueue_invBytes (q : Nat) (x : Queue) : (s.setQueue q x).invBytes = s.invBytes := rfl
@[simp] theorem State.setQueue_frbase (q : Nat) (x : Queue) : (s.setQueue q x).frbase = s.frbase := rfl
@[simp] theorem State.setQueue_frsize (q : Nat) (x : Queue) : (s.setQueue q x).frsize = s.frsize := rfl
@[simp] theorem State.setQueue_frhead (q : Nat) (x : Queue) : (s.setQueue q x).frhead = s.frhead := rfl
@[simp] theorem State.setQueue_frtail (q : Nat) (x : Queue) : (s.setQueue q x).frtail = s.frtail := rfl
@[simp] theorem State.setQueue_erbase (q : Nat) (x : Queue) : (s.setQueue q x).erbase = s.erbase := rfl
@[simp] theorem State.setQueue_ersize (q : Nat) (x : Queue) : (s.setQueue q x).ersize = s.ersize := rfl
@[simp] theorem State.setQueue_erhead (q : Nat) (x : Queue) : (s.setQueue q x).erhead = s.erhead := rfl
@[simp] theorem State.setQueue_ertail (q : Nat) (x : Queue) : (s.setQueue q x).ertail = s.ertail := rfl
@[simp] theorem State.setQueue_erdropped (q : Nat) (x : Queue) : (s.setQueue q x).erdropped = s.erdropped := rfl
@[simp] theorem State.setQueue_msix (q : Nat) (x : Queue) : (s.setQueue q x).msix = s.msix := rfl
@[simp] theorem State.setQueue_pwin (q : Nat) (x : Queue) : (s.setQueue q x).pwin = s.pwin := rfl
@[simp] theorem State.setQueue_ports (q : Nat) (x : Queue) : (s.setQueue q x).ports = s.ports := rfl
@[simp] theorem State.setQueue_mapGen (q : Nat) (x : Queue) : (s.setQueue q x).mapGen = s.mapGen := rfl
@[simp] theorem State.setQueue_dead (q : Nat) (x : Queue) : (s.setQueue q x).dead = s.dead := rfl
@[simp] theorem State.setQueue_therm (q : Nat) (x : Queue) : (s.setQueue q x).therm = s.therm := rfl
@[simp] theorem State.setQueue_remap (q : Nat) (x : Queue) : (s.setQueue q x).remap = s.remap := rfl
@[simp] theorem State.setQueue_counters (q : Nat) (x : Queue) : (s.setQueue q x).counters = s.counters := rfl
@[simp] theorem State.setQueue_laneMaps (q : Nat) (x : Queue) : (s.setQueue q x).laneMaps = s.laneMaps := rfl
@[simp] theorem State.setQueue_arrayLog (q : Nat) (x : Queue) : (s.setQueue q x).arrayLog = s.arrayLog := rfl
@[simp] theorem State.setQueue_busLog (q : Nat) (x : Queue) : (s.setQueue q x).busLog = s.busLog := rfl
@[simp] theorem State.setQueue_bursts (q : Nat) (x : Queue) : (s.setQueue q x).bursts = s.bursts := rfl
@[simp] theorem State.setQueue_badBursts (q : Nat) (x : Queue) : (s.setQueue q x).badBursts = s.badBursts := rfl
@[simp] theorem State.setQueue_chanHold (q : Nat) (x : Queue) : (s.setQueue q x).chanHold = s.chanHold := rfl
@[simp] theorem State.setQueue_clockRatio (q : Nat) (x : Queue) : (s.setQueue q x).clockRatio = s.clockRatio := rfl
@[simp] theorem State.setQueue_ckpt (q : Nat) (x : Queue) : (s.setQueue q x).ckpt = s.ckpt := rfl
@[simp] theorem State.setQueue_capbase (q : Nat) (x : Queue) : (s.setQueue q x).capbase = s.capbase := rfl
@[simp] theorem State.setQueue_bankmapPa (q : Nat) (x : Queue) : (s.setQueue q x).bankmapPa = s.bankmapPa := rfl
@[simp] theorem State.setQueue_statusPa (q : Nat) (x : Queue) : (s.setQueue q x).statusPa = s.statusPa := rfl
@[simp] theorem State.setQueue_bankmapVa (q : Nat) (x : Queue) : (s.setQueue q x).bankmapVa = s.bankmapVa := rfl
@[simp] theorem State.setQueue_moduleNo (q : Nat) (x : Queue) : (s.setQueue q x).moduleNo = s.moduleNo := rfl
@[simp] theorem State.setQueue_pcie (q : Nat) (x : Queue) : (s.setQueue q x).pcie = s.pcie := rfl
@[simp] theorem State.setQueue_bar4 (q : Nat) (x : Queue) : (s.setQueue q x).bar4 = s.bar4 := rfl
@[simp] theorem State.setQueue_capGen (q : Nat) (x : Queue) : (s.setQueue q x).capGen = s.capGen := rfl
@[simp] theorem State.setQueue_refcnt (q : Nat) (x : Queue) : (s.setQueue q x).refcnt = s.refcnt := rfl
@[simp] theorem State.setQueue_clock (q : Nat) (x : Queue) : (s.setQueue q x).clock = s.clock := rfl
@[simp] theorem State.setQueue_policies (q : Nat) (x : Queue) : (s.setQueue q x).policies = s.policies := rfl
@[simp] theorem State.setQueue_sseq (q : Nat) (x : Queue) : (s.setQueue q x).sseq = s.sseq := rfl
@[simp] theorem State.setQueue_stamps (q : Nat) (x : Queue) : (s.setQueue q x).stamps = s.stamps := rfl
@[simp] theorem State.setQueue_leasexs (q : Nat) (x : Queue) : (s.setQueue q x).leasexs = s.leasexs := rfl
@[simp] theorem State.setQueue_arrivals (q : Nat) (x : Queue) : (s.setQueue q x).arrivals = s.arrivals := rfl
@[simp] theorem State.setQueue_warnings (q : Nat) (x : Queue) : (s.setQueue q x).warnings = s.warnings := rfl
@[simp] theorem State.setQueue_debugLevel (q : Nat) (x : Queue) : (s.setQueue q x).debugLevel = s.debugLevel := rfl
@[simp] theorem State.setQueue_windowReads (q : Nat) (x : Queue) : (s.setQueue q x).windowReads = s.windowReads := rfl
@[simp] theorem State.setQueue_peerAnswers (q : Nat) (x : Queue) : (s.setQueue q x).peerAnswers = s.peerAnswers := rfl
@[simp] theorem State.setQueue_reports (q : Nat) (x : Queue) : (s.setQueue q x).reports = s.reports := rfl
@[simp] theorem State.setQueue_firmware (q : Nat) (x : Queue) : (s.setQueue q x).firmware = s.firmware := rfl
@[simp] theorem State.setQueue_keyHashes (q : Nat) (x : Queue) : (s.setQueue q x).keyHashes = s.keyHashes := rfl
@[simp] theorem State.setQueue_revoked (q : Nat) (x : Queue) : (s.setQueue q x).revoked = s.revoked := rfl
@[simp] theorem State.setQueue_leastVersion (q : Nat) (x : Queue) : (s.setQueue q x).leastVersion = s.leastVersion := rfl
@[simp] theorem State.setQueue_focus (q : Nat) (x : Queue) : (s.setQueue q x).focus = s.focus := rfl
@[simp] theorem State.setQueue_turns (q : Nat) (x : Queue) : (s.setQueue q x).turns = s.turns := rfl
@[simp] theorem State.setQueue_beat (q : Nat) (x : Queue) : (s.setQueue q x).beat = s.beat := rfl
@[simp] theorem State.setQueue_freeCount (q : Nat) (x : Queue) : (s.setQueue q x).freeCount = s.freeCount := rfl

/-! ## setUnit -/

@[simp] theorem State.setUnit_harts (u : Nat) (x : XlatUnit) : (s.setUnit u x).harts = s.harts := rfl
@[simp] theorem State.setUnit_cores (u : Nat) (x : XlatUnit) : (s.setUnit u x).cores = s.cores := rfl
@[simp] theorem State.setUnit_mem (u : Nat) (x : XlatUnit) : (s.setUnit u x).mem = s.mem := rfl
@[simp] theorem State.setUnit_wrote (u : Nat) (x : XlatUnit) : (s.setUnit u x).wrote = s.wrote := rfl
@[simp] theorem State.setUnit_poison (u : Nat) (x : XlatUnit) : (s.setUnit u x).poison = s.poison := rfl
@[simp] theorem State.setUnit_found (u : Nat) (x : XlatUnit) : (s.setUnit u x).found = s.found := rfl
@[simp] theorem State.setUnit_sealed (u : Nat) (x : XlatUnit) : (s.setUnit u x).sealed = s.sealed := rfl
@[simp] theorem State.setUnit_stamped (u : Nat) (x : XlatUnit) : (s.setUnit u x).stamped = s.stamped := rfl
@[simp] theorem State.setUnit_hostMem (u : Nat) (x : XlatUnit) : (s.setUnit u x).hostMem = s.hostMem := rfl
@[simp] theorem State.setUnit_hostAns (u : Nat) (x : XlatUnit) : (s.setUnit u x).hostAns = s.hostAns := rfl
@[simp] theorem State.setUnit_peerMem (u : Nat) (x : XlatUnit) : (s.setUnit u x).peerMem = s.peerMem := rfl
@[simp] theorem State.setUnit_peerAns (u : Nat) (x : XlatUnit) : (s.setUnit u x).peerAns = s.peerAns := rfl
@[simp] theorem State.setUnit_remote (u : Nat) (x : XlatUnit) : (s.setUnit u x).remote = s.remote := rfl
@[simp] theorem State.setUnit_lines (u : Nat) (x : XlatUnit) : (s.setUnit u x).lines = s.lines := rfl
@[simp] theorem State.setUnit_held (u : Nat) (x : XlatUnit) : (s.setUnit u x).held = s.held := rfl
@[simp] theorem State.setUnit_contexts (u : Nat) (x : XlatUnit) : (s.setUnit u x).contexts = s.contexts := rfl
@[simp] theorem State.setUnit_queues (u : Nat) (x : XlatUnit) : (s.setUnit u x).queues = s.queues := rfl
@[simp] theorem State.setUnit_ptr (u : Nat) (x : XlatUnit) : (s.setUnit u x).ptr = s.ptr := rfl
@[simp] theorem State.setUnit_launches (u : Nat) (x : XlatUnit) : (s.setUnit u x).launches = s.launches := rfl
@[simp] theorem State.setUnit_nextLaunch (u : Nat) (x : XlatUnit) : (s.setUnit u x).nextLaunch = s.nextLaunch := rfl
@[simp] theorem State.setUnit_agep (u : Nat) (x : XlatUnit) : (s.setUnit u x).agep = s.agep := rfl
@[simp] theorem State.setUnit_heatctl (u : Nat) (x : XlatUnit) : (s.setUnit u x).heatctl = s.heatctl := rfl
@[simp] theorem State.setUnit_rotStart (u : Nat) (x : XlatUnit) : (s.setUnit u x).rotStart = s.rotStart := rfl
@[simp] theorem State.setUnit_pwrctl (u : Nat) (x : XlatUnit) : (s.setUnit u x).pwrctl = s.pwrctl := rfl
@[simp] theorem State.setUnit_ramp (u : Nat) (x : XlatUnit) : (s.setUnit u x).ramp = s.ramp := rfl
@[simp] theorem State.setUnit_pwrWrites (u : Nat) (x : XlatUnit) : (s.setUnit u x).pwrWrites = s.pwrWrites := rfl
@[simp] theorem State.setUnit_rampWrites (u : Nat) (x : XlatUnit) : (s.setUnit u x).rampWrites = s.rampWrites := rfl
@[simp] theorem State.setUnit_activity (u : Nat) (x : XlatUnit) : (s.setUnit u x).activity = s.activity := rfl
@[simp] theorem State.setUnit_starts (u : Nat) (x : XlatUnit) : (s.setUnit u x).starts = s.starts := rfl
@[simp] theorem State.setUnit_stops (u : Nat) (x : XlatUnit) : (s.setUnit u x).stops = s.stops := rfl
@[simp] theorem State.setUnit_pstate (u : Nat) (x : XlatUnit) : (s.setUnit u x).pstate = s.pstate := rfl
@[simp] theorem State.setUnit_pstateReq (u : Nat) (x : XlatUnit) : (s.setUnit u x).pstateReq = s.pstateReq := rfl
@[simp] theorem State.setUnit_rstBusy (u : Nat) (x : XlatUnit) : (s.setUnit u x).rstBusy = s.rstBusy := rfl
@[simp] theorem State.setUnit_rstScope (u : Nat) (x : XlatUnit) : (s.setUnit u x).rstScope = s.rstScope := rfl
@[simp] theorem State.setUnit_rstPending (u : Nat) (x : XlatUnit) : (s.setUnit u x).rstPending = s.rstPending := rfl
@[simp] theorem State.setUnit_inv (u : Nat) (x : XlatUnit) : (s.setUnit u x).inv = s.inv := rfl
@[simp] theorem State.setUnit_atsDone (u : Nat) (x : XlatUnit) : (s.setUnit u x).atsDone = s.atsDone := rfl
@[simp] theorem State.setUnit_invBytes (u : Nat) (x : XlatUnit) : (s.setUnit u x).invBytes = s.invBytes := rfl
@[simp] theorem State.setUnit_frbase (u : Nat) (x : XlatUnit) : (s.setUnit u x).frbase = s.frbase := rfl
@[simp] theorem State.setUnit_frsize (u : Nat) (x : XlatUnit) : (s.setUnit u x).frsize = s.frsize := rfl
@[simp] theorem State.setUnit_frhead (u : Nat) (x : XlatUnit) : (s.setUnit u x).frhead = s.frhead := rfl
@[simp] theorem State.setUnit_frtail (u : Nat) (x : XlatUnit) : (s.setUnit u x).frtail = s.frtail := rfl
@[simp] theorem State.setUnit_erbase (u : Nat) (x : XlatUnit) : (s.setUnit u x).erbase = s.erbase := rfl
@[simp] theorem State.setUnit_ersize (u : Nat) (x : XlatUnit) : (s.setUnit u x).ersize = s.ersize := rfl
@[simp] theorem State.setUnit_erhead (u : Nat) (x : XlatUnit) : (s.setUnit u x).erhead = s.erhead := rfl
@[simp] theorem State.setUnit_ertail (u : Nat) (x : XlatUnit) : (s.setUnit u x).ertail = s.ertail := rfl
@[simp] theorem State.setUnit_erdropped (u : Nat) (x : XlatUnit) : (s.setUnit u x).erdropped = s.erdropped := rfl
@[simp] theorem State.setUnit_msix (u : Nat) (x : XlatUnit) : (s.setUnit u x).msix = s.msix := rfl
@[simp] theorem State.setUnit_pwin (u : Nat) (x : XlatUnit) : (s.setUnit u x).pwin = s.pwin := rfl
@[simp] theorem State.setUnit_ports (u : Nat) (x : XlatUnit) : (s.setUnit u x).ports = s.ports := rfl
@[simp] theorem State.setUnit_mapGen (u : Nat) (x : XlatUnit) : (s.setUnit u x).mapGen = s.mapGen := rfl
@[simp] theorem State.setUnit_dead (u : Nat) (x : XlatUnit) : (s.setUnit u x).dead = s.dead := rfl
@[simp] theorem State.setUnit_therm (u : Nat) (x : XlatUnit) : (s.setUnit u x).therm = s.therm := rfl
@[simp] theorem State.setUnit_remap (u : Nat) (x : XlatUnit) : (s.setUnit u x).remap = s.remap := rfl
@[simp] theorem State.setUnit_counters (u : Nat) (x : XlatUnit) : (s.setUnit u x).counters = s.counters := rfl
@[simp] theorem State.setUnit_laneMaps (u : Nat) (x : XlatUnit) : (s.setUnit u x).laneMaps = s.laneMaps := rfl
@[simp] theorem State.setUnit_arrayLog (u : Nat) (x : XlatUnit) : (s.setUnit u x).arrayLog = s.arrayLog := rfl
@[simp] theorem State.setUnit_busLog (u : Nat) (x : XlatUnit) : (s.setUnit u x).busLog = s.busLog := rfl
@[simp] theorem State.setUnit_bursts (u : Nat) (x : XlatUnit) : (s.setUnit u x).bursts = s.bursts := rfl
@[simp] theorem State.setUnit_badBursts (u : Nat) (x : XlatUnit) : (s.setUnit u x).badBursts = s.badBursts := rfl
@[simp] theorem State.setUnit_chanHold (u : Nat) (x : XlatUnit) : (s.setUnit u x).chanHold = s.chanHold := rfl
@[simp] theorem State.setUnit_clockRatio (u : Nat) (x : XlatUnit) : (s.setUnit u x).clockRatio = s.clockRatio := rfl
@[simp] theorem State.setUnit_ckpt (u : Nat) (x : XlatUnit) : (s.setUnit u x).ckpt = s.ckpt := rfl
@[simp] theorem State.setUnit_capbase (u : Nat) (x : XlatUnit) : (s.setUnit u x).capbase = s.capbase := rfl
@[simp] theorem State.setUnit_bankmapPa (u : Nat) (x : XlatUnit) : (s.setUnit u x).bankmapPa = s.bankmapPa := rfl
@[simp] theorem State.setUnit_statusPa (u : Nat) (x : XlatUnit) : (s.setUnit u x).statusPa = s.statusPa := rfl
@[simp] theorem State.setUnit_bankmapVa (u : Nat) (x : XlatUnit) : (s.setUnit u x).bankmapVa = s.bankmapVa := rfl
@[simp] theorem State.setUnit_moduleNo (u : Nat) (x : XlatUnit) : (s.setUnit u x).moduleNo = s.moduleNo := rfl
@[simp] theorem State.setUnit_pcie (u : Nat) (x : XlatUnit) : (s.setUnit u x).pcie = s.pcie := rfl
@[simp] theorem State.setUnit_bar4 (u : Nat) (x : XlatUnit) : (s.setUnit u x).bar4 = s.bar4 := rfl
@[simp] theorem State.setUnit_capGen (u : Nat) (x : XlatUnit) : (s.setUnit u x).capGen = s.capGen := rfl
@[simp] theorem State.setUnit_refcnt (u : Nat) (x : XlatUnit) : (s.setUnit u x).refcnt = s.refcnt := rfl
@[simp] theorem State.setUnit_clock (u : Nat) (x : XlatUnit) : (s.setUnit u x).clock = s.clock := rfl
@[simp] theorem State.setUnit_policies (u : Nat) (x : XlatUnit) : (s.setUnit u x).policies = s.policies := rfl
@[simp] theorem State.setUnit_sseq (u : Nat) (x : XlatUnit) : (s.setUnit u x).sseq = s.sseq := rfl
@[simp] theorem State.setUnit_stamps (u : Nat) (x : XlatUnit) : (s.setUnit u x).stamps = s.stamps := rfl
@[simp] theorem State.setUnit_leasexs (u : Nat) (x : XlatUnit) : (s.setUnit u x).leasexs = s.leasexs := rfl
@[simp] theorem State.setUnit_arrivals (u : Nat) (x : XlatUnit) : (s.setUnit u x).arrivals = s.arrivals := rfl
@[simp] theorem State.setUnit_warnings (u : Nat) (x : XlatUnit) : (s.setUnit u x).warnings = s.warnings := rfl
@[simp] theorem State.setUnit_debugLevel (u : Nat) (x : XlatUnit) : (s.setUnit u x).debugLevel = s.debugLevel := rfl
@[simp] theorem State.setUnit_windowReads (u : Nat) (x : XlatUnit) : (s.setUnit u x).windowReads = s.windowReads := rfl
@[simp] theorem State.setUnit_peerAnswers (u : Nat) (x : XlatUnit) : (s.setUnit u x).peerAnswers = s.peerAnswers := rfl
@[simp] theorem State.setUnit_reports (u : Nat) (x : XlatUnit) : (s.setUnit u x).reports = s.reports := rfl
@[simp] theorem State.setUnit_firmware (u : Nat) (x : XlatUnit) : (s.setUnit u x).firmware = s.firmware := rfl
@[simp] theorem State.setUnit_keyHashes (u : Nat) (x : XlatUnit) : (s.setUnit u x).keyHashes = s.keyHashes := rfl
@[simp] theorem State.setUnit_revoked (u : Nat) (x : XlatUnit) : (s.setUnit u x).revoked = s.revoked := rfl
@[simp] theorem State.setUnit_leastVersion (u : Nat) (x : XlatUnit) : (s.setUnit u x).leastVersion = s.leastVersion := rfl
@[simp] theorem State.setUnit_focus (u : Nat) (x : XlatUnit) : (s.setUnit u x).focus = s.focus := rfl
@[simp] theorem State.setUnit_turns (u : Nat) (x : XlatUnit) : (s.setUnit u x).turns = s.turns := rfl
@[simp] theorem State.setUnit_beat (u : Nat) (x : XlatUnit) : (s.setUnit u x).beat = s.beat := rfl
@[simp] theorem State.setUnit_freeCount (u : Nat) (x : XlatUnit) : (s.setUnit u x).freeCount = s.freeCount := rfl

/-! ## setLaunch -/

@[simp] theorem State.setLaunch_harts (l : Nat) (x : Option Launch) : (s.setLaunch l x).harts = s.harts := rfl
@[simp] theorem State.setLaunch_cores (l : Nat) (x : Option Launch) : (s.setLaunch l x).cores = s.cores := rfl
@[simp] theorem State.setLaunch_mem (l : Nat) (x : Option Launch) : (s.setLaunch l x).mem = s.mem := rfl
@[simp] theorem State.setLaunch_wrote (l : Nat) (x : Option Launch) : (s.setLaunch l x).wrote = s.wrote := rfl
@[simp] theorem State.setLaunch_poison (l : Nat) (x : Option Launch) : (s.setLaunch l x).poison = s.poison := rfl
@[simp] theorem State.setLaunch_found (l : Nat) (x : Option Launch) : (s.setLaunch l x).found = s.found := rfl
@[simp] theorem State.setLaunch_sealed (l : Nat) (x : Option Launch) : (s.setLaunch l x).sealed = s.sealed := rfl
@[simp] theorem State.setLaunch_stamped (l : Nat) (x : Option Launch) : (s.setLaunch l x).stamped = s.stamped := rfl
@[simp] theorem State.setLaunch_hostMem (l : Nat) (x : Option Launch) : (s.setLaunch l x).hostMem = s.hostMem := rfl
@[simp] theorem State.setLaunch_hostAns (l : Nat) (x : Option Launch) : (s.setLaunch l x).hostAns = s.hostAns := rfl
@[simp] theorem State.setLaunch_peerMem (l : Nat) (x : Option Launch) : (s.setLaunch l x).peerMem = s.peerMem := rfl
@[simp] theorem State.setLaunch_peerAns (l : Nat) (x : Option Launch) : (s.setLaunch l x).peerAns = s.peerAns := rfl
@[simp] theorem State.setLaunch_remote (l : Nat) (x : Option Launch) : (s.setLaunch l x).remote = s.remote := rfl
@[simp] theorem State.setLaunch_lines (l : Nat) (x : Option Launch) : (s.setLaunch l x).lines = s.lines := rfl
@[simp] theorem State.setLaunch_held (l : Nat) (x : Option Launch) : (s.setLaunch l x).held = s.held := rfl
@[simp] theorem State.setLaunch_units (l : Nat) (x : Option Launch) : (s.setLaunch l x).units = s.units := rfl
@[simp] theorem State.setLaunch_contexts (l : Nat) (x : Option Launch) : (s.setLaunch l x).contexts = s.contexts := rfl
@[simp] theorem State.setLaunch_queues (l : Nat) (x : Option Launch) : (s.setLaunch l x).queues = s.queues := rfl
@[simp] theorem State.setLaunch_ptr (l : Nat) (x : Option Launch) : (s.setLaunch l x).ptr = s.ptr := rfl
@[simp] theorem State.setLaunch_nextLaunch (l : Nat) (x : Option Launch) : (s.setLaunch l x).nextLaunch = s.nextLaunch := rfl
@[simp] theorem State.setLaunch_agep (l : Nat) (x : Option Launch) : (s.setLaunch l x).agep = s.agep := rfl
@[simp] theorem State.setLaunch_heatctl (l : Nat) (x : Option Launch) : (s.setLaunch l x).heatctl = s.heatctl := rfl
@[simp] theorem State.setLaunch_rotStart (l : Nat) (x : Option Launch) : (s.setLaunch l x).rotStart = s.rotStart := rfl
@[simp] theorem State.setLaunch_pwrctl (l : Nat) (x : Option Launch) : (s.setLaunch l x).pwrctl = s.pwrctl := rfl
@[simp] theorem State.setLaunch_ramp (l : Nat) (x : Option Launch) : (s.setLaunch l x).ramp = s.ramp := rfl
@[simp] theorem State.setLaunch_pwrWrites (l : Nat) (x : Option Launch) : (s.setLaunch l x).pwrWrites = s.pwrWrites := rfl
@[simp] theorem State.setLaunch_rampWrites (l : Nat) (x : Option Launch) : (s.setLaunch l x).rampWrites = s.rampWrites := rfl
@[simp] theorem State.setLaunch_activity (l : Nat) (x : Option Launch) : (s.setLaunch l x).activity = s.activity := rfl
@[simp] theorem State.setLaunch_starts (l : Nat) (x : Option Launch) : (s.setLaunch l x).starts = s.starts := rfl
@[simp] theorem State.setLaunch_stops (l : Nat) (x : Option Launch) : (s.setLaunch l x).stops = s.stops := rfl
@[simp] theorem State.setLaunch_pstate (l : Nat) (x : Option Launch) : (s.setLaunch l x).pstate = s.pstate := rfl
@[simp] theorem State.setLaunch_pstateReq (l : Nat) (x : Option Launch) : (s.setLaunch l x).pstateReq = s.pstateReq := rfl
@[simp] theorem State.setLaunch_rstBusy (l : Nat) (x : Option Launch) : (s.setLaunch l x).rstBusy = s.rstBusy := rfl
@[simp] theorem State.setLaunch_rstScope (l : Nat) (x : Option Launch) : (s.setLaunch l x).rstScope = s.rstScope := rfl
@[simp] theorem State.setLaunch_rstPending (l : Nat) (x : Option Launch) : (s.setLaunch l x).rstPending = s.rstPending := rfl
@[simp] theorem State.setLaunch_inv (l : Nat) (x : Option Launch) : (s.setLaunch l x).inv = s.inv := rfl
@[simp] theorem State.setLaunch_atsDone (l : Nat) (x : Option Launch) : (s.setLaunch l x).atsDone = s.atsDone := rfl
@[simp] theorem State.setLaunch_invBytes (l : Nat) (x : Option Launch) : (s.setLaunch l x).invBytes = s.invBytes := rfl
@[simp] theorem State.setLaunch_frbase (l : Nat) (x : Option Launch) : (s.setLaunch l x).frbase = s.frbase := rfl
@[simp] theorem State.setLaunch_frsize (l : Nat) (x : Option Launch) : (s.setLaunch l x).frsize = s.frsize := rfl
@[simp] theorem State.setLaunch_frhead (l : Nat) (x : Option Launch) : (s.setLaunch l x).frhead = s.frhead := rfl
@[simp] theorem State.setLaunch_frtail (l : Nat) (x : Option Launch) : (s.setLaunch l x).frtail = s.frtail := rfl
@[simp] theorem State.setLaunch_erbase (l : Nat) (x : Option Launch) : (s.setLaunch l x).erbase = s.erbase := rfl
@[simp] theorem State.setLaunch_ersize (l : Nat) (x : Option Launch) : (s.setLaunch l x).ersize = s.ersize := rfl
@[simp] theorem State.setLaunch_erhead (l : Nat) (x : Option Launch) : (s.setLaunch l x).erhead = s.erhead := rfl
@[simp] theorem State.setLaunch_ertail (l : Nat) (x : Option Launch) : (s.setLaunch l x).ertail = s.ertail := rfl
@[simp] theorem State.setLaunch_erdropped (l : Nat) (x : Option Launch) : (s.setLaunch l x).erdropped = s.erdropped := rfl
@[simp] theorem State.setLaunch_msix (l : Nat) (x : Option Launch) : (s.setLaunch l x).msix = s.msix := rfl
@[simp] theorem State.setLaunch_pwin (l : Nat) (x : Option Launch) : (s.setLaunch l x).pwin = s.pwin := rfl
@[simp] theorem State.setLaunch_ports (l : Nat) (x : Option Launch) : (s.setLaunch l x).ports = s.ports := rfl
@[simp] theorem State.setLaunch_mapGen (l : Nat) (x : Option Launch) : (s.setLaunch l x).mapGen = s.mapGen := rfl
@[simp] theorem State.setLaunch_dead (l : Nat) (x : Option Launch) : (s.setLaunch l x).dead = s.dead := rfl
@[simp] theorem State.setLaunch_therm (l : Nat) (x : Option Launch) : (s.setLaunch l x).therm = s.therm := rfl
@[simp] theorem State.setLaunch_remap (l : Nat) (x : Option Launch) : (s.setLaunch l x).remap = s.remap := rfl
@[simp] theorem State.setLaunch_counters (l : Nat) (x : Option Launch) : (s.setLaunch l x).counters = s.counters := rfl
@[simp] theorem State.setLaunch_laneMaps (l : Nat) (x : Option Launch) : (s.setLaunch l x).laneMaps = s.laneMaps := rfl
@[simp] theorem State.setLaunch_arrayLog (l : Nat) (x : Option Launch) : (s.setLaunch l x).arrayLog = s.arrayLog := rfl
@[simp] theorem State.setLaunch_busLog (l : Nat) (x : Option Launch) : (s.setLaunch l x).busLog = s.busLog := rfl
@[simp] theorem State.setLaunch_bursts (l : Nat) (x : Option Launch) : (s.setLaunch l x).bursts = s.bursts := rfl
@[simp] theorem State.setLaunch_badBursts (l : Nat) (x : Option Launch) : (s.setLaunch l x).badBursts = s.badBursts := rfl
@[simp] theorem State.setLaunch_chanHold (l : Nat) (x : Option Launch) : (s.setLaunch l x).chanHold = s.chanHold := rfl
@[simp] theorem State.setLaunch_clockRatio (l : Nat) (x : Option Launch) : (s.setLaunch l x).clockRatio = s.clockRatio := rfl
@[simp] theorem State.setLaunch_ckpt (l : Nat) (x : Option Launch) : (s.setLaunch l x).ckpt = s.ckpt := rfl
@[simp] theorem State.setLaunch_capbase (l : Nat) (x : Option Launch) : (s.setLaunch l x).capbase = s.capbase := rfl
@[simp] theorem State.setLaunch_bankmapPa (l : Nat) (x : Option Launch) : (s.setLaunch l x).bankmapPa = s.bankmapPa := rfl
@[simp] theorem State.setLaunch_statusPa (l : Nat) (x : Option Launch) : (s.setLaunch l x).statusPa = s.statusPa := rfl
@[simp] theorem State.setLaunch_bankmapVa (l : Nat) (x : Option Launch) : (s.setLaunch l x).bankmapVa = s.bankmapVa := rfl
@[simp] theorem State.setLaunch_moduleNo (l : Nat) (x : Option Launch) : (s.setLaunch l x).moduleNo = s.moduleNo := rfl
@[simp] theorem State.setLaunch_pcie (l : Nat) (x : Option Launch) : (s.setLaunch l x).pcie = s.pcie := rfl
@[simp] theorem State.setLaunch_bar4 (l : Nat) (x : Option Launch) : (s.setLaunch l x).bar4 = s.bar4 := rfl
@[simp] theorem State.setLaunch_capGen (l : Nat) (x : Option Launch) : (s.setLaunch l x).capGen = s.capGen := rfl
@[simp] theorem State.setLaunch_refcnt (l : Nat) (x : Option Launch) : (s.setLaunch l x).refcnt = s.refcnt := rfl
@[simp] theorem State.setLaunch_clock (l : Nat) (x : Option Launch) : (s.setLaunch l x).clock = s.clock := rfl
@[simp] theorem State.setLaunch_policies (l : Nat) (x : Option Launch) : (s.setLaunch l x).policies = s.policies := rfl
@[simp] theorem State.setLaunch_sseq (l : Nat) (x : Option Launch) : (s.setLaunch l x).sseq = s.sseq := rfl
@[simp] theorem State.setLaunch_stamps (l : Nat) (x : Option Launch) : (s.setLaunch l x).stamps = s.stamps := rfl
@[simp] theorem State.setLaunch_leasexs (l : Nat) (x : Option Launch) : (s.setLaunch l x).leasexs = s.leasexs := rfl
@[simp] theorem State.setLaunch_arrivals (l : Nat) (x : Option Launch) : (s.setLaunch l x).arrivals = s.arrivals := rfl
@[simp] theorem State.setLaunch_warnings (l : Nat) (x : Option Launch) : (s.setLaunch l x).warnings = s.warnings := rfl
@[simp] theorem State.setLaunch_debugLevel (l : Nat) (x : Option Launch) : (s.setLaunch l x).debugLevel = s.debugLevel := rfl
@[simp] theorem State.setLaunch_windowReads (l : Nat) (x : Option Launch) : (s.setLaunch l x).windowReads = s.windowReads := rfl
@[simp] theorem State.setLaunch_peerAnswers (l : Nat) (x : Option Launch) : (s.setLaunch l x).peerAnswers = s.peerAnswers := rfl
@[simp] theorem State.setLaunch_reports (l : Nat) (x : Option Launch) : (s.setLaunch l x).reports = s.reports := rfl
@[simp] theorem State.setLaunch_firmware (l : Nat) (x : Option Launch) : (s.setLaunch l x).firmware = s.firmware := rfl
@[simp] theorem State.setLaunch_keyHashes (l : Nat) (x : Option Launch) : (s.setLaunch l x).keyHashes = s.keyHashes := rfl
@[simp] theorem State.setLaunch_revoked (l : Nat) (x : Option Launch) : (s.setLaunch l x).revoked = s.revoked := rfl
@[simp] theorem State.setLaunch_leastVersion (l : Nat) (x : Option Launch) : (s.setLaunch l x).leastVersion = s.leastVersion := rfl
@[simp] theorem State.setLaunch_focus (l : Nat) (x : Option Launch) : (s.setLaunch l x).focus = s.focus := rfl
@[simp] theorem State.setLaunch_turns (l : Nat) (x : Option Launch) : (s.setLaunch l x).turns = s.turns := rfl
@[simp] theorem State.setLaunch_beat (l : Nat) (x : Option Launch) : (s.setLaunch l x).beat = s.beat := rfl
@[simp] theorem State.setLaunch_freeCount (l : Nat) (x : Option Launch) : (s.setLaunch l x).freeCount = s.freeCount := rfl
/-! ## Reading a part after it has been replaced -/

@[simp] theorem State.hart_setHart (k : Nat) (h : Hart) : (s.setHart k h).hart k = h := Table.get_set_self s.harts k h
theorem State.hart_setHart_other {k j : Nat} (h : Hart) (hk : k ≠ j) : (s.setHart k h).hart j = s.hart j :=
  Table.get_set_other s.harts h hk
@[simp] theorem State.core_setCore (c : Nat) (x : Core) : (s.setCore c x).core c = x := Table.get_set_self s.cores c x
theorem State.core_setCore_other {c d : Nat} (x : Core) (hc : c ≠ d) : (s.setCore c x).core d = s.core d :=
  Table.get_set_other s.cores x hc
@[simp] theorem State.queue_setQueue (q : Nat) (x : Queue) : (s.setQueue q x).queue q = x :=
  Table.get_set_self s.queues q x
theorem State.queue_setQueue_other {q r : Nat} (x : Queue) (hq : q ≠ r) : (s.setQueue q x).queue r = s.queue r :=
  Table.get_set_other s.queues x hq
@[simp] theorem State.unit_setUnit (u : Nat) (x : XlatUnit) : (s.setUnit u x).unit u = x := Table.get_set_self s.units u x
theorem State.unit_setUnit_other {u v : Nat} (x : XlatUnit) (hu : u ≠ v) : (s.setUnit u x).unit v = s.unit v :=
  Table.get_set_other s.units x hu
@[simp] theorem State.hart_setCore (c : Nat) (x : Core) (k : Nat) : (s.setCore c x).hart k = s.hart k := rfl
@[simp] theorem State.core_setHart (k : Nat) (h : Hart) (c : Nat) : (s.setHart k h).core c = s.core c := rfl

/-! ## The hart whose word runs -/

@[simp] theorem State.cur_setCur (h : Hart) : (s.setCur h).cur = h := State.hart_setHart s s.focus h
@[simp] theorem State.focus_setCur (h : Hart) : (s.setCur h).focus = s.focus := rfl
@[simp] theorem State.freeCount_setCur (h : Hart) : (s.setCur h).freeCount = s.freeCount := rfl
@[simp] theorem State.mem_setCur (h : Hart) : (s.setCur h).mem = s.mem := rfl
@[simp] theorem State.cores_setCur (h : Hart) : (s.setCur h).cores = s.cores := rfl
@[simp] theorem State.core_setCur (h : Hart) (c : Nat) : (s.setCur h).core c = s.core c := rfl
@[simp] theorem State.curCore_setCur (h : Hart) : (s.setCur h).curCore = s.curCore := rfl
theorem State.hart_setCur_other (h : Hart) {k : Nat} (hk : k ≠ s.focus) : (s.setCur h).hart k = s.hart k :=
  State.hart_setHart_other s h (Ne.symm hk)

/-! ## Passing a word, waiting -/

@[simp] theorem State.pass_cur : s.pass.cur = { s.cur with seq := s.cur.seq.next } := State.cur_setCur s _
@[simp] theorem State.pass_mem : s.pass.mem = s.mem := rfl
@[simp] theorem State.pass_cores : s.pass.cores = s.cores := rfl
@[simp] theorem State.pass_focus : s.pass.focus = s.focus := rfl
@[simp] theorem State.hold_cur (w : Wait) : (s.hold w).cur = { s.cur with wait := some w } := State.cur_setCur s _
@[simp] theorem State.hold_mem (w : Wait) : (s.hold w).mem = s.mem := rfl
@[simp] theorem State.hold_cores (w : Wait) : (s.hold w).cores = s.cores := rfl
theorem Seq.next_pc (q : Seq) : q.next.pc = q.pc + 8 := by unfold Seq.next; split <;> rfl
theorem Seq.next_s (q : Seq) : q.next.s = q.s := by unfold Seq.next; split <;> rfl

end Sys2Proof.Machine
end

