-- ==== Sys2Proof/Laws/Memory.lean ====
section
/-! SUPPORT. The operations over memory keep its canonical form: one lemma per operation, from a physical write to a run of
accesses. What an operation answers is the state that the lemma speaks of. -/

namespace Sys2Proof.Machine

variable {s t : State}

/-! ## Parts of State that hold no memory -/

/-- A state whose three memories are those of `s`. -/
theorem State.MemoryOk.of_eq (h : s.MemoryOk) (h1 : t.mem = s.mem) (h2 : t.hostMem = s.hostMem) (h3 : t.peerMem = s.peerMem) :
    t.MemoryOk := ⟨h1 ▸ h.device, h2 ▸ h.host, h3 ▸ h.peer⟩

theorem State.MemoryOk.setUnit (h : s.MemoryOk) (u : Nat) (x : XlatUnit) : (s.setUnit u x).MemoryOk := h.of_eq rfl rfl rfl

theorem State.MemoryOk.setCore (h : s.MemoryOk) (c : Nat) (x : Core) : (s.setCore c x).MemoryOk := h.of_eq rfl rfl rfl

theorem State.MemoryOk.setHart (h : s.MemoryOk) (k : Nat) (x : Hart) : (s.setHart k x).MemoryOk := h.of_eq rfl rfl rfl

/-! ## Writes -/

theorem State.MemoryOk.devWrite (h : s.MemoryOk) (pa n v : Nat) : (s.devWrite pa n v).MemoryOk :=
  ⟨Memory.wf_store h.device pa n v, h.host, h.peer⟩

theorem State.MemoryOk.physWrite (h : s.MemoryOk) (pa n v : Nat) : (s.physWrite pa n v).MemoryOk := by
  unfold State.physWrite
  split
  · exact ⟨h.device, Memory.wf_store h.host _ n v, h.peer⟩
  · exact h.devWrite pa n v

theorem State.MemoryOk.noteWrite (h : s.MemoryOk) (agent : Nat) (m : BitVec 8) (p : Place) : (s.noteWrite agent m p).MemoryOk := by
  unfold State.noteWrite
  simp only
  split
  · exact h.of_eq rfl rfl rfl
  · exact h

theorem State.MemoryOk.noteRead (h : s.MemoryOk) (agent strm : Nat) (p : Place) : (s.noteRead agent strm p).MemoryOk := by
  unfold State.noteRead
  split
  · dsimp only
    split
    · exact h.of_eq rfl rfl rfl
    · exact h
  · exact h

theorem State.MemoryOk.writePlace (h0 : s.MemoryOk) (w : Who) (p : Place) (n v : Nat) : (writePlace s w p n v).MemoryOk := by
  have h := h0.noteWrite w.agent (bitOf 8 w.strm) p
  cases p with
  | pool c o => exact h.setCore _ _
  | dev pa =>
    simp only [Machine.writePlace]
    split <;> exact (h.devWrite pa n v).of_eq rfl rfl rfl
  | host a => exact ⟨h.device, Memory.wf_store h.host a n v, h.peer⟩
  | peer k a => exact ⟨h.device, h.host, Memory.wf_store h.peer a n v⟩
  | cap o => exact h
  | map o => exact h
  | status k o => exact h

theorem State.MemoryOk.fix (h : s.MemoryOk) (c : Nat) : (s.fix c).MemoryOk := by
  unfold State.fix
  split
  · split
    · exact h.setCore _ _
    · exact h
  · exact h

theorem State.MemoryOk.fixFor (h : s.MemoryOk) (w : Who) (p : Place) : (s.fixFor w p).MemoryOk := by
  unfold State.fixFor
  split
  · exact h.fix _
  · exact h

theorem State.MemoryOk.warnUninit (h : s.MemoryOk) (w : Who) (va : Word) (p : Place) (n : Nat) :
    (warnUninit s w va p n).MemoryOk := by
  unfold Machine.warnUninit
  split
  · split
    · exact h
    · exact h.of_eq rfl rfl rfl
  · exact h

/-! ## Translations (R267) -/

theorem State.MemoryOk.updateAD (h : s.MemoryOk) {e : Nat} {p q : Word} {k : Nat} (he : updateAD s e p k = .ok (t, q)) :
    t.MemoryOk := by
  unfold Machine.updateAD at he
  simp only at he
  generalize (p ||| 0x40 ||| if kindStores k then 0x80 else 0) = new at he
  split at he
  · cases he; exact h
  · split at he
    · cases he
    · cases he; exact h.physWrite _ _ _

theorem State.MemoryOk.keepAts (h : s.MemoryOk) (u : Nat) (asid : BitVec 16) (va : Nat) (ps : List Nat) :
    (s.keepAts u asid va ps).MemoryOk := by
  unfold State.keepAts
  split
  · exact h
  · exact h.setUnit _ _

theorem State.MemoryOk.walkBy (h : s.MemoryOk) {post : Nat} {asid : BitVec 16} {b : WalkStart} {va k : Nat} {l : Bool} {x : Leaf}
    (hw : walkBy s post asid b va k l = .ok (t, x)) : t.MemoryOk := by
  unfold Machine.walkBy at hw
  split at hw
  · cases hw
  · split at hw
    · cases hw
    · split at hw
      · cases hw
      · split at hw
        · cases hw
        · rename_i he
          cases hw
          exact ((h.updateAD he).setUnit _ _).keepAts _ _ _ _

theorem State.MemoryOk.walk (h : s.MemoryOk) {post : Nat} {asid : BitVec 16} {root : Word} {va k : Nat} {l : Bool} {x : Leaf}
    (hw : walk s post asid root va k l = .ok (t, x)) : t.MemoryOk := h.walkBy hw

theorem State.MemoryOk.translateUnit (h : s.MemoryOk) {post : Nat} {asid : BitVec 16} {root : Word} {va k : Nat} {l : Bool}
    {x : Leaf} (hw : translateUnit s post asid root va k l = .ok (t, x)) : t.MemoryOk := by
  unfold Machine.translateUnit at hw
  simp only at hw
  split at hw
  · exact h.walk hw
  · split at hw
    · cases hw
    · split at hw
      · cases hw
      · split at hw
        · split at hw
          · cases hw
          · split at hw
            · split at hw
              · cases hw
              · rename_i he
                cases hw
                exact (h.updateAD he).setUnit _ _
            · exact h.walkBy hw
        · cases hw; exact h

theorem State.MemoryOk.translate (h : s.MemoryOk) {post : Nat} {asid : BitVec 16} {root : Word} {va k : Nat} {l : Bool}
    {x : Leaf} (hw : translate s post asid root va k l = .ok (t, x)) : t.MemoryOk := by
  unfold Machine.translate at hw
  split at hw
  · split at hw
    · cases hw; exact h
    · exact h.translateUnit hw
  · exact h.translateUnit hw

/-! ## What a translation changes (R267) -/

/-- The states differ in what a walk of the page tables may change alone: the entries' A and D, and what the units hold. -/
def WalkOnly (s t : State) : Prop :=
  { t with mem := s.mem, hostMem := s.hostMem, poison := s.poison, found := s.found, stamped := s.stamped, units := s.units } = s

theorem WalkOnly.refl (s : State) : WalkOnly s s := rfl

theorem WalkOnly.trans {u : State} (h : WalkOnly s u) (g : WalkOnly u t) : WalkOnly s t := by
  unfold WalkOnly at *
  rw [← h, ← g]

theorem WalkOnly.harts (h : WalkOnly s t) : t.harts = s.harts :=
  have e : { t with mem := s.mem, hostMem := s.hostMem, poison := s.poison, found := s.found, stamped := s.stamped,
                    units := s.units } = s := h
  have g := congrArg State.harts e
  g

theorem WalkOnly.focus (h : WalkOnly s t) : t.focus = s.focus :=
  have e : { t with mem := s.mem, hostMem := s.hostMem, poison := s.poison, found := s.found, stamped := s.stamped,
                    units := s.units } = s := h
  have g := congrArg State.focus e
  g

theorem walkOnly_updateAD {e : Nat} {p q : Word} {k : Nat} (he : updateAD s e p k = .ok (t, q)) : WalkOnly s t := by
  unfold updateAD at he
  simp only at he
  generalize (p ||| 0x40 ||| if kindStores k then 0x80 else 0) = new at he
  split at he
  · cases he; rfl
  · split at he
    · cases he
    · cases he
      unfold State.physWrite
      split <;> rfl

theorem walkOnly_setUnit (u : Nat) (x : XlatUnit) : WalkOnly s (s.setUnit u x) := rfl

theorem walkOnly_keepAts (u : Nat) (asid : BitVec 16) (va : Nat) (ps : List Nat) : WalkOnly s (s.keepAts u asid va ps) := by
  unfold State.keepAts
  split <;> rfl

theorem walkOnly_walkBy {post : Nat} {asid : BitVec 16} {b : WalkStart} {va k : Nat} {l : Bool} {x : Leaf}
    (hw : walkBy s post asid b va k l = .ok (t, x)) : WalkOnly s t := by
  unfold walkBy at hw
  split at hw
  · cases hw
  · split at hw
    · cases hw
    · split at hw
      · cases hw
      · split at hw
        · cases hw
        · rename_i he
          cases hw
          exact ((walkOnly_updateAD he).trans (walkOnly_setUnit _ _)).trans (walkOnly_keepAts _ _ _ _)

theorem walkOnly_translateUnit {post : Nat} {asid : BitVec 16} {root : Word} {va k : Nat} {l : Bool} {x : Leaf}
    (hw : translateUnit s post asid root va k l = .ok (t, x)) : WalkOnly s t := by
  unfold translateUnit at hw
  simp only at hw
  split at hw
  · exact walkOnly_walkBy hw
  · split at hw
    · cases hw
    · split at hw
      · cases hw
      · split at hw
        · split at hw
          · cases hw
          · split at hw
            · split at hw
              · cases hw
              · rename_i he
                cases hw
                exact (walkOnly_updateAD he).trans (walkOnly_setUnit _ _)
            · exact walkOnly_walkBy hw
        · cases hw; rfl

theorem walkOnly_translate {post : Nat} {asid : BitVec 16} {root : Word} {va k : Nat} {l : Bool} {x : Leaf}
    (hw : translate s post asid root va k l = .ok (t, x)) : WalkOnly s t := by
  unfold translate at hw
  split at hw
  · split at hw
    · cases hw; rfl
    · exact walkOnly_translateUnit hw
  · exact walkOnly_translateUnit hw

/-! ## What a fault leaves of its walks (R266, R267) -/

theorem walkOnly_walkPage (w : Who) (k : Nat) (va : Word) : WalkOnly s (s.walkPage w k va) := by
  unfold State.walkPage
  split
  · rfl
  · split
    · rename_i h; exact walkOnly_translate h
    · rfl

theorem walkOnly_foldl {α : Type} {f : State → α → State} (h : ∀ u a, WalkOnly u (f u a)) :
    ∀ (l : List α) (s : State), WalkOnly s (l.foldl f s)
  | [], _ => rfl
  | a :: l, s => (h s a).trans (walkOnly_foldl h l (f s a))

theorem walkOnly_keepWalks (w : Who) (f : AccFault) : WalkOnly s (s.keepWalks w f) := by
  unfold State.keepWalks
  cases f.first <;> simp only <;> split
  · exact walkOnly_walkPage _ _ _
  · rfl
  · exact (walkOnly_foldl (fun u _ => walkOnly_walkPage (s := u) _ _ _) _ _).trans (walkOnly_walkPage _ _ _)
  · exact walkOnly_foldl (fun u _ => walkOnly_walkPage (s := u) _ _ _) _ _

theorem walkOnly_stackWalks (w : Who) (k : Nat) : ∀ (n : Nat) (a : Word) (s : State), WalkOnly s (State.stackWalks w k a n s)
  | 0, _, _ => rfl
  | n + 1, a, s => by
    unfold State.stackWalks
    split
    · exact (walkOnly_walkPage w k a).trans (walkOnly_stackWalks w k n (a + 8) _)
    · dsimp only
      split
      · exact walkOnly_walkPage w k a
      · rfl

/-! ## Accesses (R188) -/

/-- The states differ in the caches alone: the lines, the units' translations, and those of the peers. -/
def CachesOnly (u t : State) : Prop := { t with lines := u.lines, remote := u.remote, units := u.units } = u

theorem CachesOnly.memoryOk (h : CachesOnly s t) (hs : s.MemoryOk) : t.MemoryOk :=
  have e : { t with lines := s.lines, remote := s.remote, units := s.units } = s := h
  have h1 := congrArg State.mem e
  have h2 := congrArg State.hostMem e
  have h3 := congrArg State.peerMem e
  hs.of_eq h1 h2 h3

theorem cachesOnly_keep (post : Nat) (asid : BitVec 16) (va : Nat) (l : Leaf) (l1 : Option Nat) :
    CachesOnly s (s.keep post asid va l l1) := by
  unfold State.keep
  split <;> rfl

theorem cachesOnly_cacheLine (w : Who) (k : Nat) (va : Word) (l : Leaf) : CachesOnly s (s.cacheLine w k va l) := by
  unfold State.cacheLine State.keep
  simp only
  repeat' split
  all_goals rfl

theorem cachesOnly_cachedLine (c : Bool) (w : Who) (k : Nat) (va : Word) (l : Leaf) :
    CachesOnly s (if c then s.cacheLine w k va l else s) := by
  cases c
  · rfl
  · exact cachesOnly_cacheLine w k va l

theorem cachesOnly_askFor (w : Who) (va : Nat) (p : Place) : CachesOnly s (s.askFor w va p) := by
  unfold State.askFor State.askAts State.keepAts
  split
  · split <;> rfl
  · rfl

theorem CachesOnly.trans {u : State} (h : CachesOnly s u) (g : CachesOnly u t) : CachesOnly s t := by
  unfold CachesOnly at *
  rw [← h, ← g]

theorem cachesOnly_peerPlace {k : Nat} {win : PeerWindow} {kind : Nat} {va : Word} {l : Bool} {p : Place}
    (h : peerPlace s k win kind va l = .ok (t, p)) : CachesOnly s t := by
  unfold peerPlace State.remoteLeaf at h
  simp only at h
  split at h
  · cases h; rfl
  · split at h
    · cases h
    · rename_i hr
      split at h
      · split at hr
        · cases hr; cases h; rfl
        · split at hr
          · cases hr
          · cases hr; cases h; rfl
      · cases h

/-- What an access starts from: the state as it stands, or as its translation leaves it. -/
def Translated (s : State) (w : Who) (k : Nat) (va : Word) (u : State) : Prop :=
  u = s ∨ ∃ l, translate s (postOf w.core) w.asid w.ptroot va.toNat k w.handler = .ok (u, l)

/-- The check of an access answers the state of its translation, or the state that it found, but for the caches. -/
theorem memCheck_state {w : Who} {k : Nat} {va : Word} {n : Nat} {op : Option AmoOp} {p : Place}
    (h : memCheck s w k va n op = .ok (t, p)) : ∃ u, Translated s w k va u ∧ CachesOnly u t := by
  unfold memCheck at h
  split at h
  · split at h
    · cases h
    · cases h; exact ⟨s, .inl rfl, rfl⟩
  · simp only at h
    split at h
    · cases h
    · rename_i u q hf
      have ht : t = u := by
        generalize rowsCheck _ w k va n op q = r at h
        cases r <;> cases h
        rfl
      subst ht
      split at hf
      · exact ⟨s, .inl rfl, cachesOnly_peerPlace hf⟩
      · split at hf
        · cases hf
        · rename_i hl
          split at hf
          · cases hf
          · cases hf
            exact ⟨_, .inr ⟨_, hl⟩, (cachesOnly_cachedLine _ _ _ _ _).trans (cachesOnly_askFor _ _ _)⟩

/-- So does the check of an access to the pool or elsewhere. -/
theorem checkAccess_state {w : Who} {k : Nat} {va : Word} {n : Nat} {op : Option AmoOp} {p : Place}
    (h : checkAccess s w k va n op = .ok (t, p)) : ∃ u, Translated s w k va u ∧ CachesOnly u t := by
  unfold checkAccess at h
  split at h
  · cases h
  · split at h
    · cases h
    · split at h
      · simp only at h
        split at h
        · cases h
        · split at h
          · cases h
          · cases h; exact ⟨s, .inl rfl, rfl⟩
      · exact memCheck_state h

theorem State.MemoryOk.checkAccess (h : s.MemoryOk) {w : Who} {k : Nat} {va : Word} {n : Nat} {op : Option AmoOp} {p : Place}
    (hc : checkAccess s w k va n op = .ok (t, p)) : t.MemoryOk := by
  obtain ⟨u, rfl | ⟨l, hl⟩, hu⟩ := checkAccess_state hc
  · exact hu.memoryOk h
  · exact hu.memoryOk (h.translate hl)

theorem State.MemoryOk.loadAt (h : s.MemoryOk) {w : Who} {va : Word} {n v : Nat} (hc : loadAt s w va n = .ok (t, v)) :
    t.MemoryOk := by
  unfold Machine.loadAt at hc
  split at hc
  · cases hc
  · rename_i hk
    cases hc
    exact ((h.checkAccess hk).warnUninit _ _ _ _).noteRead _ _ _

theorem State.MemoryOk.storeAt (h : s.MemoryOk) {w : Who} {va : Word} {n v : Nat} (hc : storeAt s w va n v = .ok t) :
    t.MemoryOk := by
  unfold Machine.storeAt at hc
  split at hc
  · cases hc
  · rename_i hk
    cases hc
    exact ((h.checkAccess hk).writePlace _ _ _ _).fixFor _ _

theorem State.MemoryOk.atomicAt (h : s.MemoryOk) {w : Who} {op : AmoOp} {va : Word} {n v v2 m : Nat}
    (hc : atomicAt s w op va n v v2 = .ok (t, m)) : t.MemoryOk := by
  unfold Machine.atomicAt at hc
  split at hc
  · cases hc
  · rename_i hk
    cases hc
    exact (((h.checkAccess hk).warnUninit _ _ _ _).writePlace _ _ _ _).fixFor _ _

/-! ## Accesses made in parts (R100) -/

theorem State.MemoryOk.loadBytesAt {w : Who} {n : Nat} : ∀ {s : State} {va : Word} {v : Nat}, s.MemoryOk →
    loadBytesAt s w va n = .ok (t, v) → t.MemoryOk := by
  induction n with
  | zero => intro s va v h hc; cases hc; exact h
  | succ n ih =>
    intro s va v h hc
    unfold Machine.loadBytesAt at hc
    split at hc
    · cases hc
    · rename_i hl
      split at hc
      · cases hc
      · rename_i hr
        cases hc
        exact ih (h.loadAt hl) hr

theorem State.MemoryOk.storeBytesAt {w : Who} {n : Nat} : ∀ {s : State} {va : Word} {v : Nat}, s.MemoryOk →
    (storeBytesAt s w va n v).1.MemoryOk := by
  induction n with
  | zero => intro s va v h; exact h
  | succ n ih =>
    intro s va v h
    unfold Machine.storeBytesAt
    split
    · exact h
    · rename_i hl
      exact ih (h.storeAt hl)

theorem State.MemoryOk.readRun {w : Who} {g n : Nat} : ∀ {s : State} {va : Word} {bs : List Byte}, s.MemoryOk →
    readRun s w va g n = .ok (t, bs) → t.MemoryOk := by
  induction n with
  | zero => intro s va bs h hc; cases hc; exact h
  | succ n ih =>
    intro s va bs h hc
    unfold Machine.readRun at hc
    split at hc
    · cases hc
    · rename_i hl
      split at hc
      · cases hc
      · rename_i hr
        cases hc
        exact ih (h.loadAt hl) hr

theorem State.MemoryOk.writeRun {w : Who} {g n : Nat} : ∀ {s : State} {va : Word} {bs : List Byte}, s.MemoryOk →
    (writeRun s w va g n bs).1.MemoryOk := by
  induction n with
  | zero => intro s va bs h; exact h
  | succ n ih =>
    intro s va bs h
    unfold Machine.writeRun
    split
    · exact h
    · rename_i hl
      exact ih (h.storeAt hl)

end Sys2Proof.Machine
end

