-- ==== Sys2Proof/Laws/Words.lean ====
section
/-! SUPPORT. What the operations do through which words end: a register written, a word passed, retired, held or stopped.
Each lemma says all of it, for callers that would otherwise unfold the operation. -/

namespace Sys2Proof.Machine

/-! ## Sets of registers -/

theorem getLsbD_bitOf (w r j : Nat) : (bitOf w r).getLsbD j = (decide (j < w) && decide (r = j)) := by
  unfold bitOf
  rw [BitVec.getLsbD_ofNat, Nat.testBit_two_pow]

theorem getLsbD_setBit_self {w : Nat} (x : BitVec w) {r : Nat} (hr : r < w) (b : Bool) : (setBit x r b).getLsbD r = b := by
  unfold setBit
  cases b
  · simp [getLsbD_bitOf, hr]
  · simp [getLsbD_bitOf, hr]

theorem getLsbD_setBit_other {w : Nat} (x : BitVec w) {r j : Nat} (hj : r ≠ j) (b : Bool) :
    (setBit x r b).getLsbD j = x.getLsbD j := by
  unfold setBit
  cases b
  · simp only [Bool.false_eq_true, if_false, BitVec.getLsbD_and, BitVec.getLsbD_not, getLsbD_bitOf, hj, decide_false,
      Bool.and_false, Bool.not_false, Bool.and_true]
    by_cases hw : j < w
    · simp [hw]
    · simp [hw, BitVec.getLsbD_of_ge x j (Nat.le_of_not_lt hw)]
  · simp [getLsbD_bitOf, hj]

/-! ## Scalar registers (R94, R95) -/

theorem SReg.toNat_ne {r q : SReg} (h : r ≠ q) : r.toNat ≠ q.toNat := fun he => h (BitVec.eq_of_toNat_eq he)

@[simp] theorem Hart.getS_zero (h : Hart) (n : Nat) : h.getS n 0 = 0 := rfl
@[simp] theorem Hart.putS_zero (h : Hart) (v : Word) (b : Bool) : h.putS 0 v b = h := rfl

theorem Hart.putS_of_ne (h : Hart) {r : SReg} (hr : r ≠ 0) (v : Word) (b : Bool) :
    h.putS r v b = { h with seq := { h.seq with
      s := Table.set 0 h.seq.s r.toNat v, sTaint := setBit h.seq.sTaint r.toNat b,
      deadS := setBit h.seq.deadS r.toNat false, late := supersede h.seq.late r } } := by
  unfold Hart.putS Seq.putS
  rw [if_neg hr]

theorem Hart.getS_putS_self (h : Hart) (n : Nat) {r : SReg} (hr : r ≠ 0) (v : Word) (b : Bool) :
    (h.putS r v b).getS n r = v := by
  have hb : r.toNat < 32 := r.isLt
  rw [Hart.putS_of_ne h hr]
  simp only [Hart.getS, if_neg hr, getLsbD_setBit_self _ hb, Bool.false_and, Bool.false_eq_true, if_false,
    Table.get_set_self]

theorem Hart.getS_putS_other (h : Hart) (n : Nat) {r q : SReg} (hq : q ≠ r) (v : Word) (b : Bool) :
    (h.putS r v b).getS n q = h.getS n q := by
  have hn := SReg.toNat_ne (Ne.symm hq)
  by_cases hr : r = 0
  · subst hr; rfl
  · rw [Hart.putS_of_ne h hr]
    simp only [Hart.getS, getLsbD_setBit_other _ hn, Table.get_set_other _ _ hn]

theorem Hart.taintS_putS_self (h : Hart) (r : SReg) (v : Word) (b : Bool) :
    (h.putS r v b).taintS r = (r ≠ 0 && b) := by
  have hb : r.toNat < 32 := r.isLt
  by_cases hr : r = 0
  · subst hr; rfl
  · rw [Hart.putS_of_ne h hr]
    simp only [Hart.taintS, getLsbD_setBit_self _ hb]

theorem Hart.taintS_putS_other (h : Hart) {r q : SReg} (hq : q ≠ r) (v : Word) (b : Bool) :
    (h.putS r v b).taintS q = h.taintS q := by
  have hn := SReg.toNat_ne (Ne.symm hq)
  by_cases hr : r = 0
  · subst hr; rfl
  · rw [Hart.putS_of_ne h hr]
    simp only [Hart.taintS, getLsbD_setBit_other _ hn]

/-! ## Frames -/

theorem onlyHart_setCur (s : State) (h : Hart) : OnlyHart s (s.setCur h) :=
  ⟨fun _ hj => State.hart_setCur_other s h hj, rfl⟩

theorem OnlyHart.trans {s t u : State} (h : OnlyHart s t) (k : OnlyHart t u) : OnlyHart s u := by
  have hf : t.focus = s.focus := (congrArg State.focus h.rest : _)
  refine ⟨fun j hj => (k.others j (by rwa [hf])).trans (h.others j hj), ?_⟩
  have h1 := h.rest
  rw [← k.rest] at h1
  exact h1

theorem onlyHart_hold (s : State) (w : Wait) : OnlyHart s (s.hold w) := onlyHart_setCur s _

theorem OnlyHart.sameMemory {s t : State} (h : OnlyHart s t) : SameMemory s t := by
  intro q _
  obtain ⟨_, hr⟩ := h
  rw [← hr]
  cases q <;> rfl

/-! ## Passing and retiring -/

theorem Seq.next_eq (q : Seq) : q.next = q.passes := by
  unfold Seq.next Seq.passes
  split
  · rename_i h; simp [h]
  · rename_i h; simp [h]

theorem State.pass_eq (s : State) : s.pass = s.setCur s.cur.passes := by
  unfold State.pass Hart.passes
  rw [Seq.next_eq]

theorem State.goto_eq (s : State) (a : Word) : s.goto a = s.setCur (s.cur.goes a) := rfl

/-- A word without older words in flight retires at once (R257). -/
theorem finish_direct {s0 : State} (h : s0.cur.window = []) (s : State) :
    (finish s0 s).cur = s.retired s.cur ∧ OnlyHart s (finish s0 s) := by
  unfold finish
  rw [if_pos (by rw [h]; rfl)]
  refine ⟨?_, fun j hj => ?_, ?_⟩
  · simp only [publishGrant, retireCount, State.hart_setHart]
    exact (State.hart_setHart _ _ _).trans rfl
  · simp only [publishGrant, retireCount]
    rw [State.hart_setHart_other _ _ (Ne.symm hj), State.hart_setHart_other _ _ (Ne.symm hj)]
  · simp only [publishGrant, retireCount]
    rfl

/-- A word behind older words joins them, and keeps what it found for the case that one of them is discarded (R250,
R257). -/
theorem finish_behind {s0 : State} (h : s0.cur.window ≠ []) (s : State) (g : Option Grant) (spill : Option (Word × List Byte)) :
    finish s0 s g spill = ({ s with warnings := s0.warnings } : State).setCur { s.cur with
      wait := none, skip := 0, resume := none, vflags := s0.cur.vflags,
      window := s.cur.window ++ [{ li := none, before := s0.cur.seq, flags := s.cur.vflags, publish := g, spill := spill,
                                   warns := s.warnings.drop s0.warnings.length }] } := by
  unfold finish
  rw [if_neg (by cases hw : s0.cur.window with
    | nil => exact absurd hw h
    | cons => simp)]
  rfl

/-- A scalar word that finds its sources writes its result, passes and retires. -/
theorem writeScalar_ready {s : State} {srcs : List SReg} (h : Ready s srcs) (sd : SReg) (v : Word) :
    ∃ t, writeScalar s srcs sd v = .next t ∧ OnlyHart s t ∧
      t.cur = s.retired (s.cur.putS sd v (srcs.any s.taintS)).passes := by
  let u := (s.putS sd v (srcs.any s.taintS)).pass
  have hu : OnlyHart s u := (onlyHart_setCur s _).trans (onlyHart_setCur _ _)
  obtain ⟨hc, ho⟩ := finish_direct h.window u
  refine ⟨finish s u, ?_, hu.trans ho, ?_⟩
  · unfold writeScalar
    simp only [h.sources, Bool.false_eq_true, if_false]
    rfl
  · rw [hc]
    simp only [u, State.pass_eq, State.putS, State.cur_setCur]
    rfl

/-- A scalar word of which a source awaits a late result waits (R94). -/
theorem writeScalar_busy {s : State} {srcs : List SReg} (h : s.busy srcs = true) (sd : SReg) (v : Word) :
    writeScalar s srcs sd v = .next (s.hold .reg) := if_pos h

/-! ## Vector registers whose contents are lost (R232) -/

/-- The slices agree in all but their contents. -/
def SameMarks (x y : Slice) : Prop := { y with bits := x.bits } = x

theorem Vec.slice_setSlice (x : Vec) (r l r' l' : Nat) (sl : Slice) :
    (x.setSlice r l sl).slice r' l' = if 16 * r + l = 16 * r' + l' then sl else x.slice r' l' :=
  Table.get_set x.v _ sl _

theorem Vec.sameMarks_setSlice (x : Vec) {r l : Nat} {sl : Slice} (h : SameMarks (x.slice r l) sl) (r' l' : Nat) :
    SameMarks (x.slice r' l') ((x.setSlice r l sl).slice r' l') := by
  rw [Vec.slice_setSlice]
  split
  · next e =>
    have g : x.slice r' l' = x.slice r l := by unfold Vec.slice; rw [e]
    rw [g]
    exact h
  · rfl

theorem SameMarks.trans {x y z : Slice} (h : SameMarks x y) (g : SameMarks y z) : SameMarks x z := by
  unfold SameMarks at *
  rw [← h, ← g]

theorem Vec.sameMarks_lose (x : Vec) (key reg r l : Nat) : SameMarks (x.slice r l) ((x.lose key reg).slice r l) := by
  unfold Vec.lose
  generalize List.range 16 = ls
  induction ls generalizing x with
  | nil => rfl
  | cons a t ih => exact (x.sameMarks_setSlice (by rfl) r l).trans (ih _)

theorem Hart.sameMarks_meet (h : Hart) (key : Nat) (regs : List Nat) (r l : Nat) :
    SameMarks (h.vec.slice r l) ((h.meet key regs).vec.slice r l) := by
  unfold Hart.meet
  split
  · dsimp only
    generalize h.foreign.filter (fun f => regs.contains f.reg) = fs
    generalize h.vec = x
    induction fs generalizing x with
    | nil => rfl
    | cons f t ih => exact (x.sameMarks_lose key f.reg r l).trans (ih _)
  · rfl

theorem SameMarks.full {x y : Slice} (h : SameMarks x y) : y.full = x.full := by
  have g := congrArg Slice.full h
  exact g

theorem SameMarks.poison {x y : Slice} (h : SameMarks x y) : y.poison = x.poison := by
  have g := congrArg Slice.poison h
  exact g

/-! ## The outcome of a word -/

theorem settle_ok (s : State) : settle (.ok s) = .next s := rfl
theorem settle_wait (s : State) (w : Wait) : settle (.error (.wait w, s)) = .next (s.hold w) := rfl

/-! ## What a word that stops leaves in the logs of the stacks (R369) -/

/-- A read of an uncorrectable word changes the logs alone. -/
theorem readBad_eq (s : State) (corr : BitVec 32) (k : Nat) : s.readBad corr k = s.loggedAs (s.readBad corr k) := by
  unfold State.readBad
  split <;> rfl

theorem foldl_readBad_eq (corr : BitVec 32) (ks : List Nat) :
    ∀ s : State, ks.foldl (State.readBad · corr) s = s.loggedAs (ks.foldl (State.readBad · corr) s) := by
  induction ks with
  | nil => intro s; rfl
  | cons k ks ih =>
    intro s
    rw [List.foldl_cons]
    have h := ih (s.readBad corr k)
    rw [readBad_eq s corr k] at h ⊢
    exact h

theorem logBad_eq (s : State) (w : Who) (kind : Nat) (va : Word) (n : Nat) (corr : BitVec 32) :
    s.logBad w kind va n corr = s.loggedAs (s.logBad w kind va n corr) := by
  unfold State.logBad
  split
  · rfl
  · exact foldl_readBad_eq corr _ s

/-- What a word that stops leaves: its walks, and in the logs what it has read of uncorrectable words. -/
theorem logTrap_eq (s : State) (f : AccFault) : ∃ u, WalkOnly s u ∧ s.logTrap f = u.loggedAs (s.logTrap f) := by
  unfold State.logTrap State.logFault
  simp only
  split
  · exact ⟨_, walkOnly_stackWalks _ _ _ _ _, logBad_eq _ _ _ _ _ _⟩
  · refine ⟨_, walkOnly_keepWalks s.who f, ?_⟩
    split
    · exact logBad_eq _ _ _ _ _ _
    · rfl

theorem logTrap_harts (s : State) (f : AccFault) : (s.logTrap f).harts = s.harts := by
  obtain ⟨u, hu, h⟩ := logTrap_eq s f
  rw [h, ← hu.harts]
  rfl

theorem logTrap_focus (s : State) (f : AccFault) : (s.logTrap f).focus = s.focus := by
  obtain ⟨u, hu, h⟩ := logTrap_eq s f
  rw [h, ← hu.focus]
  rfl

theorem logTrap_cur (s : State) (f : AccFault) : (s.logTrap f).cur = s.cur := by
  unfold State.cur State.hart
  rw [logTrap_harts, logTrap_focus]

/-- Only an uncorrectable word, a fault of a stack in memory, or a fault behind a walk can leave anything there. -/
theorem logTrap_of {s : State} {f : AccFault} (h : f.cause ≠ .mchk) (k : f.cause ≠ .stkflt) (hw : f.walked = false)
    (hf : f.first = none) : s.logTrap f = s := by
  simp [State.logTrap, State.logFault, State.keepWalks, h, k, hw, hf]

/-- A trap of a word without older words in flight is taken at once. -/
theorem settle_trap {s : State} (h : s.cur.window = []) (x : Trap) :
    let u := s.logTrap x.fault
    settle (.error (.trap x, s)) = .next (takeTrap u u.focus x (u.grantOf u.focus)) := by
  intro u
  exact if_pos (by rw [logTrap_cur, h]; rfl)

/-- A trap of a word behind older words is recorded (R260). -/
theorem settle_trap_behind {s : State} (h : s.cur.window ≠ []) (x : Trap) :
    let u := s.logTrap x.fault
    settle (.error (.trap x, s)) = .next (u.setCur { u.cur with recorded := some x }) := by
  intro u
  exact if_neg (by
    rw [logTrap_cur]
    cases hw : s.cur.window with
    | nil => exact absurd hw h
    | cons => exact Bool.false_ne_true)

end Sys2Proof.Machine
end

