-- ==== Sys2Proof/Tests/Slice0.lean ====
section
/-! SUPPORT. Tests: decoding of words written out from the spec's encodings, ill-formed terms that the checks refuse, single
steps on a small state, and for each statement with hypotheses a state and operands that meet them together. -/

namespace Sys2Proof.Tests

open Sys2Proof Sys2Proof.Machine Sys2Proof.Claim

set_option Elab.async false

/-! ## Words that the encodings give (R16 to R27, R47, and the worked programs) -/

/-- The instruction that a word decodes to. -/
def dec (w : Word) : Option Instr := (decode w).toOption

/-- A row operand: register 41. -/
abbrev D1 : VOp := ⟨.row, false, 41⟩
/-- A column operand with policy 1: element 22. -/
abbrev A1 : VOp := ⟨.col, true, 22⟩
/-- A diagonal operand: element 13. -/
abbrev B1 : VOp := ⟨.diag, false, 13⟩
/-- A row operand with policy 1: register 7. -/
abbrev C1 : VOp := ⟨.row, true, 7⟩

theorem test_words_1 :
    dec 0x0402A62000000000 = some (.add 5 9 17) ∧
    dec 0x0412A62000000000 = some (.sub 5 9 17) ∧
    dec 0x0422A62000000000 = some (.and 5 9 17) ∧
    dec 0x0432A62000000000 = some (.or 5 9 17) ∧
    dec 0x0442A62000000000 = some (.xor 5 9 17) ∧
    dec 0x0452A62000000000 = some (.shl 5 9 17) ∧
    dec 0x0462A62000000000 = some (.shr 5 9 17) ∧
    dec 0x0472A62000000000 = some (.sra 5 9 17) ∧
    dec 0x0482A62000000000 = some (.slt 5 9 17) ∧
    dec 0x0492A62000000000 = some (.sltu 5 9 17) ∧
    dec 0x04A2A62000000000 = some (.min 5 9 17) ∧
    dec 0x04B2A62000000000 = some (.max 5 9 17) ∧
    dec 0x04C2A62000000000 = some (.minu 5 9 17) ∧
    dec 0x04D2A62000000000 = some (.maxu 5 9 17) ∧
    dec 0x04E2A63E00000000 = some (.sel 5 9 17 30) ∧
    dec 0x04F2A40000000000 = some (.clz 5 9) ∧
    dec 0x0502A40000000000 = some (.popc 5 9) := by decide +kernel

theorem test_words_2 :
    dec 0x0802A62000000000 = some (.mul 5 9 17) ∧
    dec 0x0812A62000000000 = some (.mulh 5 9 17) ∧
    dec 0x0822A62000000000 = some (.mulhu 5 9 17) ∧
    dec 0x0832A62000000000 = some (.div 5 9 17) ∧
    dec 0x0842A62000000000 = some (.divu 5 9 17) ∧
    dec 0x0852A62000000000 = some (.rem 5 9 17) ∧
    dec 0x0862A62000000000 = some (.remu 5 9 17) := by decide +kernel

theorem test_words_3 :
    dec 0x0C02A400FEDCBA98 = some (.addi 5 9 0xFEDCBA98) ∧
    dec 0x0C12A400FEDCBA98 = some (.andi 5 9 0xFEDCBA98) ∧
    dec 0x0C22A400FEDCBA98 = some (.ori 5 9 0xFEDCBA98) ∧
    dec 0x0C32A400FEDCBA98 = some (.xori 5 9 0xFEDCBA98) ∧
    dec 0x0C42A4000000003F = some (.shli 5 9 63) ∧
    dec 0x0C52A4000000003F = some (.shri 5 9 63) ∧
    dec 0x0C62A4000000003F = some (.srai 5 9 63) ∧
    dec 0x0C72A400FEDCBA98 = some (.slti 5 9 0xFEDCBA98) ∧
    dec 0x0C828000FEDCBA98 = some (.li 5 0xFEDCBA98) ∧
    dec 0x0C92A400FEDCBA98 = some (.lui 5 9 0xFEDCBA98) := by decide +kernel

theorem test_words_8 :
    dec 0x2002A62000000000 = some (.fadd 5 9 17) ∧
    dec 0x2012A62000000000 = some (.fsub 5 9 17) ∧
    dec 0x2022A62000000000 = some (.fmul 5 9 17) ∧
    dec 0x2042A62000000000 = some (.fmin 5 9 17) ∧
    dec 0x2052A62000000000 = some (.fmax 5 9 17) ∧
    dec 0x2032A63E00000000 = some (.ffma 5 9 17 30) ∧
    dec 0x2062A62000B00000 = some (.fcmp 11 5 9 17) ∧
    dec 0x2072A40000000000 = some (.fcvtI64F32 5 9) ∧
    dec 0x2072A40000100000 = some (.fcvtU64F32 5 9) ∧
    dec 0x2072A40000200000 = some (.fcvtF32I64 5 9) ∧
    dec 0x2072A40000300000 = some (.fcvtF32U64 5 9) ∧
    dec 0x2072A40000400000 = some (.fcvtF32I32 5 9) ∧
    dec 0x2072A40000500000 = some (.fcvtF32Bf16 5 9) ∧
    dec 0x2072A40000600000 = some (.fcvtBf16F32 5 9) ∧
    dec 0x2072A40000700000 = some (.fcvtF32F16 5 9) ∧
    dec 0x2072A40000800000 = some (.fcvtF16F32 5 9) := by decide +kernel

theorem test_words_10 :
    dec 0x2802A760FEDCBA98 = some (.ld 6 3 5 9 0xFEDCBA98) ∧
    dec 0x2802A741FEDCBA98 = some (.ldU 6 2 5 9 0xFEDCBA98) ∧
    dec 0x2812A720FEDCBA98 = some (.st 6 1 5 9 0xFEDCBA98) ∧
    dec 0x2822A701FEDCBA98 = some (.ldc 6 0 true 5 9 0xFEDCBA98) := by decide +kernel

theorem test_words_11 :
    dec 0x2C02A620C0080000 = some (.amo 6 .add 2 5 9 17) ∧
    dec 0x2C02A620C0180000 = some (.amo 6 .swap 2 5 9 17) ∧
    dec 0x2C02A620C0380000 = some (.amo 6 .min 2 5 9 17) ∧
    dec 0x2C02A620C0480000 = some (.amo 6 .max 2 5 9 17) ∧
    dec 0x2C02A620C0580000 = some (.amo 6 .and 2 5 9 17) ∧
    dec 0x2C02A620C0680000 = some (.amo 6 .or 2 5 9 17) ∧
    dec 0x2C02A620C0780000 = some (.amo 6 .xor 2 5 9 17) ∧
    dec 0x2C02A63EC02C0000 = some (.amoCas 6 3 5 9 17 30) ∧
    dec 0x2C002620C07E0000 = some (.amoP 6 .xor 3 9 17) := by decide +kernel

theorem test_words_12 :
    dec 0x30000000FEDCBA98 = some (.br 0xFEDCBA98) ∧
    dec 0x3014C5C0FEDCBA98 = some (.bc 7 9 17 0xFEDCBA98) ∧
    dec 0x3020002AFEDCBA98 = some (.bcv 2 5 0xFEDCBA98) ∧
    dec 0x30300000FEDCBA98 = some (.call 0xFEDCBA98) ∧
    dec 0x30400000FEDCBA98 = some (.brkloop 0xFEDCBA98) ∧
    dec 0x3044C641FEDCBA98 = some (.brkloopCond 9 9 17 0xFEDCBA98) := by decide +kernel

theorem test_words_13 :
    dec 0x3400240000000000 = some (.callr 9) ∧
    dec 0x3410000000000000 = some (.ret) ∧
    dec 0x3420240000000000 = some (.jmpr 9) ∧
    dec 0x3430240000000000 = some (.loop 9) ∧
    dec 0x3440000000000000 = some (.endloop) ∧
    dec 0x34500000FEDCBA98 = some (.loopi 0xFEDCBA98) := by decide +kernel

theorem test_words_16 :
    dec 0x4000000000000ABC = some (.trap 0xABC) ∧
    dec 0x4010000000000000 = some (.rett) ∧
    dec 0x4022800000081000 = some (.csrr 5 0x081) ∧
    dec 0x4032A40000026000 = some (.csrw 5 0x026 9) ∧
    dec 0x4042A40000026000 = some (.csrs 5 0x026 9) ∧
    dec 0x4052A40000026000 = some (.csrc 5 0x026 9) ∧
    dec 0x4060001600000000 = some (.fence 5 2) ∧
    dec 0x40700000A5000000 = some (.sbar 0xA5) ∧
    dec 0x4080262000000000 = some (.asidsw 9 17) ∧
    dec 0x4092A62000000000 = some (.wfe 5 9 17) ∧
    dec 0x40A0000000000000 = some (.nop) ∧
    dec 0x40B0000000000000 = some (.brk) ∧
    dec 0x40C0240000000ABC = some (.mark 9 0xABC) ∧
    dec 0x40D0000000000ABC = some (.yield 0xABC) ∧
    dec 0x40E0000000000000 = some (.gbar) ∧
    dec 0x40F2A62000000025 = some (.stamp 5 9 17 37) := by decide +kernel

theorem test_words_20 :
    dec 0x5002A400000000C3 = some (.setvl 5 9 0xC3) ∧
    dec 0x5002A40100000000 = some (.setvlK 5 9) ∧
    dec 0x50128000000FA0C3 = some (.setvli 5 0xFA0 0xC3) ∧
    dec 0x50128001000FA000 = some (.setvliK 5 0xFA0) ∧
    dec 0x5022800000000006 = some (.vlqMax 5 6) ∧
    dec 0x5022800100000000 = some (.vlqRegs 5) ∧
    dec 0x5022A40200000000 = some (.vlqFrame 5 9) ∧
    dec 0x5030000000000001 = some (.vmode true) := by decide +kernel

theorem test_words_21 :
    dec 0x54014B5A1A00AC00 = some (.vadd D1 A1 B1 5 3) ∧
    dec 0x54114B5A1A00AC00 = some (.vsub D1 A1 B1 5 3) ∧
    dec 0x54214B5A1A00AC00 = some (.vmul D1 A1 B1 5 3) ∧
    dec 0x54614B5A1A00AC00 = some (.vmin D1 A1 B1 5 3) ∧
    dec 0x54714B5A1A00AC00 = some (.vmax D1 A1 B1 5 3) ∧
    dec 0x54A14B5A1A00AC00 = some (.vdiv D1 A1 B1 5 3) ∧
    dec 0x54D14B5A1A00AC00 = some (.vand D1 A1 B1 5 3) ∧
    dec 0x54E14B5A1A00AC00 = some (.vor D1 A1 B1 5 3) ∧
    dec 0x54F14B5A1A00AC00 = some (.vxor D1 A1 B1 5 3) ∧
    dec 0x55114B5A1A00AC00 = some (.vshl D1 A1 B1 5 3) ∧
    dec 0x55214B5A1A00AC00 = some (.vshr D1 A1 B1 5 3) ∧
    dec 0x55414B5A1A00AC00 = some (.vscale D1 A1 B1 5 3) ∧
    dec 0x54314B5A1A47AC00 = some (.vfma D1 A1 B1 C1 5 3) ∧
    dec 0x54414B5A1A47AC00 = some (.vfms D1 A1 B1 C1 5 3) ∧
    dec 0x54514B5A1A47AC00 = some (.vfnma D1 A1 B1 C1 5 3) ∧
    dec 0x55514B5A1A47AC00 = some (.vclamp D1 A1 B1 C1 5 3) ∧
    dec 0x54814B580000AC00 = some (.vabs D1 A1 5 3) ∧
    dec 0x54914B580000AC00 = some (.vneg D1 A1 5 3) ∧
    dec 0x54B14B580000AC00 = some (.vsqrt D1 A1 5 3) ∧
    dec 0x54C14B580000AC00 = some (.vexp2 D1 A1 5 3) ∧
    dec 0x55014B580000AC00 = some (.vnot D1 A1 5 3) ∧
    dec 0x55314B580000AC00 = some (.vcvt D1 A1 5 3) := by decide +kernel

theorem test_words_22 :
    dec 0x5800335A1A00ACB0 = some (.vcmp 11 6 A1 B1 5 3) ∧
    dec 0x58114B5A1A06AC00 = some (.vsel D1 A1 B1 6 5 3) ∧
    dec 0x58214B5800000C00 = some (.vmov D1 A1 3) ∧
    dec 0x5820301C00000C10 = some (.vmovMask 6 7 3) ∧
    dec 0x5821481C00000C20 = some (.vmovFromMask D1 7 3) ∧
    dec 0x5820335800000C30 = some (.vmovToMask 6 A1 3) ∧
    dec 0x58D1480000410C00 = some (.vmovSysreg D1 0x041 3) ∧
    dec 0x58D0300000250C10 = some (.vmovTdone 6 3) ∧
    dec 0x5831480220000C00 = some (.vsplat D1 17 3) ∧
    dec 0x583148001ABC0C10 = some (.vsplatI D1 0x1ABC 3) ∧
    dec 0x5841481C0000AC00 = some (.viota D1 7 5 3) ∧
    dec 0x5850F01C00000C00 = some (.vpopm 30 7 3) ∧
    dec 0x5860F01C00000C00 = some (.vfirst 30 7 3) ∧
    dec 0x5870301C04000C00 = some (.vmand 6 7 2 3) ∧
    dec 0x5880301C04000C00 = some (.vmor 6 7 2 3) ∧
    dec 0x5890301C04000C00 = some (.vmxor 6 7 2 3) ∧
    dec 0x58A0301C00000C00 = some (.vmnot 6 7 3) ∧
    dec 0x58B0F35A2000A000 = some (.vextr 30 A1 17 5) ∧
    dec 0x58B0F3580ABCA010 = some (.vextrI 30 A1 0xABC 5) ∧
    dec 0x58C1482620000000 = some (.vins D1 9 17) ∧
    dec 0x58C148022ABC0010 = some (.vinsI D1 17 0xABC) := by decide +kernel

theorem test_words_23 :
    dec 0x5C014B5A1A00AC00 = some (.vperm D1 A1 B1 5 3) ∧
    dec 0x5C114B5A20000C00 = some (.vslideup D1 A1 17 3) ∧
    dec 0x5C114B580ABC0C10 = some (.vslideupI D1 A1 0xABC 3) ∧
    dec 0x5C214B5A20000C00 = some (.vslidedn D1 A1 17 3) ∧
    dec 0x5C214B580ABC0C10 = some (.vslidednI D1 A1 0xABC 3) ∧
    dec 0x5C314B5A1A00AC00 = some (.vredsum D1 A1 B1 5 3) ∧
    dec 0x5C414B5A1A00AC00 = some (.vredmax D1 A1 B1 5 3) ∧
    dec 0x5C514B5A1A00AC00 = some (.vredmin D1 A1 B1 5 3) ∧
    dec 0x5C614B5A1A00AC00 = some (.vscan D1 A1 B1 5 3) ∧
    dec 0x5C714B5800000C00 = some (.vcompress D1 A1 3) := by decide +kernel

theorem test_words_24 :
    dec 0x6001480000250C00 = some (.vfeEmpty D1 37 3) ∧
    dec 0x6001480000250C10 = some (.vfeFull D1 37 3) ∧
    dec 0x600030A400000C20 = some (.vfeTest 6 D1 3) := by decide +kernel

theorem test_words_32 :
    dec 0x8001480120C00C60 = some (.vld D1 ⟨6, 2, 9, 3⟩ true) ∧
    dec 0x8016B00120C00C20 = some (.vst A1 ⟨6, 2, 9, 3⟩) ∧
    dec 0x8021480131C00C20 = some (.vlds D1 ⟨6, 2, 9, 3⟩ 17 false) ∧
    dec 0x8036B00131C00C20 = some (.vsts A1 ⟨6, 2, 9, 3⟩ 17) ∧
    dec 0x80414B5920C00CA0 = some (.vgath D1 A1 ⟨6, 2, 9, 3⟩ false true) ∧
    dec 0x80523B5920C00CA0 = some (.vscat C1 A1 ⟨6, 2, 9, 3⟩ true) ∧
    dec 0x8061480120C00C60 = some (.vldc D1 ⟨6, 2, 9, 3⟩ true) ∧
    dec 0x8061480131C10C20 = some (.vldcS D1 ⟨6, 2, 9, 3⟩ 17 false) ∧
    dec 0x80614B5920C20CE0 = some (.vldcX D1 A1 ⟨6, 2, 9, 3⟩ true true) ∧
    dec 0x8070000120000D20 = some (.vpref ⟨0, 2, 9, 3⟩ true) ∧
    dec 0x8070000131010C20 = some (.vprefS ⟨0, 2, 9, 3⟩ 17 false) ∧
    dec 0x8070035920020DA0 = some (.vprefX A1 ⟨0, 2, 9, 3⟩ true true) := by decide +kernel

theorem test_words_33 :
    dec 0x84014B5920C40CA0 = some (.vamo .max D1 A1 ⟨6, 2, 9, 3⟩ true) ∧
    dec 0x84023B5920C50D20 = some (.vamoP .and C1 A1 ⟨6, 2, 9, 3⟩ false) ∧
    dec 0x84014B5920C20C20 = some (.vamoCas D1 A1 ⟨6, 2, 9, 3⟩ false) := by decide +kernel

theorem test_words_34 :
    dec 0x8802380131C00000 = some (.vspill C1 9 17 6) ∧
    dec 0x8811480131C00000 = some (.vfill D1 9 17 6) := by decide +kernel

theorem test_words_40 :
    dec 0xA002387931C00C20 = some (.vappend C1 30 ⟨6, 2, 9, 3⟩ 17) ∧
    dec 0xA010311C11000C30 = some (.vdefer 3 6 C1 17 3) ∧
    dec 0xA021480011000020 = some (.vdrain 2 D1 17) ∧
    dec 0xA030000011000000 = some (.vdqCount 17) ∧
    dec 0xA030000011010000 = some (.vdqFree 17) ∧
    dec 0xA030000011020000 = some (.vdqClear 17) := by decide +kernel

theorem test_words_44 :
    dec 0xB004C7DD96C01660 = some (.mtile ⟨9, 17, 30, 29, 37, 11, 5, true, true, true, false⟩) ∧
    dec 0xB004C7DD96C016E0 = some (.mtileAcc ⟨9, 17, 30, 29, 37, 11, 5, true, true, true, false⟩) ∧
    dec 0xB004C7DD96C01760 = some (.mtileDecay ⟨9, 17, 30, 29, 37, 11, 5, true, true, true, false⟩) ∧
    dec 0xB010001D96C01600 = some (.mzero 29 5 ⟨37, 11, true⟩) ∧
    dec 0xB024801D96C01600 = some (.mconv 9 29 5 ⟨37, 11, true⟩) ∧
    dec 0xB02047DD96C53610 = some (.mconvV 17 30 29 D1 5 ⟨37, 11, true⟩) ∧
    dec 0xB034C41D96C00200 = some (.mload 9 17 29 ⟨37, 11, true⟩) ∧
    dec 0xB044801D96C00200 = some (.aspill 9 29 ⟨37, 11, true⟩) ∧
    dec 0xB054801D96C00200 = some (.afill 9 29 ⟨37, 11, true⟩) := by decide +kernel

theorem test_words_48 :
    dec 0xC004800096C00200 = some (.cpy 9 ⟨37, 11, true⟩) ∧
    dec 0xC014C40096C00200 = some (.cpyg 9 17 ⟨37, 11, true⟩) ∧
    dec 0xC024C40096C00200 = some (.cpys 9 17 ⟨37, 11, true⟩) ∧
    dec 0xC034C40096C00200 = some (.cfill 9 17 ⟨37, 11, true⟩) := by decide +kernel

theorem test_words_52 :
    dec 0xD004800096C8E200 = some (.twin 9 C1 ⟨37, 11, true⟩) ∧
    dec 0xD014800096C00200 = some (.twld 9 ⟨37, 11, true⟩) ∧
    dec 0xD020000096C00200 = some (.tlaunch ⟨37, 11, true⟩) ∧
    dec 0xD020000096C00210 = some (.tlaunchAnd ⟨37, 11, true⟩) ∧
    dec 0xD024800096C00220 = some (.tlaunchMix 9 ⟨37, 11, true⟩) ∧
    dec 0xD030000096C52200 = some (.tcapt D1 ⟨37, 11, true⟩) ∧
    dec 0xD030440096C52210 = some (.tcaptFirstk 17 D1 ⟨37, 11, true⟩) ∧
    dec 0xD030000096C3C220 = some (.tcaptCount 30 ⟨37, 11, true⟩) ∧
    dec 0xD040000096C00200 = some (.treset ⟨37, 11, true⟩) := by decide +kernel

theorem test_words_54 :
    dec 0xD804800094000000 = some (.binit 9 37) ∧
    dec 0xD814800094000000 = some (.barv 9 37) ∧
    dec 0xD814C40094000010 = some (.barvR 9 17 37) ∧
    dec 0xD82480009403C000 = some (.bwait 30 9 37) ∧
    dec 0xD82480009403C010 = some (.bwaitT 30 9 37) ∧
    dec 0xD83000009403C000 = some (.btest 30 37) ∧
    dec 0xD83000009403C010 = some (.btestA 30 37) ∧
    dec 0xD844C40094000000 = some (.berr 9 17 37) ∧
    dec 0xD840000094000010 = some (.berrClr 37) ∧
    dec 0xD854800002C00000 = some (.trset 9 11) ∧
    dec 0xD860000002C00000 = some (.trclr 11) := by decide +kernel

theorem test_words_56 :
    dec 0xE000000000000000 = some (.taskend) ∧
    dec 0xE014C4000003C000 = some (.taskq 30 9 17) ∧
    dec 0xE024C7400003C000 = some (.launch 30 9 17 26) ∧
    dec 0xE034C40094000000 = some (.leasex 9 17 37) ∧
    dec 0xE034C40094000010 = some (.leasexW 9 17 37) ∧
    dec 0xE04000000003C050 = some (.vestq 30 5) := by decide +kernel


/-! ## A small state -/

/-- Device memory with page tables that map code at 0x10000 (a header and four words, the first of them `w`) and data at
0x11000, whose first bytes are 11 22 33 44 55 66 77 88. -/
def demoMem (w : Word) : Table Byte :=
  Memory.store (Memory.store (placeMemory [] 4 w) 0x5088 8 0x1CD7) 0x7000 8 0x8877665544332211

/-- A running hart at the first word of its block, with a handler; S1 = 5, S2 = the data's address, S3 = -1, S4 = FP32 1.5. -/
def demoHart : Hart :=
  { status := .running, ptroot := 0x1000, tvec := 0x10000,
    seq := { pc := 0x10008, arriving := false, blk := 0x10000, len := 4, vhw := 63, shw := 31,
             s := [(1, 5), (2, 0x11000), (3, 0xFFFFFFFFFFFFFFFF), (4, 0x3FC00000)] } }

/-- One core with that hart. -/
def demo : State := { harts := [(0, demoHart)], mem := demoMem 0x4060001100000000, rstBusy := false, rstPending := none }

/-- The same state with the hart changed. -/
def demoWith (f : Hart → Hart) : State := { demo with harts := [(0, f demoHart)] }

/-- The same state with the sequencer changed. -/
def demoSeq (f : Seq → Seq) : State := demoWith fun h => { h with seq := f h.seq }

/-- Bytes of memory from an address, those that are not zero. -/
def placed (a : Nat) (bs : List Byte) : Table Byte := (bs.zipIdx.map fun e => (a + e.2, e.1)).filter fun e => e.2 ≠ 0

/-- What a computation that succeeds gives. -/
def got {α : Type} (d : α) {ε : Type} : Except ε α → α
  | .ok a => a
  | .error _ => d

/-- A computation that succeeds gives what it gives. -/
theorem got_spec {ε α : Type} {d : α} {x : Except ε α} (h : x.toOption.isSome = true) : x = .ok (got d x) := by
  cases x with
  | ok a => rfl
  | error e => cases h

/-- A computation that succeeds gives the pair that it gives. -/
theorem two_spec {ε α β : Type} {d : α × β} {x : Except ε (α × β)} (h : x.toOption.isSome = true) :
    x = .ok ((got d x).1, (got d x).2) := got_spec h

/-- A run of accesses that meets no fault. -/
theorem pair_spec {α β : Type} {x : α × β} {b : β} (h : x.2 = b) : x = (x.1, b) := by
  subst h
  rfl

/-- A computation that fails gives its error. -/
theorem err_spec {ε α : Type} {x : Except ε α} {e : ε} (h : (match x with | .ok _ => none | .error y => some y) = some e) :
    x = .error e := by
  cases x with
  | ok a => cases h
  | error y => cases h; rfl

/-- A computation that fails gives some error. -/
theorem fails_spec {ε α : Type} {x : Except ε α} (h : x.toOption.isNone = true) : ∃ e, x = .error e := by
  cases x with
  | ok a => cases h
  | error e => exact ⟨e, rfl⟩

theorem demo_ready (rs : List SReg) : Ready demo rs := ⟨rfl, rfl, rfl, by
  show (rs.any fun r => !(0 : BitVec 32).getLsbD r.toNat && ([] : List (Nat × Nat × Bool)).any fun e => e.1 = r.toNat) = false
  simp⟩

theorem demo_handler : HasHandler demo := ⟨rfl, by decide +kernel⟩

theorem untraced_of {s : State} {c b : Nat} (h : s.coreLaunch c = none) : Untraced s c b := fun _ hs => nomatch h.symm.trans hs

/-! ## Scalar words and scalar memory: states that meet the hypotheses -/

/-- The destination of a write that is still late: S5 waits for a load. -/
def demoLate : State := demoSeq fun q => { q with late := [(5, 0, false)] }

/-- S6 = INT64_MIN, S7 = 0, S8 = the address of the third data byte. -/
def demoRegs : State := demoSeq fun q =>
  { q with s := q.s ++ [(6, 0x8000000000000000), (7, 0), (8, 0x11002), (9, 0x0100000000000000)] }

theorem regs_ready (rs : List SReg) : Ready demoRegs rs := ⟨rfl, rfl, rfl, by
  show (rs.any fun r => !(0 : BitVec 32).getLsbD r.toNat && ([] : List (Nat × Nat × Bool)).any fun e => e.1 = r.toNat) = false
  simp⟩

theorem regs_handler : HasHandler demoRegs := ⟨rfl, by decide +kernel⟩

theorem wit_IntegerWords : ∃ srcs sd v, intRule demo (.add 9 1 2) = some (srcs, sd, v) ∧ Ready demo srcs :=
  ⟨_, _, _, rfl, demo_ready _⟩

/-- The same with a vector length of 4. -/
def demoVl : State := { demo with cores := [(0, { grant := { vtype := 2, vl := 4 } })] }

theorem wit_Queries : (∃ srcs sd v, queryRule demo (.vlqFrame 9 1) = some (srcs, sd, v) ∧ Ready demo srcs ∧ demo.vl = 0) ∧
    ∃ srcs sd v, queryRule demoVl (.vlqMax 9 2) = some (srcs, sd, v) ∧ Ready demoVl srcs ∧ demoVl.vl ≠ 0 ∧ LanesRun demoVl :=
  ⟨⟨_, _, _, rfl, demo_ready _, rfl⟩, _, _, _, rfl, ⟨rfl, rfl, rfl, by decide +kernel⟩, by decide +kernel,
    show ∀ l, l < 16 → _ by decide +kernel⟩

theorem wit_ReadersWait : (∃ srcs sd v, intRule demoLate (.sub 9 5 1) = some (srcs, sd, v) ∧ demoLate.busy srcs = true) ∧
    ∃ srcs sd v, queryRule demoLate (.vlqFrame 9 5) = some (srcs, sd, v) ∧ demoLate.busy srcs = true :=
  ⟨⟨_, _, _, rfl, by decide +kernel⟩, _, _, _, rfl, by decide +kernel⟩

theorem wit_DivisionCorners : Ready demoRegs [6, 7] ∧ demoRegs.getS 7 = 0 ∧ Ready demoRegs [6, 3] ∧
    demoRegs.getS 6 = BitVec.intMin 64 ∧ demoRegs.getS 3 = BitVec.allOnes 64 ∧ Ready demoRegs [6, 1] ∧ demoRegs.getS 1 ≠ 0 ∧
    ¬(demoRegs.getS 6 = BitVec.intMin 64 ∧ demoRegs.getS 1 = BitVec.allOnes 64) :=
  ⟨regs_ready _, by decide +kernel, regs_ready _, by decide +kernel, by decide +kernel, regs_ready _, by decide +kernel,
    by decide +kernel⟩

theorem wit_FloatWords : ∃ srcs sd r, floatRule demo (.ffma 9 4 4 4) = some (srcs, sd, r) ∧ Ready demo srcs :=
  ⟨_, _, _, rfl, demo_ready _⟩

/-- A 4-byte read of the data. -/
def demoLoad := scalarLoad demo demo.who 0x11000 4

theorem wit_Loads : loadRule (.ldc 0 2 false 9 2 0) = some (2, true, true, 9, 2, 0) ∧ Ready demo [2] ∧
    demo.recalled demo.who 1 (demo.getS 2 + (0 : BitVec 32).signExtend 64) (2 ^ (2 : BitVec 2).toNat) = false ∧
    ∃ s1 v, scalarLoad demo demo.who (demo.getS 2 + (0 : BitVec 32).signExtend 64) (2 ^ (2 : BitVec 2).toNat) = .ok (s1, v) :=
  ⟨rfl, demo_ready _, by decide +kernel, _, _, two_spec (d := (demo, 0)) (by decide +kernel)⟩

theorem wit_LoadedValue : (0x11000 : Word).toNat % 4 = 0 ∧
    (∃ s1 p, checkAccess demo demo.who 1 0x11000 4 none = .ok (s1, p)) ∧ (0x11001 : Word).toNat % 4 ≠ 0 ∧
    (∃ s1 b t v, loadAt demo demo.who 0x11001 1 = .ok (s1, b) ∧ loadBytesAt s1 demo.who (0x11001 + 1) (4 - 1) = .ok (t, v)) :=
  ⟨by decide, ⟨_, _, two_spec (d := (demo, .dev 0)) (by decide +kernel)⟩, by decide, _, _, _, _,
    two_spec (d := (demo, 0)) (by decide +kernel), two_spec (d := (demo, 0)) (by decide +kernel)⟩

theorem wit_Stores : Ready demo [1, 2] ∧
    demo.recalled demo.who 2 (demo.getS 2 + (8 : BitVec 32).signExtend 64) (2 ^ (3 : BitVec 2).toNat) = false ∧
    ∃ s1 p, checkAccess demo (demo.who.on 0) 2 (demo.getS 2 + (8 : BitVec 32).signExtend 64) (2 ^ (3 : BitVec 2).toNat) none
      = .ok (s1, p) :=
  ⟨demo_ready _, by decide +kernel, _, _, two_spec (d := (demo, .dev 0)) (by decide +kernel)⟩

/-- A misaligned store within the data page, and one that runs past its end. -/
def demoCross (imm : BitVec 32) := storeBytesAt demo (demo.who.on 0) (demo.getS 2 + imm.signExtend 64) (2 ^ (3 : BitVec 2).toNat)
  ((demo.getS 1).toNat % 2 ^ (8 * 2 ^ (3 : BitVec 2).toNat))

theorem wit_MisalignedStores : Ready demo [1, 2] ∧
    (demo.getS 2 + (0xFFC : BitVec 32).signExtend 64).toNat % 2 ^ (3 : BitVec 2).toNat ≠ 0 ∧
    demo.recalled demo.who 2 (demo.getS 2 + (0xFFC : BitVec 32).signExtend 64) (2 ^ (3 : BitVec 2).toNat) = false ∧
    (demoCross 1).2 = none ∧ (∃ x, (demoCross 0xFFC).2 = some x ∧ x.abort = false) ∧ Untraced demo demo.curCoreNo 2 ∧
    HasHandler (demoCross 0xFFC).1 :=
  ⟨demo_ready _, by decide +kernel, by decide +kernel, by decide +kernel,
    ⟨{ cause := .page, kind := 2, val := 0x12000 }, by decide +kernel, rfl⟩, untraced_of rfl, by decide +kernel, by decide +kernel⟩

theorem wit_Atomics : ∃ strm op wid sd sa sb srcs v2,
    atomicRule demo (.amoCas 0 3 9 2 1 3) = some (strm, op, wid, sd, sa, sb, srcs, v2) ∧
    Ready demo srcs ∧ demo.recalled demo.who 3 (demo.getS sa) (2 ^ wid.toNat) = false ∧
    ∃ s1 p, checkAccess demo (demo.who.on strm) 3 (demo.getS sa) (2 ^ wid.toNat) (some op) = .ok (s1, p) :=
  ⟨_, _, _, _, _, _, _, _, rfl, demo_ready _, by decide +kernel, _, _, two_spec (d := (demo, .dev 0)) (by decide +kernel)⟩

/-- The same core running a BUFFERED task. -/
def demoTask (buffered : Bool) : State :=
  { demo with cores := [(0, { task := some { launch := 0, n := 0, x := [0, 0, 0, 0, 0, 0], phase := .running, record := 0,
                                             corr := 0, asid := 0, ptroot := 0x1000, gang := 1, buffered := buffered, ppol := 0, gt := 0, heat := 0,
                                             partw := 0x2002 } })] }

theorem task_ready (rs : List SReg) : Ready (demoTask true) rs := ⟨rfl, rfl, rfl, by
  show (rs.any fun r => !(0 : BitVec 32).getLsbD r.toNat && ([] : List (Nat × Nat × Bool)).any fun e => e.1 = r.toNat) = false
  simp⟩

theorem wit_PostedAtomics :
    (Ready (demoTask true) [2, 1] ∧
      (demoTask true).recalled (demoTask true).who 3 ((demoTask true).getS 2) (2 ^ (3 : BitVec 2).toNat) = false ∧
      (∃ s1 p, checkAccess (demoTask true) ((demoTask true).who.on 0) 3 ((demoTask true).getS 2) (2 ^ (3 : BitVec 2).toNat) (some .add)
        = .ok (s1, p) ∧ p.outside = true ∧ (demoTask true).buffered (demoTask true).curCoreNo = true)) ∧
    (Ready demo [2, 1] ∧ demo.recalled demo.who 3 (demo.getS 2) (2 ^ (3 : BitVec 2).toNat) = false ∧
      ∃ s1 p, checkAccess demo (demo.who.on 0) 3 (demo.getS 2) (2 ^ (3 : BitVec 2).toNat) (some .add) = .ok (s1, p) ∧
        (p.outside && demo.buffered demo.curCoreNo) = false) :=
  ⟨⟨task_ready _, by decide +kernel, _, _, two_spec (d := (demo, .dev 0)) (by decide +kernel), by decide +kernel, rfl⟩,
    demo_ready _, by decide +kernel, _, _, two_spec (d := (demo, .dev 0)) (by decide +kernel), by decide +kernel⟩

theorem wit_AccessTraps : HasHandler demoRegs ∧ Untraced demoRegs demoRegs.curCoreNo 2 ∧
    (∃ srcs wid a, accessRule demoRegs (.amoP 0 .add 3 8 1) = some (srcs, 3, wid, a) ∧ Ready demoRegs srcs ∧
      demoRegs.recalled demoRegs.who 3 a (2 ^ wid.toNat) = false ∧ canonical a = true ∧ a.toNat % 2 ^ wid.toNat ≠ 0) ∧
    (∀ i ∈ [Instr.ld 0 3 10 9 0, .ldU 0 2 10 9 0, .ldc 0 1 false 10 9 0, .st 0 3 1 9 0, .amo 0 .add 3 10 9 1,
        .amoCas 0 3 10 9 1 2, .amoP 0 .add 3 9 1],
      ∃ srcs kind wid a, accessRule demoRegs i = some (srcs, kind, wid, a) ∧ Ready demoRegs srcs ∧
        demoRegs.recalled demoRegs.who kind a (2 ^ wid.toNat) = false ∧ canonical a = false) := by
  refine ⟨regs_handler, untraced_of rfl, ⟨_, _, _, rfl, regs_ready _, by decide +kernel, by decide +kernel, by decide +kernel⟩, ?_⟩
  simp only [List.forall_mem_cons, List.not_mem_nil, false_implies, implies_true, and_true]
  refine ⟨?_, ?_, ?_, ?_, ?_, ?_, ?_⟩ <;>
    exact ⟨_, _, _, _, rfl, regs_ready _, by decide +kernel, by decide +kernel⟩

theorem wit_TranslationFrame : ∃ s1 l, translate demo 0 0 0x1000 0x10000 0 false = .ok (s1, l) :=
  ⟨_, _, two_spec (d := (demo, ⟨0, 0, 0, 0, 0, [], false⟩)) (by decide +kernel)⟩

/-! ## Control: states that meet the hypotheses -/

/-- A block header (R28) of one word, with a reconvergence field. -/
def hdrWord (len reconv : Nat) : Nat := 63 * 2 ^ 58 + len * 2 ^ 50 + 63 * 2 ^ 44 + 31 * 2 ^ 39 + reconv * 2 ^ 23

/-- Behind the block: a header at 0x10028 that reconverges at 0x10000; within it, at 0x10010, a header of no words; in the
data, at 0x11100, the block's address. -/
def demoFlow (f : Hart → Hart) : State :=
  let m := Memory.store (Memory.store demo.mem 0x6010 8 (hdrWord 0 0)) 0x6028 8 (hdrWord 1 0xFFFB)
  { demoWith f with mem := Memory.store m 0x7100 8 0x10000 }

/-- The same with the sequencer changed, and the spill area at 0x11200. -/
def flowSeq (f : Seq → Seq) : State := demoFlow fun h => { h with rspbase := 0x11200, seq := f h.seq }

/-- A state whose focus is an undisturbed hart 0 is ready for a word without sources. -/
theorem ready_of {s : State} {rs : List SReg} (h : (s.cur.window.isEmpty && s.cur.seq.ownGrant.isNone && !s.cur.slip &&
    !s.busy rs) = true) : Ready s rs := by
  simp only [Bool.and_eq_true, List.isEmpty_iff, Option.isNone_iff_eq_none, Bool.not_eq_true'] at h
  exact ⟨h.1.1.1, h.1.1.2, h.1.2, h.2⟩

/-- Whether a state has a handler can be evaluated. -/
theorem handler_of {s : State} (h : (!s.cur.handler && tvecOk s s.focus) = true) : HasHandler s := by
  simp only [Bool.and_eq_true, Bool.not_eq_true'] at h
  exact ⟨h.1, h.2⟩

theorem wit_Branches : (∃ s1, jumpRule demo (.bc 6 1 2 0xFFFFFFFF) = some ([1, 2], 0x10000) ∧ Ready demo [1, 2] ∧
      checkTarget demo 0x10000 = .ok s1) ∧
    holdsCond (7 : BitVec 4).toNat (demo.getS 2) (demo.getS 1) = false ∧ Ready demo [2, 1] :=
  ⟨⟨_, by decide +kernel, demo_ready _, got_spec (d := demo) (by decide +kernel)⟩, by decide +kernel, demo_ready _⟩

theorem wit_BadTargets : HasHandler demoRegs ∧ Untraced demoRegs demoRegs.curCoreNo 2 ∧
    (jumpRule demoRegs (.jmpr 9) = some ([9], demoRegs.getS 9) ∧ Ready demoRegs [9] ∧ canonical (demoRegs.getS 9) = false) ∧
    (jumpRule demoRegs (.jmpr 8) = some ([8], demoRegs.getS 8) ∧ Ready demoRegs [8] ∧ canonical (demoRegs.getS 8) = true ∧
      (demoRegs.getS 8).toNat % 8 ≠ 0) ∧
    (∃ s1 w, jumpRule demoRegs (.br 0) = some ([], branchTarget demoRegs 0) ∧ canonical (branchTarget demoRegs 0) = true ∧
      (branchTarget demoRegs 0).toNat % 8 = 0 ∧ fetchAt demoRegs.synced demoRegs.focus (branchTarget demoRegs 0) = .ok (s1, w) ∧
      isHeader w = false) ∧
    (∃ s1 w, Ready (demoFlow id) [] ∧ HasHandler (demoFlow id) ∧
      fetchAt (demoFlow id).synced (demoFlow id).focus (branchTarget (demoFlow id) 1) = .ok (s1, w) ∧ isHeader w = true ∧
      s1.headerOk s1.focus w = false) :=
  ⟨regs_handler, untraced_of rfl, ⟨rfl, regs_ready _, by decide +kernel⟩, ⟨rfl, regs_ready _, by decide +kernel, by decide +kernel⟩,
    ⟨_, _, rfl, by decide +kernel, by decide +kernel, two_spec (d := (demo, 0)) (by decide +kernel), by decide +kernel⟩,
    _, _, ready_of (by decide +kernel), handler_of (by decide +kernel), two_spec (d := (demo, 0)) (by decide +kernel),
    by decide +kernel, by decide +kernel⟩

/-- A return store with `n` entries. -/
def demoRets (n spilled : Nat) : State := flowSeq fun q => { q with rets := List.replicate n 0x10000, rspill := spilled }

theorem wit_Calls : (∃ srcs a s1, callRule (demoRets 15 0) (.call 0xFFFFFFFF) = some (srcs, a) ∧ Ready (demoRets 15 0) srcs ∧
      checkTarget (demoRets 15 0) a = .ok s1 ∧ (demoRets 15 0).cur.seq.rets.length < 16) ∧
    (∃ srcs a s1 s2 p, callRule (demoRets 16 0) (.call 0xFFFFFFFF) = some (srcs, a) ∧ Ready (demoRets 16 0) srcs ∧
      checkTarget (demoRets 16 0) a = .ok s1 ∧ (demoRets 16 0).cur.seq.rets.length = 16 ∧ (demoRets 16 0).cur.seq.rspill < 2 ^ 24 - 1 ∧
      s1.recalled s1.who 2 ((demoRets 16 0).cur.rspbase + BitVec.ofNat 64 (8 * (demoRets 16 0).cur.seq.rspill)) 8 = false ∧
      checkAccess s1 s1.who 2 ((demoRets 16 0).cur.rspbase + BitVec.ofNat 64 (8 * (demoRets 16 0).cur.seq.rspill)) 8 none
        = .ok (s2, p)) :=
  ⟨⟨_, _, _, rfl, ready_of (by decide +kernel), got_spec (d := demo) (by decide +kernel), by decide⟩,
    _, _, _, _, _, rfl, ready_of (by decide +kernel), got_spec (d := demo) (by decide +kernel), by decide, by decide,
    by decide +kernel, two_spec (d := (demo, .dev 0)) (by decide +kernel)⟩

/-- A spilled return address at 0x11100. -/
def demoSpilled : State := demoFlow fun h => { h with rspbase := 0x11100, seq := { h.seq with rspill := 1 } }

theorem wit_Returns : Ready (demoRets 1 0) [] ∧ (∃ a rest s1, (demoRets 1 0).cur.seq.rets = a :: rest ∧
      checkTarget (demoRets 1 0) a = .ok s1) ∧
    (Ready demoSpilled [] ∧ demoSpilled.cur.seq.rets = [] ∧ demoSpilled.cur.seq.rspill ≠ 0 ∧
      demoSpilled.recalled demoSpilled.who 1 (demoSpilled.cur.rspbase + BitVec.ofNat 64 (8 * (1 - 1))) 8 = false ∧
      ∃ s0 p s1 v s2,
        checkAccess demoSpilled demoSpilled.who 1 (demoSpilled.cur.rspbase + BitVec.ofNat 64 (8 * (1 - 1))) 8 none = .ok (s0, p) ∧
        loadAt demoSpilled demoSpilled.who (demoSpilled.cur.rspbase + BitVec.ofNat 64 (8 * (1 - 1))) 8 = .ok (s1, v) ∧
        demoSpilled.meddled demoSpilled.focus p = false ∧ checkTarget s1 (BitVec.ofNat 64 v) = .ok s2) ∧
    (Ready demo [] ∧ demo.cur.seq.rets = [] ∧ demo.cur.seq.rspill = 0 ∧ HasHandler demo ∧ Untraced demo demo.curCoreNo 2) :=
  ⟨ready_of (by decide +kernel), ⟨_, _, _, rfl, got_spec (d := demo) (by decide +kernel)⟩,
    ⟨ready_of (by decide +kernel), rfl, by decide +kernel, by decide +kernel, _, _, _, _, _,
      two_spec (d := (demo, .dev 0)) (by decide +kernel), two_spec (d := (demo, 0)) (by decide +kernel), by decide +kernel,
      got_spec (d := demo) (by decide +kernel)⟩,
    demo_ready _, rfl, rfl, demo_handler, untraced_of rfl⟩

/-- A loop stack with `n` entries of two iterations, the innermost at index `i`. -/
def demoLoops (n : Nat) (i : Word) : State := flowSeq fun q => { q with loops := List.replicate n ⟨i, 2, 0x10000⟩ }

theorem wit_LoopStarts :
    (∃ srcs c s1 w, loopRule (demoLoops 5 0) (.loopi 3) = some (srcs, c) ∧ Ready (demoLoops 5 0) srcs ∧
      canonical (fallAddress (demoLoops 5 0)) = true ∧
      fetchAt (demoLoops 5 0).synced (demoLoops 5 0).focus (fallAddress (demoLoops 5 0)) = .ok (s1, w) ∧ isHeader w = true ∧ c ≠ 0 ∧
      (demoLoops 5 0).cur.seq.loops.length < 6) ∧
    (∃ srcs c s1 w s2, loopRule (demoLoops 5 0) (.loopi 0) = some (srcs, c) ∧
      fetchAt (demoLoops 5 0).synced (demoLoops 5 0).focus (fallAddress (demoLoops 5 0)) = .ok (s1, w) ∧ isHeader w = true ∧ c = 0 ∧ hReconv w ≠ 0 ∧
      checkTarget s1 (fallAddress (demoLoops 5 0) + 8 * (hReconv w).signExtend 64) = .ok s2 ∧ Ready (demoLoops 5 0) srcs) ∧
    (∃ srcs c, loopRule (demoLoops 6 0) (.loop 1) = some (srcs, c) ∧ Ready (demoLoops 6 0) srcs ∧
      (demoLoops 6 0).cur.seq.loops.length = 6 ∧ c ≠ 0 ∧ HasHandler (demoLoops 6 0) ∧ Untraced (demoLoops 6 0) (demoLoops 6 0).curCoreNo 2) :=
  ⟨⟨_, _, _, _, rfl, ready_of (by decide +kernel), by decide +kernel, two_spec (d := (demo, 0)) (by decide +kernel),
      by decide +kernel, by decide, by decide⟩,
    ⟨_, _, _, _, _, rfl, two_spec (d := (demo, 0)) (by decide +kernel), by decide +kernel, rfl, by decide +kernel,
      got_spec (d := demo) (by decide +kernel), ready_of (by decide +kernel)⟩,
    _, _, rfl, ready_of (by decide +kernel), by decide, by decide +kernel, handler_of (by decide +kernel), untraced_of rfl⟩

theorem wit_LoopEnds :
    (∃ e rest s1, (demoLoops 1 0).cur.seq.loops = e :: rest ∧ (e.idx + 1).toNat < e.cnt.toNat ∧
      checkTarget (demoLoops 1 0) e.hdr = .ok s1 ∧ Ready (demoLoops 1 0) []) ∧
    (∃ e rest, (demoLoops 1 1).cur.seq.loops = e :: rest ∧ e.cnt.toNat ≤ (e.idx + 1).toNat ∧ Ready (demoLoops 1 1) []) ∧
    (Ready demo [] ∧ demo.cur.seq.loops = [] ∧ HasHandler demo ∧ Untraced demo demo.curCoreNo 2) :=
  ⟨⟨_, _, _, rfl, by decide, got_spec (d := demo) (by decide +kernel), ready_of (by decide +kernel)⟩,
    ⟨_, _, rfl, by decide, ready_of (by decide +kernel)⟩, demo_ready _, rfl, demo_handler, untraced_of rfl⟩

theorem wit_LoopBreaks :
    (∃ srcs a h e rest s1, breakRule (demoLoops 1 0) (.brkloopCond 1 1 2 0xFFFFFFFF) = some (srcs, a, h) ∧
      Ready (demoLoops 1 0) srcs ∧ (demoLoops 1 0).cur.seq.loops = e :: rest ∧ h = true ∧ checkTarget (demoLoops 1 0) a = .ok s1) ∧
    (∃ srcs a h, breakRule (demoLoops 1 0) (.brkloopCond 0 1 2 0xFFFFFFFF) = some (srcs, a, h) ∧ h = false ∧
      (demoLoops 1 0).cur.seq.loops ≠ []) ∧
    (∃ srcs a h, breakRule demo (.brkloop 0) = some (srcs, a, h) ∧ Ready demo srcs ∧ demo.cur.seq.loops = [] ∧
      HasHandler demo ∧ Untraced demo demo.curCoreNo 2) :=
  ⟨⟨_, _, _, _, _, _, rfl, ready_of (by decide +kernel), rfl, by decide +kernel, got_spec (d := demo) (by decide +kernel)⟩,
    ⟨_, _, _, rfl, by decide +kernel, by decide⟩, _, _, _, rfl, demo_ready _, rfl, demo_handler, untraced_of rfl⟩

/-- A mask stack with `n` entries, in a block that reconverges at 0x10028. -/
def demoMasks (n : Nat) : State := flowSeq fun q => { q with masks := List.replicate n ⟨1, 3, 0x10028⟩, reconv := 5 }

theorem mask_empty {m : BitVec 2048} {n : Nat} (h : n = 0) : maskHolds 2 m n ∧ ¬maskHolds 0 m n := by
  subst h
  exact ⟨fun e h => absurd h (Nat.not_lt_zero e), fun ⟨e, h, _⟩ => Nat.not_lt_zero e h⟩

theorem wit_MaskBranches :
    (Ready (demoMasks 7) [] ∧ (demoMasks 7).cur.seq.reconv ≠ 0 ∧ ∃ s1 s2, checkReconv (demoMasks 7) 0x10028 = .ok s1 ∧
      (0x10028 : Word) = (demoMasks 7).cur.seq.blk + 8 * (demoMasks 7).cur.seq.reconv.signExtend 64 ∧
      maskHolds 2 ((demoMasks 7).cur.vec.mask (3 : MReg).toNat) (demoMasks 7).vl ∧
      checkTarget s1 (branchTarget (demoMasks 7) 0xFFFFFFFF) = .ok s2 ∧ (demoMasks 7).cur.seq.masks.length < 8) ∧
    (∃ s1 old s3, checkReconv (demoMasks 8) 0x10028 = .ok s1 ∧
      ¬maskHolds 0 ((demoMasks 8).cur.vec.mask (3 : MReg).toNat) (demoMasks 8).vl ∧
      (demoMasks 8).cur.seq.masks.length = 8 ∧ (demoMasks 8).cur.seq.mspill < 2 ^ 24 - 1 ∧ (demoMasks 8).cur.seq.masks.getLast? = some old ∧
      s1.recalled s1.who 2 ((demoMasks 8).cur.rspbase - BitVec.ofNat 64 (320 * (0 + 1))) 320 = false ∧
      writeRun s1 s1.who ((demoMasks 8).cur.rspbase - BitVec.ofNat 64 (320 * (0 + 1))) 8 40 (maskEntryBytes old) = (s3, none)) :=
  ⟨⟨ready_of (by decide +kernel), by decide +kernel, _, _, got_spec (d := demo) (by decide +kernel), by decide +kernel,
      (mask_empty (by decide +kernel)).1, got_spec (d := demo) (by decide +kernel), by decide⟩,
    _, _, _, got_spec (d := demo) (by decide +kernel), (mask_empty (by decide +kernel)).2, by decide, by decide +kernel, rfl,
    by decide +kernel, pair_spec (by decide +kernel)⟩

/-- The hart at its header, with `ms` on its mask stack. -/
def demoArriving (ms : List MaskEntry) : State := demoSeq fun q => { q with pc := 0x10000, arriving := true, masks := ms }

/-- What a header's turn asks of its hart and its fetch. -/
theorem arriving_of {s : State} (h : (s.pstate = 0 && (s.cur.status = .running) && s.cur.recorded.isNone && s.cur.window.isEmpty &&
    s.cur.seq.arriving && !heldAtBoundary s 0) = true) : s.pstate = 0 ∧ s.cur.status = .running ∧ s.cur.recorded = none ∧
    s.cur.window = [] ∧ s.cur.seq.arriving = true ∧ heldAtBoundary s 0 = false := by
  simpa [and_assoc] using h

/-- The same with an entry spilled at 0x110C0. -/
def demoRefill : State := demoWith fun h => { h with rspbase := 0x11200, seq := { h.seq with
  pc := 0x10000, arriving := true, masks := [⟨1, 3, 0x10000⟩], mspill := 1 } }

theorem wit_Headers : (∀ ms ∈ [[], [⟨1, 3, 0x10000⟩], [⟨1, 3, 0x10000⟩, ⟨1, 4, 0x10000⟩, ⟨1, 3, 0x10028⟩]],
    ((demoArriving ms).pstate = 0 ∧ (demoArriving ms).cur.status = .running ∧ (demoArriving ms).cur.recorded = none ∧
      (demoArriving ms).cur.window = [] ∧ (demoArriving ms).cur.seq.arriving = true ∧ heldAtBoundary (demoArriving ms) 0 = false) ∧
    NoRefill (demoArriving ms).cur (demoArriving ms).cur.seq.pc ∧
    ∃ s1 w, fetchAt (demoArriving ms) 0 (demoArriving ms).cur.seq.pc = .ok (s1, w) ∧ isHeader w = true ∧
      s1.headerOk s1.focus w = true) ∧
    (demoRefill.pstate = 0 ∧ demoRefill.cur.status = .running ∧ demoRefill.cur.recorded = none ∧
      demoRefill.cur.window = [] ∧ demoRefill.cur.seq.arriving = true ∧ heldAtBoundary demoRefill 0 = false) ∧
    ∃ s1 w s2 bs, fetchAt demoRefill 0 demoRefill.cur.seq.pc = .ok (s1, w) ∧ isHeader w = true ∧ s1.headerOk s1.focus w = true ∧
      demoRefill.cur.seq.masks = [⟨1, 3, 0x10000⟩] ∧ demoRefill.cur.seq.mspill = 1 ∧ s1.recalled s1.who 1 0x110C0 320 = false ∧
      readRun s1 s1.who 0x110C0 8 40 = .ok (s2, bs) ∧ (maskEntryOf (spillBytes s1 0x110C0 bs)).rc ≠ demoRefill.cur.seq.pc := by
  refine ⟨?_, arriving_of (by decide +kernel), _, _, _, _, two_spec (d := (demo, 0)) (by decide +kernel), by decide +kernel,
    by decide +kernel, rfl, rfl, by decide +kernel, two_spec (d := (demo, [])) (by decide +kernel), by decide +kernel⟩
  simp only [List.forall_mem_cons, List.not_mem_nil, false_implies, implies_true, and_true]
  refine ⟨?_, ?_, ?_⟩ <;>
    exact ⟨arriving_of (by decide +kernel), .inl rfl, _, _, two_spec (d := (demo, 0)) (by decide +kernel), by decide +kernel,
      by decide +kernel⟩

theorem wit_FallThrough : (demoSeq fun q => { q with pc := 0x10020, blk := 0x10000 }).cur.seq.pc =
      (0x10000 : Word) + BitVec.ofNat 64 (8 * 4) ∧
    (let s := demoSeq fun q => { q with pc := 0x10028, arriving := true }
     s.pstate = 0 ∧ s.cur.status = .running ∧ s.cur.recorded = none ∧ s.cur.window = [] ∧ heldAtBoundary s 0 = false ∧
      s.cur.seq.pc = s.cur.seq.blk + BitVec.ofNat 64 (8 * (s.cur.seq.len + 1)) ∧
      ∃ s1 w, fetchAt s 0 s.cur.seq.pc = .ok (s1, w) ∧ w.extractLsb' 58 6 ≠ 63 ∧ HasHandler s1 ∧ Untraced s1 (0 / 4) 2) :=
  ⟨by decide +kernel, rfl, rfl, rfl, rfl, rfl, by decide +kernel, _, _, two_spec (d := (demo, 0)) (by decide +kernel),
    by decide +kernel, handler_of (by decide +kernel), untraced_of (by decide +kernel)⟩

/-! ## System words, traps and the grant: states that meet the hypotheses -/

/-- A launch of queue 0 in context 0 that walks, with an empty record. -/
def demoLaunch : Launch :=
  { queue := 0, asid := 0, ptroot := 0x1000, corr := 7, addr := 0x11000, record := List.replicate 512 0, phase := .walking }

/-- The core runs a task of that launch. -/
def demoRun (buffered : Bool) (f : Hart → Hart) : State :=
  { demoTask buffered with harts := [(0, f demoHart)], launches := [(0, some demoLaunch)] }

/-- A page fault on a read at 0x5000. -/
def demoTrap : Trap := { fault := { cause := .page, kind := 1, val := 0x5000 }, epc := 0x10008, blk := 0x10000 }

theorem wit_TrapEntry : demoTrap.fault.abort = false ∧ (demo.hart 0).handler = false ∧ tvecOk demo 0 = true ∧
    Untraced demo (0 / 4) 2 := ⟨rfl, rfl, by decide +kernel, untraced_of rfl⟩

theorem wit_DoubleTrap :
    (((demoRun false fun h => { h with handler := true }).hart 0).handler = true ∧
      ∃ y l, ((demoRun false fun h => { h with handler := true }).core (0 / 4)).task = some y ∧
        (demoRun false fun h => { h with handler := true }).launch y.launch = some l) ∧
    tvecOk (demoRun false fun h => { h with tvec := 0 }) 0 = false ∧
    ∃ y l, ((demoRun false fun h => { h with tvec := 0 }).core (0 / 4)).task = some y ∧
      (demoRun false fun h => { h with tvec := 0 }).launch y.launch = some l :=
  ⟨⟨rfl, _, _, rfl, rfl⟩, by decide +kernel, _, _, rfl, rfl⟩

/-- A session of queue 0 with the option bits `opt`, at debug level 2. -/
def demoSession (opt : Nat) : State :=
  { demoRun false id with
    debugLevel := 2
    queues := [(0, { trace := some { base := 0x11000, log := 4, opt := opt, sk := 0, slog := 0, sbase := 0, stseq := 0,
                                     sthart := 0, stwc := 0, corr := 0 } })] }

theorem wit_SoftwareTraps : (Ready (demoRun true id) [] ∧ HasHandler (demoRun true id) ∧
      Untraced (demoRun true id) (demoRun true id).curCoreNo 2 ∧
      (demoRun true id).stopSession (demoRun true id).curCoreNo 3 = none) ∧ Ready (demoSession 8) [] ∧
    ∃ q x, (demoSession 8).stopSession (demoSession 8).curCoreNo 3 = some (q, x) :=
  ⟨⟨ready_of (by decide +kernel), handler_of (by decide +kernel), fun _ h => by cases h; rfl, rfl⟩, ready_of (by decide +kernel), _, _, rfl⟩

/-- A handler that a trap on the first word entered, at VTYPE 2 and VL 64. -/
def demoReturn (epc : Word) : State := demoWith fun h => { h with
  handler := true, tepc := epc, tblk := 0x10000, trapAt := epc, tdone := 3, tstat := 0x4002 }

theorem wit_TrapReturn :
    (let s := demoReturn 0x10000
     Ready s [] ∧ s.cur.handler = true ∧
      (s.cur.tstat.extractLsb' 8 12).toNat ≤ maxLength ((s.cur.tstat.extractLsb' 0 8).setWidth 32) ∧
      s.cur.tstat.getLsbD 2 = s.vtype.getLsbD 2 ∧ s.cur.tblk.toNat % 8 = 0 ∧ s.cur.tepc = s.cur.tblk) ∧
    ∀ a ∈ [(0x10008 : Word), 0x10020], Ready (demoReturn a) [] ∧ (demoReturn a).cur.handler = true ∧
    ((demoReturn a).cur.tstat.extractLsb' 8 12).toNat ≤ maxLength (((demoReturn a).cur.tstat.extractLsb' 0 8).setWidth 32) ∧
    (demoReturn a).cur.tstat.getLsbD 2 = (demoReturn a).vtype.getLsbD 2 ∧ (demoReturn a).cur.tblk.toNat % 8 = 0 ∧
    (demoReturn a).cur.tepc ≠ (demoReturn a).cur.tblk ∧ NoRefill (demoReturn a).cur (demoReturn a).cur.tblk ∧
    (demoReturn a).cur.tepc.toNat % 8 = 0 ∧ (demoReturn a).cur.tblk.toNat < (demoReturn a).cur.tepc.toNat ∧
    ∃ s1 w, fetchAt (resumed (demoReturn a)) (demoReturn a).focus (demoReturn a).cur.tblk = .ok (s1, w) ∧
      isHeader w = true ∧ s1.headerOk s1.focus w = true ∧
      (demoReturn a).cur.tepc.toNat ≤ (demoReturn a).cur.tblk.toNat + 8 * hLen w := by
  refine ⟨⟨ready_of (by decide +kernel), rfl, by decide +kernel, by decide +kernel, by decide +kernel, rfl⟩, ?_⟩
  simp only [List.forall_mem_cons, List.not_mem_nil, false_implies, implies_true, and_true]
  refine ⟨?_, ?_⟩ <;>
    exact ⟨ready_of (by decide +kernel), rfl, by decide +kernel, by decide +kernel, by decide +kernel, by decide +kernel, .inl rfl,
      by decide +kernel, by decide +kernel, _, _, two_spec (d := (demo, 0)) (by decide +kernel), by decide +kernel,
      by decide +kernel, by decide +kernel⟩

/-- Handlers that a trap entered under the other mode, that return to the next block's header, and whose TBLK is misaligned. -/
def demoReturnTo (tstat tepc tblk : Word) : State := demoFlow fun h => { h with
  handler := true, tepc := tepc, tblk := tblk, tstat := tstat }

theorem wit_TrapReturn_others :
    (let s := demoReturnTo 0x4006 0x10000 0x10000
     Ready s [] ∧ s.cur.handler = true ∧
      (s.cur.tstat.extractLsb' 8 12).toNat ≤ maxLength ((s.cur.tstat.extractLsb' 0 8).setWidth 32) ∧
      s.cur.tblk.toNat % 8 = 0 ∧ s.cur.tepc = s.cur.tblk ∧ s.cur.tstat.getLsbD 2 ≠ s.vtype.getLsbD 2) ∧
    (let s := demoReturnTo 0x4002 0x10028 0x10000
     Ready s [] ∧ s.cur.handler = true ∧ s.cur.tstat.getLsbD 2 = s.vtype.getLsbD 2 ∧ s.cur.tblk.toNat % 8 = 0 ∧
      s.cur.tepc.toNat % 8 = 0 ∧ joined s.cur s.cur.tblk = [] ∧ ∃ s1 s2 w v, fetchAt (resumed s) s.focus s.cur.tblk = .ok (s1, w) ∧
        isHeader w = true ∧ s1.headerOk s1.focus w = true ∧ s.cur.tblk.toNat + 8 * hLen w < s.cur.tepc.toNat ∧
        fetchAt s1 s1.focus s.cur.tepc = .ok (s2, v) ∧ isHeader v = true ∧ s2.headerOk s2.focus v = true) ∧
    (let s := demoReturnTo 0x4002 0x10004 0x10004
     Ready s [] ∧ s.cur.handler = true ∧ s.cur.tstat.getLsbD 2 = s.vtype.getLsbD 2 ∧ canonical s.cur.tblk = true ∧
      s.cur.tblk.toNat % 8 ≠ 0 ∧ s.cur.tstat.getLsbD 20 = false ∧ tvecOk (resumed s) s.focus = true ∧ Untraced s s.curCoreNo 2) :=
  ⟨⟨ready_of (by decide +kernel), rfl, by decide +kernel, by decide +kernel, rfl, by decide +kernel⟩,
    ⟨ready_of (by decide +kernel), rfl, by decide +kernel, by decide +kernel, by decide +kernel, rfl, _, _, _, _,
      two_spec (d := (demo, 0)) (by decide +kernel), by decide +kernel, by decide +kernel, by decide +kernel,
      two_spec (d := (demo, 0)) (by decide +kernel), by decide +kernel, by decide +kernel⟩,
    ready_of (by decide +kernel), rfl, by decide +kernel, by decide +kernel, by decide +kernel, by decide +kernel,
    by decide +kernel, untraced_of rfl⟩

theorem wit_Privilege : forbidden demo (.csrw 9 0x026 1) ∧ forbidden demo .rett ∧ forbidden demo (.stamp 1 2 3 0) ∧
    demo.cur.window = [] ∧ HasHandler demo ∧ Untraced demo demo.curCoreNo 2 := by
  refine ⟨?_, ?_, ?_, rfl, demo_handler, untraced_of rfl⟩
  · exact ⟨rfl, by simp [taskWritable]⟩
  · exact rfl
  · exact rfl

theorem wit_SystemReads : Ready demo [] ∧ taskReadable 0x029 ∧ taskReadable 0x01F ∧ ¬taskReadable 0x020 ∧ ¬taskReadable 0x041 := by
  refine ⟨demo_ready _, ?_, ?_, ?_, ?_⟩ <;> unfold taskReadable <;> decide

/-- S1 = 256 and S2 = 1, at handler level, with one loop entry. -/
def demoSys : State := demoWith fun h => { h with
  handler := true, seq := { h.seq with s := [(1, 256), (2, 1)], loops := [⟨0, 2, 0x10000⟩] } }

theorem wit_SystemWrites : (∃ v w, csrRule demo (.csrs 9 0x000 1) = some (9, 0x000, 1, v) ∧ Ready demo [1] ∧ taskWritable 0x000 ∧
      sysWritten demo 0x000 v = some w) ∧
    (∃ v w, csrRule demoSys (.csrw 9 0x070 1) = some (9, 0x070, 1, v) ∧ Ready demoSys [1] ∧ taskWritable 0x070 ∧
      sysWritten demoSys 0x070 v = some w ∧ 1 ≤ v.toNat ∧ v.toNat ≤ 256) ∧
    (∃ v w, csrRule demoSys (.csrw 9 0x070 2) = some (9, 0x070, 2, v) ∧ sysWritten demoSys 0x070 v = some w ∧ 1 ≤ v.toNat) ∧
    (∀ r ∈ [(0x0A0 : BitVec 12), 0x0A5, 0x0A8, 0x0AD, 0x0B0, 0x0B5, 0x010, 0x017, 0x020, 0x028, 0x050],
      ∃ v w, csrRule demoSys (.csrw 9 r 1) = some (9, r, 1, v) ∧ Ready demoSys [1] ∧ demoSys.cur.handler = true ∧
        sysWritten demoSys r v = some w) := by
  have h1 : demo.getS 1 = 5 := by decide +kernel
  refine ⟨⟨_, _, rfl, demo_ready _, Or.inl rfl, rfl⟩, ⟨_, _, rfl, ready_of (by decide +kernel), ?_, rfl, by decide +kernel,
    by decide +kernel⟩, ⟨_, _, rfl, rfl, by decide +kernel⟩, ?_⟩
  · unfold taskWritable
    decide
  · intro r h
    simp only [List.mem_cons, List.not_mem_nil, or_false] at h
    rcases h with rfl | rfl | rfl | rfl | rfl | rfl | rfl | rfl | rfl | rfl | rfl <;>
      exact ⟨_, _, rfl, ready_of (by decide +kernel), rfl, rfl⟩

/-- Two harts of a gang. -/
def demoGang (f g : Hart → Hart) : State := { demo with harts := [(0, f demoHart), (1, g demoHart)] }

theorem wit_PlainWords : (∃ srcs h, plainRule demo (.yield 0) = some (srcs, h) ∧ Ready demo srcs) ∧
    (∃ srcs h, plainRule demo .gbar = some (srcs, h) ∧ Ready demo srcs) ∧
    (∃ srcs h, plainRule demo (.mark 1 3) = some (srcs, h) ∧ Ready demo srcs) ∧
    Ready (demoGang id id) [] ∧ 1 < (gangOf (demoGang id id) (demoGang id id).curCoreNo).length := by
  have hm : plainRule demo (.mark 1 3) = some ([1], demo.cur.passes) := by
    unfold plainRule
    exact if_neg (by decide +kernel)
  have hg : plainRule demo .gbar = some ([], demo.cur.passes) := by
    unfold plainRule
    exact if_pos (by decide +kernel)
  exact ⟨⟨_, _, rfl, demo_ready _⟩, ⟨_, _, hg, demo_ready _⟩, ⟨_, _, hm, demo_ready _⟩, ready_of (by decide +kernel),
    by decide +kernel⟩

/-- At handler level, with the root of the tables in S2. -/
def demoSwitch : State := demoWith fun h => { h with handler := true, seq := { h.seq with s := [(1, 5), (2, 0x1000)] } }

theorem wit_ContextSwitch : Ready demoSwitch [1, 2] ∧ demoSwitch.cur.handler = true ∧ (demoSwitch.getS 1).toNat < 2 ^ 16 ∧
    (demoSwitch.getS 2).toNat % 2 ^ 12 = 0 :=
  ⟨ready_of (by decide +kernel), rfl, by decide +kernel, by decide +kernel⟩

/-- A WFE that waits for B1, whose phase was 0 when it began; the barrier's phase is now `p`. -/
def demoWaits (p : Bool) : State := { demoWith (fun h => { h with wait := some (.wfe 2 (List.replicate 64 0) none 9 false) }) with
  cores := [(0, { bars := [(1, { phase := p, epoch := if p then 1 else 0 })] })] }

theorem wit_EventWaits : (Ready (demoWaits true) [1, 2] ∧ preempted (demoWaits true) (demoWaits true).curCoreNo = false ∧
      (demoWaits true).cur.wait = some (.wfe 2 (List.replicate 64 0) none 9 false)) ∧
    (Ready (demoWaits false) [1, 2] ∧ preempted (demoWaits false) (demoWaits false).curCoreNo = false) ∧
    (Ready demo [1, 2] ∧ demo.cur.wait = none ∧
      ∀ n, n < 64 → (demo.getS 1).getLsbD n = true → (demo.curCore.barAt n).err = false) :=
  ⟨⟨ready_of (by decide +kernel), rfl, rfl⟩, ⟨ready_of (by decide +kernel), rfl⟩, demo_ready _, rfl, fun _ _ _ => rfl⟩

/-- An attested mark kernel of a sealed context. -/
def demoMark : State := { demoRun false id with
  launches := [(0, some { demoLaunch with attested := true })]
  policies := [{ asid := 0, mcode := 0, mlen := 0, mmeas := [], model := [], reservedSet := false }] }

theorem wit_StampWords : Ready demoMark [1, 2, 3] ∧ attested demoMark demoMark.curCoreNo = true :=
  ⟨ready_of (by decide +kernel), by decide +kernel⟩

theorem wit_SetLength : (∃ srcs vt n, setlenRule demo (.setvl 9 2 2) = some (srcs, 9, vt, n) ∧ Ready demo srcs) ∧
    (∃ srcs vt n, setlenRule demo (.setvliK 9 0xFFF) = some (srcs, 9, vt, n) ∧ Ready demo srcs) :=
  ⟨⟨_, _, _, rfl, demo_ready _⟩, _, _, _, rfl, demo_ready _⟩

theorem wit_ModeChange : Ready demo [] ∧ demo.cur.status = .running ∧ demo.vl = 0 ∧ Ready demoVl [] ∧
    demoVl.cur.status = .running ∧ LanesRun demoVl ∧ false = demo.vtype.getLsbD 2 ∧ true ≠ demo.vtype.getLsbD 2 :=
  ⟨demo_ready _, rfl, rfl, ready_of (by decide +kernel), rfl, show ∀ l, l < 16 → _ by decide +kernel, by decide +kernel,
    by decide +kernel⟩

/-! ## Lane words: states that meet the hypotheses -/

/-- A lane word runs where its checks, evaluated, pass. -/
theorem runs_of {w : LaneWord} {s : State} (h : (s.cur.window.isEmpty && s.cur.seq.ownGrant.isNone && !s.cur.slip &&
    !s.busy w.srcs) = true) (g : (w.ok && (operands w.job).all (fun o => opOk o s.regs s.vl s.vtype) &&
    (decide (s.vl ≠ 0) || isVdq w.job) && !laneRecalled s s.focus (w.instr s) (planeOf s) &&
    (List.range 16).all (fun l => !s.curCore.laneHeld s.clock l) && (!isMemKind w.job ||
      (List.range 16).all (fun l => outstanding s s.curCoreNo l < s.curCore.cap l)) && s.cur.foreign.isEmpty) = true) : w.Runs s := by
  simp only [Bool.and_eq_true, List.all_eq_true, Bool.or_eq_true, decide_eq_true_eq, Bool.not_eq_true', List.isEmpty_iff,
    List.mem_range] at g
  exact ⟨ready_of h, ⟨g.1.1.1.1.1.1, g.1.1.1.1.1.2⟩, g.1.1.1.1.2, g.1.1.1.2, g.1.1.2,
    fun hm => g.1.2.resolve_left (by simp [hm]), fun f hf => by simp [g.2] at hf⟩

/-- The slices that a lane word needs are full and sound where that is what they evaluate to. -/
theorem full_of {w : LaneWord} {s : State} (h : (needs (w.instr s) (planeOf s)).all (fun n =>
    (planeOf s).full n.reg n.lane && decide ((s.cur.vec.slice n.reg n.lane).poison = 0)) = true) : w.Full s := by
  intro n hn
  simpa using List.all_eq_true.1 h n hn

/-- VL 18 at 32-bit elements; F1 names INT32; V1 holds 7, 8 in elements 0 and 1, and V2 holds 4 in element 1; M1 has bits 0,
1 and 17; slice 3 of V5 is empty. -/
def demoVec (f : Hart → Hart) : State :=
  { demoWith (fun h => f { h with
      seq := { h.seq with f := [(1, 0x44440000)] }
      vec := { v := [(16, { bits := 7 }), (17, { bits := 8 }), (33, { bits := 4 }), (83, { full := false })],
               m := [(1, 0x20003)] } }) with
    cores := [(0, { grant := { vtype := 2, vl := 18 } })] }

/-- VADD V3, V1, V2, M1, F1. -/
def addWord : LaneWord := { job := .arith .add ⟨.row, false, 3⟩ ⟨.row, false, 1⟩ ⟨.row, false, 2⟩ noOp, fmt := 0x44440000, mask := 1 }

theorem addWord_rule : laneRule (demoVec id) (.vadd ⟨.row, false, 3⟩ ⟨.row, false, 1⟩ ⟨.row, false, 2⟩ 1 1) = some addWord := by
  decide +kernel

theorem wit_LaneWords : laneRule (demoVec id) (.vadd ⟨.row, false, 3⟩ ⟨.row, false, 1⟩ ⟨.row, false, 2⟩ 1 1) = some addWord ∧
    addWord.Runs (demoVec id) ∧ addWord.Full (demoVec id) ∧
    (demoVec id).cur.meet (demoVec id).freeCount (addWord.regs (demoVec id)) = (demoVec id).cur :=
  ⟨addWord_rule, runs_of (by decide +kernel) (by decide +kernel), full_of (by decide +kernel), rfl⟩

/-- The same where V2 is the destination of a follow-on command that the hart has not acquired. -/
def demoForeign : State := demoVec fun h => { h with foreign := [{ reg := 2, key := 0, bar := 1 }] }

theorem wit_LaneWords_foreign : laneRule demoForeign (.vadd ⟨.row, false, 3⟩ ⟨.row, false, 1⟩ ⟨.row, false, 2⟩ 1 1) = some addWord ∧
    Ready demoForeign addWord.srcs ∧ addWord.passes demoForeign ∧ demoForeign.vl ≠ 0 ∧ LanesRun demoForeign ∧
    (let h := demoForeign.cur.meet demoForeign.freeCount (addWord.regs demoForeign)
     let p : View := ⟨h.vec, demoForeign.cur.seq.deadV, Config.deadVector demoForeign.freeCount⟩
     ∀ n ∈ needs (addWord.instr demoForeign) p, p.full n.reg n.lane = true ∧ (h.vec.slice n.reg n.lane).poison = 0) :=
  ⟨by decide +kernel, ready_of (by decide +kernel), ⟨rfl, by decide +kernel⟩, by decide +kernel, show ∀ l, l < 16 → _ by decide +kernel,
    fun n hn => by
      have key : ∀ n ∈ needs (addWord.instr demoForeign) (planeOf demoForeign), (demoForeign.cur.vec.slice n.reg n.lane).full = true ∧
        (demoForeign.cur.vec.slice n.reg n.lane).poison = 0 := by decide +kernel
      have hm := Hart.sameMarks_meet demoForeign.cur demoForeign.freeCount (addWord.regs demoForeign) n.reg n.lane
      have hk := key n hn
      exact ⟨by rw [View.full, hm.full, hk.1]; simp, hm.poison.trans hk.2⟩⟩

theorem wit_LaneChecks : (∃ w, laneWordOf demo (.vperm ⟨.row, false, 3⟩ ⟨.row, false, 1⟩ ⟨.row, false, 2⟩ 0 0) = some w ∧
      Ready demo w.srcs ∧ w.ok = false ∧ HasHandler demo ∧ Untraced demo demo.curCoreNo 2) ∧
    (∃ w, laneWordOf demo (.vpopm 9 1 0) = some w ∧ Ready demo w.srcs ∧ w.ok = true ∧ operands w.job = [] ∧ demo.vl = 0 ∧
      isVdq w.job = false) :=
  ⟨⟨_, rfl, demo_ready _, by decide +kernel, demo_handler, untraced_of rfl⟩, _, rfl, demo_ready _, rfl, rfl, by decide +kernel, rfl⟩

theorem wit_ElementResults : ∃ x, elementValue (demoVec id) addWord 0 = some (⟨.row, false, 3⟩, 32, x) := ⟨_, rfl⟩

/-- VCMP.LT M2, V1, V2, M1, F1. -/
def cmpWord : LaneWord := { job := .cmp 2 2 ⟨.row, false, 1⟩ ⟨.row, false, 2⟩, fmt := 0x44440000, mask := 1 }

theorem wit_MaskResults : laneRule (demoVec id) (.vcmp 2 2 ⟨.row, false, 1⟩ ⟨.row, false, 2⟩ 1 1) = some cmpWord ∧
    cmpWord.Runs (demoVec id) ∧ cmpWord.Full (demoVec id) ∧ ∃ b, maskValue (demoVec id) cmpWord 0 = some (2, b) :=
  ⟨by decide +kernel, runs_of (by decide +kernel) (by decide +kernel), full_of (by decide +kernel), _, rfl⟩

/-- VREDSUM V3, V1, V2, M1, F1. -/
def sumWord : LaneWord := { job := .red .sum ⟨.row, false, 3⟩ ⟨.row, false, 1⟩ ⟨.row, false, 2⟩, fmt := 0x44440000, mask := 1 }

theorem wit_IntegerSums : laneRule (demoVec id) (.vredsum ⟨.row, false, 3⟩ ⟨.row, false, 1⟩ ⟨.row, false, 2⟩ 1 1) = some sumWord ∧
    sumWord.Runs (demoVec id) ∧ sumWord.Full (demoVec id) ∧ isIntFmt (fFD sumWord.fmt) = true ∧
    fFA sumWord.fmt = fFD sumWord.fmt ∧ fScale sumWord.fmt = 0 ∧ (rndOf (demoVec id).vtype).sat = false :=
  ⟨by decide +kernel, runs_of (by decide +kernel) (by decide +kernel), full_of (by decide +kernel), by decide +kernel,
    by decide +kernel, by decide +kernel, by decide +kernel⟩

/-- VMOV V3, V5 and VMOV V3, V5 under policy 1. -/
def movWord (pol : Bool) : LaneWord := { job := .mov ⟨.row, false, 3⟩ ⟨.row, pol, 5⟩ }

theorem wit_EmptySlices : ∀ pol, laneRule (demoVec id) (.vmov ⟨.row, false, 3⟩ ⟨.row, pol, 5⟩ 0) = some (movWord pol) ∧
    (movWord pol).Runs (demoVec id) ∧
    (∃ n, n ∈ needs ((movWord pol).instr (demoVec id)) (planeOf (demoVec id)) ∧
      (planeOf (demoVec id)).full n.reg n.lane = false ∧ n.pol = pol) ∧
    (pol = true → (∀ x ∈ needs ((movWord pol).instr (demoVec id)) (planeOf (demoVec id)),
        (planeOf (demoVec id)).full x.reg x.lane = true ∨ x.pol = true) ∧
      (∀ x ∈ needs ((movWord pol).instr (demoVec id)) (planeOf (demoVec id)),
        ((demoVec id).cur.vec.slice x.reg x.lane).poison = 0) ∧
      HasHandler (demoVec id) ∧ Untraced (demoVec id) (demoVec id).curCoreNo 2)
  | false => ⟨rfl, runs_of (by decide +kernel) (by decide +kernel), ⟨⟨3, 5, 3, false⟩, by decide +kernel, by decide +kernel, rfl⟩,
      fun h => nomatch h⟩
  | true => ⟨rfl, runs_of (by decide +kernel) (by decide +kernel), ⟨⟨3, 5, 3, true⟩, by decide +kernel, by decide +kernel, rfl⟩,
      fun _ => ⟨by decide +kernel, by decide +kernel, handler_of (by decide +kernel), untraced_of rfl⟩⟩

/-- Unit-stride words at the data: a load, a store, an atomic of each kind and a prefetch, under M1. -/
def memWord (k : MemKind) : LaneWord :=
  { job := .mem k .unit ⟨.row, false, 1⟩ 4 0x11000 0, srcs := [2], mask := 1 }

theorem wit_VectorLoads : memoryRule (demoVec id) (.vld ⟨.row, false, 1⟩ ⟨0, 2, 2, 1⟩ true) = some (memWord (.load true false)) ∧
    (memWord (.load true false)).Runs (demoVec id) ∧ (memWord (.load true false)).Full (demoVec id) ∧
    (loadAll (demoVec id) (demoVec id).who (elementAddress (demoVec id) (memWord (.load true false))) 4
      (accessed (demoVec id) (memWord (.load true false)))).isSome = true :=
  ⟨by decide +kernel, runs_of (by decide +kernel) (by decide +kernel), full_of (by decide +kernel), by decide +kernel⟩

theorem wit_VectorStores : memoryRule (demoVec id) (.vst ⟨.row, false, 1⟩ ⟨0, 2, 2, 1⟩) = some (memWord .store) ∧
    (memWord .store).Runs (demoVec id) ∧ (memWord .store).Full (demoVec id) ∧
    (storeAll (demoVec id) ((demoVec id).who.on 0) (elementAddress (demoVec id) (memWord .store)) 4
      (fun e => (planeOf (demoVec id)).src ⟨.row, false, 1⟩ (vlmax (demoVec id).vtype) e (ewOf (demoVec id).vtype) % 2 ^ (8 * 4))
      (accessed (demoVec id) (memWord .store))).isSome = true :=
  ⟨by decide +kernel, runs_of (by decide +kernel) (by decide +kernel), full_of (by decide +kernel), by decide +kernel⟩

/-- Indexed words with V2 as the index, in bytes. -/
def indexedWord (k : MemKind) (srcs : List SReg) : LaneWord :=
  { job := .mem k (.indexed ⟨.row, false, 2⟩ false) ⟨.row, false, 1⟩ 4 0x11000 0, srcs := srcs, mask := 1 }

/-- The data words of an atomic. -/
def atomicData (two : Bool) (e : Nat) : Nat × Nat :=
  ((planeOf (demoVec id)).src ⟨.row, false, 1⟩ (vlmax (demoVec id).vtype) e (8 * 4),
    if two then (planeOf (demoVec id)).src ⟨.row, false, 2⟩ (vlmax (demoVec id).vtype) e (8 * 4) else 0)

theorem wit_VectorAtomics :
    (memoryRule (demoVec id) (.vamo .add ⟨.row, false, 1⟩ ⟨.row, false, 2⟩ ⟨0, 2, 2, 1⟩ false)
        = some (indexedWord (.atomic .add false) [2]) ∧
      (indexedWord (.atomic .add false) [2]).Runs (demoVec id) ∧ (indexedWord (.atomic .add false) [2]).Full (demoVec id) ∧
      (atomicAll (demoVec id) ((demoVec id).who.on 0) .add (elementAddress (demoVec id) (indexedWord (.atomic .add false) [2])) 4
        (atomicData false) (accessed (demoVec id) (indexedWord (.atomic .add false) [2]))).isSome = true) ∧
    (memoryRule (demoVec id) (.vamoCas ⟨.row, false, 1⟩ ⟨.row, false, 2⟩ ⟨0, 2, 2, 1⟩ false)
        = some (indexedWord (.atomic .cas false) [2]) ∧
      (indexedWord (.atomic .cas false) [2]).Runs (demoVec id) ∧ (indexedWord (.atomic .cas false) [2]).Full (demoVec id) ∧
      (atomicAll (demoVec id) ((demoVec id).who.on 0) .cas (elementAddress (demoVec id) (indexedWord (.atomic .cas false) [2])) 4
        (atomicData true) (accessed (demoVec id) (indexedWord (.atomic .cas false) [2]))).isSome = true) ∧
    (memoryRule (demoVec id) (.vamoP .max ⟨.row, false, 1⟩ ⟨.row, false, 2⟩ ⟨0, 2, 2, 1⟩ false)
        = some (indexedWord (.atomic .max true) [2]) ∧
      (indexedWord (.atomic .max true) [2]).Runs (demoVec id) ∧ (indexedWord (.atomic .max true) [2]).Full (demoVec id) ∧
      (postAll (demoVec id) 0 .max (elementAddress (demoVec id) (indexedWord (.atomic .max true) [2])) 4
        (fun e => (atomicData false e).1) (accessed (demoVec id) (indexedWord (.atomic .max true) [2]))).isSome = true) ∧
    memoryRule (demoVec id) (.vpref ⟨0, 2, 2, 1⟩ true) = some { memWord (.prefetch true) with
      job := .mem (.prefetch true) .unit noOp 4 0x11000 0 } ∧
    ({ memWord (.prefetch true) with job := .mem (.prefetch true) .unit noOp 4 0x11000 0 } : LaneWord).Runs (demoVec id) :=
  ⟨⟨by decide +kernel, runs_of (by decide +kernel) (by decide +kernel), full_of (by decide +kernel), by decide +kernel⟩,
    ⟨by decide +kernel, runs_of (by decide +kernel) (by decide +kernel), full_of (by decide +kernel), by decide +kernel⟩,
    ⟨by decide +kernel, runs_of (by decide +kernel) (by decide +kernel), full_of (by decide +kernel), by decide +kernel⟩,
    by decide +kernel, runs_of (by decide +kernel) (by decide +kernel)⟩

/-- A frame at 0x11000 of one register, whose count is in S1. -/
def demoFrame (m : Table Byte) : State :=
  { demoVec (fun h => { h with seq := { h.seq with s := [(1, 1), (2, 0x11000), (3, 0x11200)] } }) with mem := m }

/-- VSPILL and VFILL of V1. -/
def spillWord (fill : Bool) : LaneWord :=
  { job := if fill then .fill 1 1 0x11000 else .spill 1 1 false 0x11000, srcs := [2, 1] }

/-- The state with the frame in memory. -/
def demoFilled : State := (writeRun (demoFrame demo.mem) ((demoFrame demo.mem).who.on 0) 0x11000 8
  ((frameBytes (demoFrame demo.mem) 1 1).length / 8) (frameBytes (demoFrame demo.mem) 1 1)).1

theorem wit_SpillFrames :
    (wholeRule (demoFrame demo.mem) (.vspill ⟨.row, false, 1⟩ 2 1 0) = some (spillWord false) ∧
      (spillWord false).Runs (demoFrame demo.mem) ∧ (spillWord false).Full (demoFrame demo.mem) ∧
      ((demoFrame demo.mem).getS 2).toNat % 64 = 0 ∧
      (writeRun (demoFrame demo.mem) ((demoFrame demo.mem).who.on 0) ((demoFrame demo.mem).getS 2) 8
        ((frameBytes (demoFrame demo.mem) 1 ((demoFrame demo.mem).getS 1).toNat).length / 8)
        (frameBytes (demoFrame demo.mem) 1 ((demoFrame demo.mem).getS 1).toNat)).2 = none) ∧
    (wholeRule demoFilled (.vfill ⟨.row, false, 1⟩ 2 1 0) = some (spillWord true) ∧ (spillWord true).Runs demoFilled ∧
      (demoFilled.getS 2).toNat % 64 = 0 ∧ ∃ s1 hd s2 bs,
        readRun demoFilled (demoFilled.who.on 0) (demoFilled.getS 2) 8 8 = .ok (s1, hd) ∧ leAt hd 0 4 = demoFilled.vl ∧
        leAt hd 4 1 % 8 = demoFilled.vtype.toNat % 8 ∧ leAt hd 5 1 = (demoFilled.getS 1).toNat ∧ leAt hd 6 1 = (1 : BitVec 6).toNat ∧
        readRun s1 (s1.who.on 0) (demoFilled.getS 2 + 64) 8
          ((demoFilled.getS 1).toNat * ((demoFilled.vl * ewOf demoFilled.vtype + 511) / 512 * 64) / 8) = .ok (s2, bs)) :=
  ⟨⟨by decide +kernel, runs_of (by decide +kernel) (by decide +kernel), full_of (by decide +kernel), by decide +kernel,
      by decide +kernel⟩,
    by decide +kernel, runs_of (by decide +kernel) (by decide +kernel), by decide +kernel, _, _, _, _,
    two_spec (d := (demo, [])) (by decide +kernel), by decide +kernel, by decide +kernel, by decide +kernel, by decide +kernel,
    two_spec (d := (demo, [])) (by decide +kernel)⟩

/-- VAPPEND of V1 to the array at 0x11000, with the tail word at 0x11200; under a record, its resumption behind element 0. -/
def demoAppend (r : Option AppendResume) : State :=
  { demoFrame demo.mem with
    harts := [(0, { (demoFrame demo.mem).hart 0 with resume := r, skip := if r.isSome then 1 else 0 })] }

/-- The VAPPEND. -/
def appendWord : LaneWord := { job := .append ⟨.row, false, 1⟩ 9 4 0x11000 0x11200, srcs := [2, 3], mask := 1 }

theorem wit_Appends : wholeRule (demoAppend none) (.vappend ⟨.row, false, 1⟩ 9 ⟨0, 2, 2, 1⟩ 3) = some appendWord ∧
    appendWord.Runs (demoAppend none) ∧ appendWord.Full (demoAppend none) ∧ (demoAppend none).cur.resume = none ∧
    (demoAppend none).cur.skip = 0 ∧
    ∃ s1 tl, atomicAt (demoAppend none) ((demoAppend none).who.on 0) .add ((demoAppend none).getS 3) 8
        ((List.range 2048).filter (activeAt (demoAppend none) appendWord)).length 0 = .ok (s1, tl) ∧
      (storeAll s1 ((demoAppend none).who.on 0) (appendPlace (demoAppend none) ⟨0, 2, 2, 1⟩ (BitVec.ofNat 64 tl)
        ((List.range 2048).filter (activeAt (demoAppend none) appendWord))) 4
        (appendData (demoAppend none) ⟨.row, false, 1⟩ ⟨0, 2, 2, 1⟩)
        ((List.range 2048).filter (activeAt (demoAppend none) appendWord))).isSome = true :=
  ⟨by decide +kernel, runs_of (by decide +kernel) (by decide +kernel), full_of (by decide +kernel), rfl, rfl, _, _,
    two_spec (d := (demo, 0)) (by decide +kernel), by decide +kernel⟩

/-- The record of three elements from place 5. -/
def demoRecord : AppendResume := { t := 5, set := 0x20003, addr := 0x10008 }

theorem wit_AppendResumes : wholeRule (demoAppend (some demoRecord)) (.vappend ⟨.row, false, 1⟩ 9 ⟨0, 2, 2, 1⟩ 3) = some appendWord ∧
    appendWord.Runs (demoAppend (some demoRecord)) ∧ appendWord.Full (demoAppend (some demoRecord)) ∧
    (demoAppend (some demoRecord)).cur.resume = some demoRecord ∧
    (storeAll (demoAppend (some demoRecord)) ((demoAppend (some demoRecord)).who.on 0) (appendPlace (demoAppend (some demoRecord))
        ⟨0, 2, 2, 1⟩ demoRecord.t ((List.range 2048).filter fun e => demoRecord.set.getLsbD e)) 4
      (appendData (demoAppend (some demoRecord)) ⟨.row, false, 1⟩ ⟨0, 2, 2, 1⟩)
      (((List.range 2048).filter fun e => demoRecord.set.getLsbD e).filter fun e =>
        !(demoAppend (some demoRecord)).cur.skip.getLsbD e)).isSome = true :=
  ⟨by decide +kernel, runs_of (by decide +kernel) (by decide +kernel), full_of (by decide +kernel), rfl, by decide +kernel⟩

/-- The deferral queue with `n` entries. -/
def demoDefer (n : Nat) : State := demoVec fun h => { h with defer := List.replicate n ⟨[3, 4]⟩ }

theorem wit_DeferralQueue :
    (∀ n ∈ [0, 255, 256], ∃ w, wholeRule (demoDefer n) (.vdefer 1 2 ⟨.row, false, 1⟩ 9 1) = some w ∧ w.Runs (demoDefer n) ∧
      w.Full (demoDefer n)) ∧
    (∃ w, wholeRule (demoDefer 3) (.vdrain 1 ⟨.row, false, 6⟩ 9) = some w ∧ w.Runs (demoDefer 3) ∧ w.Full (demoDefer 3) ∧
      ∀ j, j < 2 → ∀ e, e < min (demoDefer 3).vl 3 → ((demoDefer 3).cur.vec.slice (6 + j) (e % 16)).poison = 0) ∧
    (∃ w, wholeRule (demoDefer 3) (.vdqClear 9) = some w ∧ w.Runs (demoDefer 3) ∧ w.Full (demoDefer 3)) ∧
    (∃ w, wholeRule (demoDefer 3) (.vdqFree 9) = some w ∧ w.Runs (demoDefer 3) ∧ w.Full (demoDefer 3)) ∧
    ∃ w, wholeRule (demoDefer 3) (.vdqCount 9) = some w ∧ w.Runs (demoDefer 3) ∧ w.Full (demoDefer 3) := by
  refine ⟨?_, ⟨_, rfl, runs_of (by decide +kernel) (by decide +kernel), full_of (by decide +kernel), by decide +kernel⟩,
    ⟨_, rfl, runs_of (by decide +kernel) (by decide +kernel), full_of (by decide +kernel)⟩,
    ⟨_, rfl, runs_of (by decide +kernel) (by decide +kernel), full_of (by decide +kernel)⟩,
    ⟨_, rfl, runs_of (by decide +kernel) (by decide +kernel), full_of (by decide +kernel)⟩⟩
  intro n h
  simp only [List.mem_cons, List.not_mem_nil, or_false] at h
  rcases h with rfl | rfl | rfl <;>
    exact ⟨_, rfl, runs_of (by decide +kernel) (by decide +kernel), full_of (by decide +kernel)⟩

/-! ## Engines, barriers, the truss and tasks: states that meet the hypotheses -/

/-- S1 = 4095, S2 = 0x11000, S3 = 1, S4 = a term: enabled, on B1 at phase 0, firing matrix slot 0. -/
def demoEng (f : Core → Core) : State :=
  { demoSeq (fun q => { q with s := [(1, 4095), (2, 0x11000), (3, 1), (4, 0x8000000081)] }) with cores := [(0, f {})] }

/-- A CPY into slot 3. -/
def cpyWord : EngineWord := { srcs := [2], va := 0x11000, ok := (0x11000 : Word).toNat % 64 = 0 }

/-- A command in a slot. -/
def demoCmd (i : Instr) (st : Stage) : Command :=
  { instr := i, va := 0x11000, vb := 0, vc := 0, fmt := 0xAAAA0000, vtype := 2, vl := 0, window := 256, hart := 0,
    handler := false, asid := 0, ptroot := 0x1000, stage := st }

/-- An engine word runs where what it needs, evaluated, holds. -/
theorem engine_of {w : EngineWord} {s : State} {eng : Nat} (h : (s.cur.window.isEmpty && s.cur.seq.ownGrant.isNone &&
    !s.cur.slip && !s.busy w.srcs) = true) (hp : s.curCore.lacks.getLsbD (eng + 1) = false) (ok : w.ok)
    (hc : s.curCore.imaging = false) (hl : s.coreLaunch s.curCoreNo = none) : w.Runs s eng :=
  ⟨ready_of h, hp, ok, hc, fun _ hs => nomatch hl.symm.trans hs⟩

theorem wit_CommandIssue : engineRule (demoEng id) (.cpy 2 ⟨1, 3, false⟩) = some cpyWord ∧
    engineSlot (.cpy 2 ⟨1, 3, false⟩) = some (1, 1, 3, false) ∧ cpyWord.Runs (demoEng id) 1 ∧
    (demoEng id).curCore.slot (16 * 1 + 3) = none ∧ Table.get none (demoEng id).curCore.pending (16 * 1 + 3) = none :=
  ⟨rfl, rfl, engine_of (by decide +kernel) rfl (show (0x11000 : Word).toNat % 64 = 0 by decide) rfl rfl, rfl, rfl⟩

/-- A parked CPY whose slot has a pending bit, without and with an error record. -/
theorem wit_CommandIssue_pending : ∀ e ∈ [none, some ((0x100 : BitVec 16), (7 : Word))],
    let s := demoEng fun c => { c with pending := [(19, some e)] }
    engineRule s (.cpy 2 ⟨1, 3, true⟩) = some cpyWord ∧ engineSlot (.cpy 2 ⟨1, 3, true⟩) = some (1, 1, 3, true) ∧
      cpyWord.Runs s 1 ∧ s.curCore.slot (16 * 1 + 3) = none ∧ Table.get none s.curCore.pending (16 * 1 + 3) = some e := by
  intro e he
  simp only [List.mem_cons, List.not_mem_nil, or_false] at he
  rcases he with rfl | rfl <;>
    exact ⟨rfl, rfl, engine_of (by decide +kernel) rfl (show (0x11000 : Word).toNat % 64 = 0 by decide) rfl rfl, rfl, rfl⟩

theorem wit_CommandIssue_matrix : ∃ w, engineRule (demoEng id) (.mzero 0 0 ⟨1, 0, true⟩) = some w ∧ w.Runs (demoEng id) 0 ∧
    engineSlot (.mzero 0 0 ⟨1, 0, true⟩) = some (0, 1, 0, true) :=
  ⟨_, rfl, engine_of (by decide +kernel) rfl (got_spec (d := ()) (by decide +kernel)) rfl rfl, rfl⟩

theorem wit_CommandHeld : engineRule (demoEng id) (.cpy 2 ⟨1, 3, false⟩) = some cpyWord ∧
    ((demoEng fun c => { c with lacks := 4 }).curCore.lacks.getLsbD (1 + 1) = true ∧
      (demoEng fun c => { c with lacks := 4 }).cur.window = [] ∧ HasHandler (demoEng fun c => { c with lacks := 4 }) ∧
      Untraced (demoEng fun c => { c with lacks := 4 }) 0 2) ∧
    (cpyWord.Runs (demoEng fun c => { c with slots := [(19, some (demoCmd (.cpy 2 ⟨1, 3, false⟩) .desc))] }) 1 ∧
      (demoEng fun c => { c with slots := [(19, some (demoCmd (.cpy 2 ⟨1, 3, false⟩) .desc))] }).curCore.slot (16 * 1 + 3)
        ≠ none) :=
  ⟨rfl, ⟨by decide +kernel, rfl, handler_of (by decide +kernel), untraced_of rfl⟩, engine_of (by decide +kernel) rfl (show (0x11000 : Word).toNat % 64 = 0 by decide) rfl rfl,
    by decide +kernel⟩

theorem untermed_empty {c : Core} (h : c.truss = []) (b : Nat) : Untermed c b := by
  intro n _ p hp
  rw [h] at hp
  exact absurd hp (by simp [Table.get, termConds, termCond])

/-- The largest count, and BARV.R's target: core 127, and 128. -/
def demoArrive (core : Word) : State :=
  { demoSeq (fun q => { q with s := [(1, 4095), (2, core), (3, 0x100), (4, 0x11FF)] }) with cores := [] }

theorem wit_BarrierWords : Ready (demoArrive 127) [1] ∧ 1 ≤ ((demoArrive 127).getS 1).toNat ∧
    ((demoArrive 127).getS 1).toNat ≤ 4095 ∧ Ready (demoArrive 127) [] ∧ Untermed (demoArrive 127).curCore 1 ∧
    Untraced (demoArrive 127) (demoArrive 127).curCoreNo 1 ∧
    (∀ r ∈ [(3 : SReg), 4], Ready (demoArrive 127) [r, 2] ∧ ((demoArrive 127).getS r).toNat / 2 ^ 16 = 0 ∧
      1 ≤ ((demoArrive 127).getS r).toNat / 256 ∧ ((demoArrive 127).getS r).toNat / 256 ≤ 0x11) ∧
    Ready (demoArrive 127) [1, 2] ∧ ((demoArrive 127).getS 2).toNat < 128 ∧
    ((demoArrive 127).core ((demoArrive 127).getS 2).toNat).lacks.getLsbD 0 = false ∧
    (Ready (demoArrive 128) [1, 2] ∧ HasHandler (demoArrive 128) ∧ Untraced (demoArrive 128) (demoArrive 128).curCoreNo 2 ∧
      ((demoArrive 128).getS 1).toNat ≤ 4095 ∧ 128 ≤ ((demoArrive 128).getS 2).toNat) := by
  refine ⟨ready_of (by decide +kernel), by decide +kernel, by decide +kernel, ready_of (by decide +kernel), untermed_empty rfl 1,
    untraced_of rfl, ?_, ready_of (by decide +kernel), by decide +kernel, by decide +kernel, ready_of (by decide +kernel),
    handler_of (by decide +kernel), untraced_of rfl, by decide +kernel, by decide +kernel⟩
  intro r h
  simp only [List.mem_cons, List.not_mem_nil, or_false] at h
  rcases h with rfl | rfl <;>
    exact ⟨ready_of (by decide +kernel), by decide +kernel, by decide +kernel, by decide +kernel⟩

/-- A barrier in error with the code of a page fault on a write, and one at phase 1. -/
def demoBar : State := demoEng fun c => { c with
  bars := [(1, { err := true, fcode := 0x0380, faddr := 0x5000, phase := true }), (2, { phase := true, expect := 65535 })] }

theorem wit_BarrierReads : Fits (demoBar.curCore.barAt (1 : BitVec 6).toNat) ∧ Fits (demoBar.curCore.barAt (2 : BitVec 6).toNat) ∧
    Ready demoBar [] ∧ Ready demoBar [3] ∧ (demoBar.curCore.barAt (2 : BitVec 6).toNat).err = false ∧
    (demoBar.curCore.barAt (2 : BitVec 6).toNat).phase = (demoBar.getS 3).getLsbD 0 ∧ Ready demoBar [2] ∧
    (demoBar.curCore.barAt (2 : BitVec 6).toNat).phase ≠ (demoBar.getS 2).getLsbD 0 ∧
    (demoBar.curCore.barAt (1 : BitVec 6).toNat).err = true ∧ HasHandler demoBar ∧ Untraced demoBar demoBar.curCoreNo 2 ∧
    (demoBar.curCore.barAt (1 : BitVec 6).toNat).fcode.toNat / 256 = Cause.page.code :=
  ⟨⟨by decide +kernel, by decide +kernel⟩, ⟨by decide +kernel, by decide +kernel⟩, ready_of (by decide +kernel),
    ready_of (by decide +kernel), rfl, by decide +kernel, ready_of (by decide +kernel), by decide +kernel, rfl,
    handler_of (by decide +kernel), untraced_of rfl, by decide +kernel⟩

/-- The term's barrier at the other phase. -/
def demoBarTerm : State := demoEng fun c => { c with bars := [(1, { phase := true })] }

/-- A command parked in the term's slot. -/
def demoParked : State := demoEng fun c => { c with slots := [(0, some (demoCmd (.mzero 0 0 ⟨1, 0, true⟩) .parked))] }

theorem wit_TrussTerms : (Ready (demoEng id) [4] ∧ termOk ((demoEng id).getS 4) = true ∧ (demoEng id).curCore.imaging = false ∧
      Untraced (demoEng id) (demoEng id).curCoreNo 1 ∧ ((demoEng id).getS 4).getLsbD 39 = true ∧
      (∀ p ∈ termConds ((demoEng id).getS 4), ((demoEng id).curCore.barAt p.2).phase = p.1) ∧
      (demoEng id).curCore.slot (termKey ((demoEng id).getS 4)) = none) ∧
    (∃ p ∈ termConds (demoBarTerm.getS 4), (demoBarTerm.curCore.barAt p.2).phase ≠ p.1) ∧ Ready demoBarTerm [4] ∧
    (∃ x, demoParked.curCore.slot (termKey (demoParked.getS 4)) = some x ∧ x.stage = .parked ∧ x.key = termKey (demoParked.getS 4) ∧
      ∀ p ∈ termConds (demoParked.getS 4), (demoParked.curCore.barAt p.2).err = false ∧ (demoParked.curCore.barAt p.2).phase = p.1) ∧
    Ready demoParked [] :=
  ⟨⟨ready_of (by decide +kernel), by decide +kernel, rfl, untraced_of rfl, by decide +kernel, by decide +kernel, by decide +kernel⟩,
    ⟨(false, 1), by decide +kernel, by decide +kernel⟩, ready_of (by decide +kernel),
    ⟨_, rfl, rfl, by decide +kernel, by decide +kernel⟩, ready_of (by decide +kernel)⟩

/-- The term armed in place 0, B1 one arrival short of completing phase 1, and `slots` in the slots. -/
def demoFires (slots : Table (Option Command)) : State :=
  demoEng fun c => { c with truss := [(0, 0x8000000081)], bars := [(1, { phase := true, expect := 1 })], slots := slots }

theorem wit_TrussFires : ∀ slots ∈ [([] : Table (Option Command)), [(0, some (demoCmd (.mzero 0 0 ⟨1, 0, true⟩) .parked))]],
    Ready (demoFires slots) [3] ∧ (demoFires slots).getS 3 = 1 ∧
    Due (demoFires slots).curCore (1 : BitVec 6).toNat 0 0x8000000081 ∧
    ((demoFires slots).curCore.barAt (1 : BitVec 6).toNat).arrived + 1 = ((demoFires slots).curCore.barAt (1 : BitVec 6).toNat).expect ∧
    (demoFires slots).curCore.imaging = false ∧ Untraced (demoFires slots) (demoFires slots).curCoreNo 1 ∧
    (∀ x, (demoFires slots).curCore.slot (termKey 0x8000000081) = some x → x.stage = .parked ∧ x.key = termKey 0x8000000081 ∧
      ∀ p ∈ termConds 0x8000000081, ((demoFires slots).curCore.barAt p.2).err = false) ∧
    ((demoFires slots).curCore.slot (termKey 0x8000000081) = none →
      Table.get none (demoFires slots).curCore.pending (termKey 0x8000000081) = none) := by
  simp only [List.forall_mem_cons, List.not_mem_nil, false_implies, implies_true, and_true]
  refine ⟨⟨ready_of (by decide +kernel), by decide +kernel, ⟨by decide +kernel, by decide +kernel, by decide +kernel, by decide +kernel, by decide +kernel⟩,
      by decide +kernel, rfl, untraced_of rfl, ?_, fun _ => rfl⟩,
    ⟨ready_of (by decide +kernel), by decide +kernel, ⟨by decide +kernel, by decide +kernel, by decide +kernel, by decide +kernel, by decide +kernel⟩,
      by decide +kernel, rfl, untraced_of rfl, ?_, fun _ => rfl⟩⟩
  · intro x h
    cases h
  · intro x h
    cases h
    exact ⟨rfl, by decide +kernel, by decide +kernel⟩

/-- The last hart of a task, and one that a started command keeps. -/
def demoEnd (f : Core → Core) : State := { demoRun false id with cores := [(0, f ((demoRun false id).core 0))] }

/-- A CPY of hart 0 that has started. -/
def demoBusy : State := demoEnd fun c => { c with slots := [(19, some (demoCmd (.cpy 2 ⟨1, 3, false⟩) .run))] }

/-- Queue 4095 of the context, with `n` packets, its ring at 0x11000; S5 names it. -/
def demoQueue (n : BitVec 32) : State :=
  { demoSeq (fun q => { q with s := [(1, 5), (2, 0x11000), (3, 1), (5, 4095)] }) with
    queues := [(4095, { base := 0x11000, en := true, tail := n })]
    contexts := [(0, { ptroot := 0x1000 })] }

/-- The packet that LAUNCH S9, (S2), S3, S5 places. -/
def launchBytes (s : State) : List Byte :=
  [1, 0, 0, 0] ++ leBytes 4 ((s.getS 3).toNat % 2 ^ 32) ++ leBytes 8 (s.getS 2).toNat ++ List.replicate 48 0

theorem wit_TaskWords :
    (Ready (demoEnd id) [] ∧ (demoEnd id).cur.handler = false ∧ taskBusy (demoEnd id) (demoEnd id).focus = false ∧
      (demoEnd id).cur.status = .running ∧
      (∀ j ∈ gangOf (demoEnd id) (demoEnd id).curCoreNo, j ≠ (demoEnd id).focus → ((demoEnd id).hart j).status = .finished) ∧
      ∃ x, (demoEnd id).curCore.task = some x) ∧
    (Ready demoBusy [] ∧ taskBusy demoBusy demoBusy.focus = true) ∧
    (taskBusy (demoGang id id) (demoGang id id).focus = false ∧
      ∃ j ∈ gangOf (demoGang id id) (demoGang id id).curCoreNo, j ≠ (demoGang id id).focus ∧
        ((demoGang id id).hart j).status ≠ .finished) ∧
    (∃ s1 bs, Ready (demoQueue 0) [2, 3] ∧ ((demoQueue 0).getS 2).toNat % 64 = 0 ∧
      (demoQueue 0).recalled (demoQueue 0).who 1 ((demoQueue 0).getS 2) 64 = false ∧
      readRun (demoQueue 0) (demoQueue 0).who ((demoQueue 0).getS 2) 8 8 = .ok (s1, bs) ∧ (packetOf bs).refusal.isSome = true) ∧
    (Ready (demoQueue 0) [2, 3, 5] ∧ ((demoQueue 0).getS 2).toNat % 64 = 0 ∧ ((demoQueue 0).getS 5).toNat < 4096 ∧
      ((demoQueue 0).queue ((demoQueue 0).getS 5).toNat).asid = (demoQueue 0).taskAsid ∧
      (packetOf (launchBytes (demoQueue 0))).refusal = none ∧
      ((demoQueue 0).queue 4095).count < 2 ^ ((demoQueue 0).queue 4095).log2sz ∧
      (writeRun (demoQueue 0) ((demoQueue 0).whoQueue (demoQueue 0).taskAsid)
        (((demoQueue 0).queue 4095).slotAddr ((demoQueue 0).queue 4095).tail) 8 8 (launchBytes (demoQueue 0))).2 = none) ∧
    (2 ^ ((demoQueue 16).queue 4095).log2sz ≤ ((demoQueue 16).queue 4095).count ∧ Ready (demoQueue 16) [2, 3, 5]) ∧
    (Ready (demoQueue 0) [2, 3] ∧ 1 ≤ ((demoQueue 0).getS 3).toNat ∧ ((demoQueue 0).getS 3).toNat ≤ 2 ^ 40) :=
  ⟨⟨ready_of (by decide +kernel), rfl, by decide +kernel, rfl, by decide +kernel, _, rfl⟩,
    ⟨ready_of (by decide +kernel), by decide +kernel⟩, ⟨by decide +kernel, 1, by decide +kernel, by decide +kernel, by decide +kernel⟩,
    ⟨_, _, ready_of (by decide +kernel), by decide +kernel, by decide +kernel, two_spec (d := (demo, [])) (by decide +kernel),
      by decide +kernel⟩,
    ⟨ready_of (by decide +kernel), by decide +kernel, by decide +kernel, by decide +kernel, by decide +kernel, by decide +kernel,
      by decide +kernel⟩,
    ⟨by decide +kernel, ready_of (by decide +kernel)⟩, ready_of (by decide +kernel), by decide +kernel, by decide +kernel⟩

/-! ## Events of the lanes and the retire point: states that meet the hypotheses -/

/-- The state with one word in flight, whose lanes are `ls`. -/
def demoFlight (w : LaneWord) (ls : List LaneRec) : State :=
  demoVec fun h => { h with
    window := [{ li := some (w.instr (demoVec id)), before := demoHart.seq, lanes := ls }], laneSeq := 9 }

/-- Its word. -/
def flight (w : LaneWord) (ls : List LaneRec) : InFlight :=
  { li := some (w.instr (demoVec id)), before := demoHart.seq, lanes := ls }

/-- Sixteen lanes alike. -/
def all16 (r : LaneRec) : List LaneRec := List.replicate 16 r

/-- A slide, which meets at its rendezvous. -/
def slideWord : LaneWord := { job := .slide false ⟨.row, false, 3⟩ ⟨.row, false, 1⟩ 1 }

/-- A load of two elements in lane 1, of which the first is requested. -/
def loadFlight : InFlight := flight (memWord (.load true false)) (all16 { stage := .issued, todo := [1, 17], sent := 1 })

/-- The state with it in flight. -/
def demoSlipped : State := demoFlight (memWord (.load true false)) (all16 { stage := .issued, todo := [1, 17], sent := 1 })

/-- Its lane instruction. -/
def loadInstr : LaneInstr := (memWord (.load true false)).instr (demoVec id)

/-- The address of its element 1. -/
def loadAddr : Word := elemAddr loadInstr ((demoSlipped.hart 0).viewAt 0 loadInstr) 1

theorem wit_LaneEvents :
    (∃ i, ((demoFlight addWord []).hart (4 * 0 + 0)).window = [] ++ [flight addWord []] ∧ (flight addWord []).li = some i ∧
      (flight addWord []).lanes = [] ∧ (([] : List InFlight).filter fun g => !g.lanes.isEmpty).length < 64) ∧
    (chooseHart (demoFlight addWord (all16 {})) 0 1 false = some 0 ∧ readyAt (demoFlight addWord (all16 {})) 0 0 1 false = some 0 ∧
      InLane ((demoFlight addWord (all16 {})).hart 0) 0 (flight addWord (all16 {})) (addWord.instr (demoVec id)) ∧
      isRendezvous addWord.job = false ∧ isWhole addWord.job = false ∧ isMem addWord.job = false ∧ elemLane addWord.job = none ∧
      ∀ b ∈ badReads (demoFlight addWord (all16 {})) 0 (addWord.instr (demoVec id))
        (((demoFlight addWord (all16 {})).hart 0).viewAt 0 (addWord.instr (demoVec id))), b.1 ≠ 1) ∧
    (chooseHart (demoFlight (memWord (.load true false)) (all16 {})) 0 1 true = some 0 ∧
      readyAt (demoFlight (memWord (.load true false)) (all16 {})) 0 0 1 true = some 0 ∧
      InLane ((demoFlight (memWord (.load true false)) (all16 {})).hart 0) 0 (flight (memWord (.load true false)) (all16 {}))
        ((memWord (.load true false)).instr (demoVec id)) ∧
      (∀ b ∈ badReads (demoFlight (memWord (.load true false)) (all16 {})) 0 ((memWord (.load true false)).instr (demoVec id))
        (((demoFlight (memWord (.load true false)) (all16 {})).hart 0).viewAt 0 ((memWord (.load true false)).instr (demoVec id))),
        b.1 ≠ 1) ∧
      laneOf ((memWord (.load true false)).instr (demoVec id))
        (((demoFlight (memWord (.load true false)) (all16 {})).hart 0).viewAt 0 ((memWord (.load true false)).instr (demoVec id))) 1
        ≠ []) ∧
    (∃ s1 p s2 x, InLane (demoSlipped.hart 0) 0 loadFlight loadInstr ∧ (loadFlight.lane 1).todo = 1 :: [17] ∧
      (loadFlight.lane 1).sent = 0 + 1 ∧ 1 < loadFlight.lanes.length ∧ demoSlipped.mayAccess 0 0 1 loadInstr.strm loadAddr 4 = true ∧
      demoSlipped.busWaits (demoSlipped.whoHart 0) 1 loadAddr 4 = false ∧
      demoSlipped.recalled (demoSlipped.whoHart 0) 1 loadAddr 4 = false ∧
      checkAccess demoSlipped (demoSlipped.whoHart 0) 1 loadAddr 4 none = .ok (s1, p) ∧ loadAt s1 (s1.whoHart 0) loadAddr 4 = .ok (s2, x)) ∧
    (((demoFlight slideWord (all16 { stage := .arrived })).hart (4 * 0 + 0)).window = flight slideWord (all16 { stage := .arrived }) :: [] ∧
      (flight slideWord (all16 { stage := .arrived })).allArrived = true ∧ isMem slideWord.job = false ∧ isWhole slideWord.job = false ∧
      (wholeResult (slideWord.instr (demoVec id)) ⟨((demoFlight slideWord (all16 { stage := .arrived })).hart 0).vec,
        (slideWord.instr (demoVec id)).dead, (slideWord.instr (demoVec id)).deadZero⟩).scalar = none ∧
      (let s := demoFlight slideWord (all16 { stage := .arrived })
       let i := slideWord.instr (demoVec id)
       lanesHeld s 0 i.job = false ∧ emptyLanes i ⟨(s.hart 0).vec, i.dead, i.deadZero⟩ false = [] ∧
         badReads s (4 * 0 + 0) i ⟨(s.hart 0).vec, i.dead, i.deadZero⟩ = [])) := by
  refine ⟨⟨_, rfl, rfl, rfl, by decide⟩, ⟨by decide +kernel, by decide +kernel, ⟨rfl, rfl⟩, rfl, rfl, rfl, rfl, by decide +kernel⟩,
    ⟨by decide +kernel, by decide +kernel, ⟨rfl, rfl⟩, by decide +kernel, by decide +kernel⟩, ?_,
    ⟨rfl, by decide +kernel, rfl, rfl, rfl, by decide +kernel, by decide +kernel, by decide +kernel⟩⟩
  exact ⟨_, _, _, _, ⟨rfl, rfl⟩, rfl, rfl, by decide, by decide +kernel, rfl, by decide +kernel,
    two_spec (d := (demo, .dev 0)) (by decide +kernel), two_spec (d := (demo, 0)) (by decide +kernel)⟩

/-- A word in flight that the sequencer has executed; a load of S9 that is not bound. -/
def demoSent (load : Bool) : State := demoWith fun h => { h with
  window := [{ li := none, before := h.seq, load := if load then some ⟨9, 0x11000, 4, true, true, 0⟩ else none, tok := 3 }]
  seq := { h.seq with late := if load then [(9, 3, false)] else [] } }

/-- A load whose lane 3 has faulted. -/
def faultLanes : List LaneRec := (List.range 16).map fun l =>
  if l = 3 then { stage := .faulted { cause := .page, kind := 1, val := 0x5000 }, done := 0 }
  else { stage := .finished, done := BitVec.ofNat 2048 (2 ^ l) }

theorem wit_RetireEvents :
    (∃ f, ((demoSent false).hart (4 * 0 + 0)).window = f :: [] ∧ f.publish = none ∧ f.li = none ∧ f.cmd = none ∧ f.load = none ∧
      f.held = none ∧ f.spill = none ∧ f.lanes = []) ∧
    (((demoFlight addWord (all16 { stage := .finished })).hart (4 * 0 + 0)).window = flight addWord (all16 { stage := .finished }) :: [] ∧
      (flight addWord (all16 { stage := .finished })).undef = none ∧
      (flight addWord (all16 { stage := .finished })).lanes.length = 16 ∧
      (∀ r ∈ (flight addWord (all16 { stage := .finished })).lanes, r.stage = .finished ∧ r.held = []) ∧
      (flight addWord (all16 { stage := .finished })).header = false) ∧
    (((demoWith fun h => { h with recorded := some demoTrap }).hart (4 * 0 + 0)).window = [] ∧
      ((demoWith fun h => { h with recorded := some demoTrap }).hart (4 * 0 + 0)).recorded = some demoTrap ∧
      demoTrap.fault.abort = false ∧ ((demoWith fun h => { h with recorded := some demoTrap }).hart 0).handler = false ∧ tvecOk (demoWith fun h => { h with recorded := some demoTrap }) (4 * 0 + 0) = true) ∧
    (((demoFlight (memWord (.load true false)) faultLanes).hart (4 * 0 + 0)).window = flight (memWord (.load true false)) faultLanes :: [] ∧
      (flight (memWord (.load true false)) faultLanes).undef = none ∧ faultLanes.length = 16 ∧
      (∀ r ∈ faultLanes, (r.stage = .finished ∨ r.stage = .faulted { cause := .page, kind := 1, val := 0x5000 }) ∧ r.held = []) ∧
      (∀ m, m < 3 → ((flight (memWord (.load true false)) faultLanes).lane m).stage = .finished) ∧
      ((flight (memWord (.load true false)) faultLanes).lane 3).stage = .faulted { cause := .page, kind := 1, val := 0x5000 } ∧
      ((demoFlight (memWord (.load true false)) faultLanes).hart 0).handler = false ∧
      tvecOk (demoFlight (memWord (.load true false)) faultLanes) 0 = true ∧
      tvecOk ((demoFlight (memWord (.load true false)) faultLanes).setHart 0
        (((demoFlight (memWord (.load true false)) faultLanes).hart 0).rewind (flight (memWord (.load true false)) faultLanes))) 0
        = true ∧
      Untraced (demoFlight (memWord (.load true false)) faultLanes) 0 2) ∧
    (∃ f s1 x, ((demoSent true).hart (4 * 0 + 0)).window = f :: [] ∧ f.load = some ⟨9, 0x11000, 4, true, true, 0⟩ ∧ (9 : SReg) ≠ 0 ∧
      ((demoSent true).hart 0).seq.late.contains ((9 : SReg).toNat, f.tok, false) = true ∧
      (demoSent true).recalled ((demoSent true).whoHart 0) 1 0x11000 4 = false ∧
      (demoSent true).busWaits ((demoSent true).whoHart 0) 1 0x11000 4 = false ∧
      scalarLoad (demoSent true) ((demoSent true).whoHart 0) 0x11000 4 = .ok (s1, x)) :=
  ⟨⟨_, rfl, rfl, rfl, rfl, rfl, rfl, rfl, rfl⟩, ⟨rfl, rfl, rfl, by decide +kernel, rfl⟩, ⟨rfl, rfl, rfl, rfl, by decide +kernel⟩,
    ⟨rfl, rfl, rfl, by decide +kernel, by decide +kernel, by decide +kernel, rfl, by decide +kernel, by decide +kernel,
      untraced_of rfl⟩, _, _, _, rfl, rfl, by decide, by decide +kernel, by decide +kernel, rfl,
      two_spec (d := (demo, 0)) (by decide +kernel)⟩

/-- A CPY that the retire point has reached. -/
def demoMarker : State := demoWith fun h => { h with
  window := [{ li := none, before := h.seq, cmd := some (demoCmd (.cpy 2 ⟨1, 3, false⟩) .desc) }] }

/-- A WFE whose deadline has come. -/
def demoLapsed : State := { demoWith fun h => { h with wait := some (.wfe 2 (List.replicate 64 0) (some 5) 9 false) } with refcnt := 5, clock := 5 }

/-- A gang of two that waits at a GBAR. -/
def demoMeet : State := demoGang (fun h => { h with wait := some .gbar }) fun h => { h with wait := some .gbar }

theorem wit_WaitEvents :
    (∃ f x c, (demoMarker.hart (4 * 0 + 0)).window = f :: [] ∧ f.publish = none ∧ f.cmd = some x ∧ cmdInfo x.instr = some (1, c) ∧
      x.hart = 4 * 0 + 0 ∧ f.header = false ∧ (∀ sa vo d, x.instr ≠ .twin sa vo d) ∧ (demoMarker.core 0).slot (16 * 1 + c.slot.toNat) = none ∧
      Table.get none (demoMarker.core 0).pending (16 * 1 + c.slot.toNat) = none ∧ (demoMarker.core 0).imaging = false ∧
      Untraced demoMarker 0 1) ∧
    ((demoLapsed.hart (4 * 0 + 0)).wait = some (.wfe 2 (List.replicate 64 0) (some 5) 9 false) ∧ 5 ≤ demoLapsed.clock ∧
      (demoLapsed.hart 0).window = [] ∧ (demoLapsed.hart 0).seq.ownGrant = none) ∧
    gangOf demoMeet 0 ≠ [] ∧ ∀ k ∈ gangOf demoMeet 0, (demoMeet.hart k).wait = some .gbar ∧ (demoMeet.hart k).window = [] ∧
      (demoMeet.hart k).seq.ownGrant = none :=
  ⟨⟨_, _, _, rfl, rfl, rfl, rfl, rfl, rfl, (fun _ _ _ h => nomatch h), rfl, rfl, rfl, untraced_of rfl⟩, ⟨rfl, by decide, rfl, rfl⟩, by decide +kernel,
    by decide +kernel⟩

/-! ## Events of the engines: states that meet the hypotheses -/

/-- A tile descriptor (R216): base, rows, columns, row stride and format. -/
def tileBytes (base rows cols stride fmt : Nat) : List Byte :=
  leBytes 8 base ++ List.replicate 24 0 ++ leBytes 2 rows ++ leBytes 2 cols ++ leBytes 4 stride ++ [BitVec.ofNat 8 fmt] ++
    List.replicate 23 0

/-- A copy descriptor (R231) of two bytes. -/
def copyBytes (src dst : Nat) : List Byte :=
  leBytes 8 src ++ leBytes 8 dst ++ List.replicate 16 0 ++ leBytes 4 2 ++ leBytes 2 1 ++ leBytes 2 1 ++ List.replicate 24 0

/-- Descriptors at 0x11100 (2 by 1 of FP16), 0x11140 (1 by 2 of FP16), 0x11180 (a copy), 0x111C0 (2 by 2 of FP32) and, malformed,
0x11240. -/
def demoDescs : Table Byte :=
  demo.mem ++ placed 0x7100 (tileBytes 0x11200 2 1 64 9) ++ placed 0x7140 (tileBytes 0x11280 1 2 64 9) ++
    placed 0x7180 (copyBytes 0x11000 0x11010) ++ placed 0x71C0 (tileBytes 0x11300 2 2 64 10) ++ [(0x7268, 0xFF)]

/-- A core with a command at a stage in its slot 0 of an engine, at the head of that engine's order. -/
def demoWork (eng : Nat) (x : Command) (f : Core → Core) : State :=
  { demo with
    mem := demoDescs
    cores := [(0, f { slots := [(16 * eng, some x)], morder := if eng = 0 then [0] else [], torder := if eng = 2 then [32] else [] })] }

/-- An MTILE of A0 without suffixes. -/
def demoTile : MtileArgs := ⟨1, 2, 3, 0, 1, 0, 1, false, false, false, false⟩

/-- The MTILE as a command with K 1, from FP16 to FP32. -/
def tileCmd (st : Stage) : Command :=
  { demoCmd (.mtile demoTile) st with va := 0x11100, vb := 0x11140, vc := 1, fmt := 0x99AA0000 }

theorem at_work {s : State} {eng n : Nat} {x : Command} {st : Stage} (h : (s.core 0).slot (16 * eng + n) = some x)
    (k : x.key = 16 * eng + n) (e : x.eng = eng) (g : x.stage = st) (hd : (s.core 0).isHead x = true) : AtWork s 0 eng n x st :=
  ⟨h, k, e, g, hd⟩

theorem three_spec {ε α β γ : Type} {d : α × β × γ} {x : Except ε (α × β × γ)} (h : x.toOption.isSome = true) :
    x = .ok ((got d x).1, (got d x).2.1, (got d x).2.2) := got_spec h

theorem wit_DescriptorReads :
    (∀ x, (demoWork 0 x id).stillStops 0 = false) ∧
    (AtWork (demoWork 0 (tileCmd .desc) id) 0 0 0 (tileCmd .desc) .desc ∧ mtileArgs (tileCmd .desc).instr = some demoTile ∧
      ∃ s1 ba s2 bb, readDesc (demoWork 0 (tileCmd .desc) id) ((demoWork 0 (tileCmd .desc) id).whoCmd 0 (tileCmd .desc)) 0x11100
          = .ok (s1, ba) ∧
        readDesc s1 ((demoWork 0 (tileCmd .desc) id).whoCmd 0 (tileCmd .desc)) 0x11140 = .ok (s2, bb) ∧
        (tileDesc ba).fmt = fFA (tileCmd .desc).fmt ∧ (tileDesc bb).fmt = fFB (tileCmd .desc).fmt ∧
        (tileDesc ba).cols = 1 ∧ (tileDesc bb).rows = 1 ∧ (tileDesc ba).rows = 2 ∧ (tileDesc bb).cols = 2 ∧
        ((s2.core 0).tile 0).bad 0 2 2 = false ∧ ((s2.core 0).tile 0).rstep = 0) ∧
    (∃ s1 bs, AtWork (demoWork 0 { demoCmd (.mconv 1 0 0 ⟨1, 0, false⟩) .desc with va := 0x111C0 } id) 0 0 0
        { demoCmd (.mconv 1 0 0 ⟨1, 0, false⟩) .desc with va := 0x111C0 } .desc ∧
      readDesc (demoWork 0 { demoCmd (.mconv 1 0 0 ⟨1, 0, false⟩) .desc with va := 0x111C0 } id)
        ((demoWork 0 { demoCmd (.mconv 1 0 0 ⟨1, 0, false⟩) .desc with va := 0x111C0 } id).whoCmd 0
          { demoCmd (.mconv 1 0 0 ⟨1, 0, false⟩) .desc with va := 0x111C0 }) 0x111C0 = .ok (s1, bs) ∧
      (tileDesc bs).rows = 2 ∧ (tileDesc bs).cols = 2 ∧ (tileDesc bs).fmt = 10 ∧ ((s1.core 0).tile 0).bad 0 2 2 = false) ∧
    (∃ s1 bs s2 list, AtWork (demoWork 1 { demoCmd (.cpy 1 ⟨1, 0, false⟩) .desc with va := 0x11180 } id) 0 1 0
        { demoCmd (.cpy 1 ⟨1, 0, false⟩) .desc with va := 0x11180 } .desc ∧
      readBytes (demoWork 1 { demoCmd (.cpy 1 ⟨1, 0, false⟩) .desc with va := 0x11180 } id)
        ((demoWork 1 { demoCmd (.cpy 1 ⟨1, 0, false⟩) .desc with va := 0x11180 } id).whoCmd 0
          { demoCmd (.cpy 1 ⟨1, 0, false⟩) .desc with va := 0x11180 }) 0x11180 64 = .ok (s1, bs) ∧
      copyDescOk (.cpy 1 ⟨1, 0, false⟩) bs = true ∧
      readBytes s1 ((demoWork 1 { demoCmd (.cpy 1 ⟨1, 0, false⟩) .desc with va := 0x11180 } id).whoCmd 0
          { demoCmd (.cpy 1 ⟨1, 0, false⟩) .desc with va := 0x11180 }) 0 0 = .ok (s2, list)) ∧
    (∃ s1 bs, AtWork (demoWork 0 { tileCmd .desc with va := 0x11240 } id) 0 0 0 { tileCmd .desc with va := 0x11240 } .desc ∧
      readBytes (demoWork 0 { tileCmd .desc with va := 0x11240 } id)
        ((demoWork 0 { tileCmd .desc with va := 0x11240 } id).whoCmd 0 { tileCmd .desc with va := 0x11240 }) 0x11240 64
        = .ok (s1, bs) ∧ tileDescOk bs = false) :=
  ⟨fun _ => rfl,
    ⟨at_work rfl rfl rfl rfl (by decide +kernel), rfl, _, _, _, _, two_spec (d := (demo, [])) (by decide +kernel),
      two_spec (d := (demo, [])) (by decide +kernel), by decide +kernel, by decide +kernel, by decide +kernel, by decide +kernel,
      by decide +kernel, by decide +kernel, by decide +kernel, by decide +kernel⟩,
    ⟨_, _, at_work rfl rfl rfl rfl (by decide +kernel), two_spec (d := (demo, [])) (by decide +kernel), by decide +kernel,
      by decide +kernel, by decide +kernel, by decide +kernel⟩,
    ⟨_, _, _, _, at_work rfl rfl rfl rfl (by decide +kernel), two_spec (d := (demo, [])) (by decide +kernel), by decide +kernel,
      two_spec (d := (demo, [])) (by decide +kernel)⟩,
    _, _, at_work rfl rfl rfl rfl (by decide +kernel), two_spec (d := (demo, [])) (by decide +kernel), by decide +kernel⟩

/-- A running copy at its last element. -/
def copyCmd (i : Instr) : Command := { demoCmd i .run with descA := copyBytes 0x11000 0x11010, pos := 1 }

/-- A running command on the 2 by 2 tile, at row `p`. -/
def rowCmd (i : Instr) (p : Nat) : Command := { demoCmd i .run with va := 0x11400, descA := tileBytes 0x11300 2 2 64 10, pos := p }

theorem wit_EngineAccesses :
    (AtWork (demoWork 1 (copyCmd (.cpy 1 ⟨1, 0, false⟩)) id) 0 1 0 (copyCmd (.cpy 1 ⟨1, 0, false⟩)) .run ∧
      (copyDesc (copyCmd (.cpy 1 ⟨1, 0, false⟩)).descA).n0 = 2 ∧ (copyDesc (copyCmd (.cpy 1 ⟨1, 0, false⟩)).descA).red = 0 ∧
      (∃ sp, checkAccess (demoWork 1 (copyCmd (.cpy 1 ⟨1, 0, false⟩)) id)
          ((demoWork 1 (copyCmd (.cpy 1 ⟨1, 0, false⟩)) id).whoCmd 0 (copyCmd (.cpy 1 ⟨1, 0, false⟩))) 1 0x11001 1 none = .ok sp ∧
        unsealsCopy (demoWork 1 (copyCmd (.cpy 1 ⟨1, 0, false⟩)) id) (copyCmd (.cpy 1 ⟨1, 0, false⟩)) sp.2 0x11011 0 = false ∧
        copyMisses (demoWork 1 (copyCmd (.cpy 1 ⟨1, 0, false⟩)) id) (copyCmd (.cpy 1 ⟨1, 0, false⟩))
          (copyDesc (copyCmd (.cpy 1 ⟨1, 0, false⟩)).descA) sp.2 = false) ∧
      ∃ s1 v, loadAt (demoWork 1 (copyCmd (.cpy 1 ⟨1, 0, false⟩)) id)
          ((demoWork 1 (copyCmd (.cpy 1 ⟨1, 0, false⟩)) id).whoCmd 0 (copyCmd (.cpy 1 ⟨1, 0, false⟩))) 0x11001 1 = .ok (s1, v) ∧
        (storeAt s1 ((demoWork 1 (copyCmd (.cpy 1 ⟨1, 0, false⟩)) id).whoCmd 0 (copyCmd (.cpy 1 ⟨1, 0, false⟩))) 0x11011 1 v).toOption.isSome
          = true) ∧
    (AtWork (demoWork 0 (rowCmd (.mconv 1 0 0 ⟨1, 0, false⟩) 1) id) 0 0 0 (rowCmd (.mconv 1 0 0 ⟨1, 0, false⟩) 1) .run ∧
      Table.get false (({} : Core).tile 0).poison (128 * (1 / 2) + 1 % 2) = false ∧
      (writeBytes (demoWork 0 (rowCmd (.mconv 1 0 0 ⟨1, 0, false⟩) 1) id)
        ((demoWork 0 (rowCmd (.mconv 1 0 0 ⟨1, 0, false⟩) 1) id).whoCmd 0 (rowCmd (.mconv 1 0 0 ⟨1, 0, false⟩) 1))
        ((tileDesc (rowCmd (.mconv 1 0 0 ⟨1, 0, false⟩) 1).descA).row [] (1 / 2) +
          BitVec.ofNat 64 (fmtBits (fFD (0xAAAA0000 : BitVec 32)) / 8 * (1 % 2)))
        (leBytes (fmtBits (fFD (0xAAAA0000 : BitVec 32)) / 8)
          (convElem (({} : Core).tile 0) (rowCmd (.mconv 1 0 0 ⟨1, 0, false⟩) 1) (1 / 2) (1 % 2)))).2 = none) ∧
    (AtWork (demoWork 0 (rowCmd (.aspill 1 0 ⟨1, 0, false⟩) 0) id) 0 0 0 (rowCmd (.aspill 1 0 ⟨1, 0, false⟩) 0) .run ∧
      (({} : Core).tile 0).bad 0 256 128 = false ∧
      (writeBytes (demoWork 0 (rowCmd (.aspill 1 0 ⟨1, 0, false⟩) 0) id)
        ((demoWork 0 (rowCmd (.aspill 1 0 ⟨1, 0, false⟩) 0) id).whoCmd 0 (rowCmd (.aspill 1 0 ⟨1, 0, false⟩) 0)) 0x11400
        (leBytes 4 (({} : Core).tile 0).tag ++ leBytes 4 (({} : Core).tile 0).tb.toNat ++ List.replicate 56 0)).2 = none) ∧
    (∃ s1 es qs, AtWork (demoWork 0 (rowCmd (.mload 1 2 0 ⟨1, 0, false⟩) 3) id) 0 0 0 (rowCmd (.mload 1 2 0 ⟨1, 0, false⟩) 3) .run ∧
      (rowCmd (.mload 1 2 0 ⟨1, 0, false⟩) 3).pos < (tileDesc (rowCmd (.mload 1 2 0 ⟨1, 0, false⟩) 3).descA).rows
        * (tileDesc (rowCmd (.mload 1 2 0 ⟨1, 0, false⟩) 3).descA).cols ∧
      readRow (demoWork 0 (rowCmd (.mload 1 2 0 ⟨1, 0, false⟩) 3) id)
        ((demoWork 0 (rowCmd (.mload 1 2 0 ⟨1, 0, false⟩) 3) id).whoCmd 0 (rowCmd (.mload 1 2 0 ⟨1, 0, false⟩) 3)) []
        (tileDesc (rowCmd (.mload 1 2 0 ⟨1, 0, false⟩) 3).descA) 0 false (3 / 2) (3 % 2) (3 % 2 + 1) [] = .ok (s1, es, qs)) ∧
    (∃ s1 bs, AtWork (demoWork 0 (rowCmd (.afill 1 0 ⟨1, 0, false⟩) 1) id) 0 0 0 (rowCmd (.afill 1 0 ⟨1, 0, false⟩) 1) .run ∧
      readBytes (demoWork 0 (rowCmd (.afill 1 0 ⟨1, 0, false⟩) 1) id)
        ((demoWork 0 (rowCmd (.afill 1 0 ⟨1, 0, false⟩) 1) id).whoCmd 0 (rowCmd (.afill 1 0 ⟨1, 0, false⟩) 1))
        (0x11400 + BitVec.ofNat 64 (64 + 4 * (1 - 1))) 4 = .ok (s1, bs)) ∧
    ∃ s1 bs, AtWork (demoWork 2 (rowCmd (.twld 1 ⟨1, 0, false⟩) 1) id) 0 2 0 (rowCmd (.twld 1 ⟨1, 0, false⟩) 1) .run ∧
      readBytes (demoWork 2 (rowCmd (.twld 1 ⟨1, 0, false⟩) 1) id)
        ((demoWork 2 (rowCmd (.twld 1 ⟨1, 0, false⟩) 1) id).whoCmd 0 (rowCmd (.twld 1 ⟨1, 0, false⟩) 1))
        (0x11400 + BitVec.ofNat 64 1) 1 = .ok (s1, bs) :=
  ⟨⟨at_work rfl rfl rfl rfl (by decide +kernel), by decide +kernel, by decide +kernel,
      ⟨_, got_spec (d := (demo, .dev 0)) (by decide +kernel), by decide +kernel, by decide +kernel⟩, _, _, two_spec (d := (demo, 0)) (by decide +kernel), by decide +kernel⟩,
    ⟨at_work rfl rfl rfl rfl (by decide +kernel), by decide +kernel, by decide +kernel⟩,
    ⟨at_work rfl rfl rfl rfl (by decide +kernel), by decide +kernel, by decide +kernel⟩,
    ⟨_, _, _, at_work rfl rfl rfl rfl (by decide +kernel), by decide +kernel,
      three_spec (d := (demo, [], [])) (by decide +kernel)⟩,
    ⟨_, _, at_work rfl rfl rfl rfl (by decide +kernel), two_spec (d := (demo, [])) (by decide +kernel)⟩,
    _, _, at_work rfl rfl rfl rfl (by decide +kernel), two_spec (d := (demo, [])) (by decide +kernel)⟩

/-- The MTILE in its k-steps, with its operands if they have come. -/
def stepCmd (carry : List Byte) : Command :=
  { tileCmd .kstep with descA := tileBytes 0x11200 2 1 64 9, descB := tileBytes 0x11280 1 2 64 9, carry := carry }

theorem wit_KSteps :
    (∀ c ∈ [([] : List Byte), [0, 0, 0, 0]], AtWork (demoWork 0 (stepCmd c) id) 0 0 0 (stepCmd c) .kstep ∧
      mtileArgs (stepCmd c).instr = some demoTile ∧ (stepCmd c).cut = false ∧ c.length ≠ 2 * ((2 + 2) * 1) ∧
      (let o := operandAt demoTile 2 2 1 0 (c.length / 2)
       let d := if o.1 then tileDesc (stepCmd c).descB else tileDesc (stepCmd c).descA
       o.1 = !c.isEmpty ∧ ∃ s1 es qs, readRow (demoWork 0 (stepCmd c) id) ((demoWork 0 (stepCmd c) id).whoCmd 0 (stepCmd c)) [] d
         (stepCmd c).fmt o.1 o.2.1 o.2.2 (o.2.2 + 1) [] = .ok (s1, es, qs))) ∧
    (let x := stepCmd (List.replicate 8 0)
     AtWork (demoWork 0 x id) 0 0 0 x .kstep ∧ x.carry.length = 2 * ((2 + 2) * 1) ∧ (tileDesc x.descA).rows = 2 ∧
      (tileDesc x.descB).cols = 2 ∧ readsPoison (demoWork 0 x id) 0 x demoTile = false) ∧
    fills (stepCmd []) = true := by
  refine ⟨?_, ⟨at_work rfl rfl rfl rfl (by decide +kernel), rfl, by decide +kernel, by decide +kernel, by decide +kernel⟩, rfl⟩
  simp only [List.forall_mem_cons, List.not_mem_nil, false_implies, implies_true, and_true]
  exact ⟨⟨at_work rfl rfl rfl rfl (by decide +kernel), rfl, rfl, by decide, by decide +kernel, _, _, _,
      three_spec (d := (demo, [], [])) (by decide +kernel)⟩,
    ⟨at_work rfl rfl rfl rfl (by decide +kernel), rfl, rfl, by decide, by decide +kernel, _, _, _,
      three_spec (d := (demo, [], [])) (by decide +kernel)⟩⟩

theorem wit_SlewLimiter :
    (AtWork { demoWork 0 { tileCmd .starting with quarters := 1 } id with starts := [(0, 1)] } 0 0 0
        { tileCmd .starting with quarters := 1 } .starting ∧ postOf 0 = 0 ∧
      [(0, 1)].filter (fun r => postOf r.1 = 0) = [(0, 1)] ∧ ([] : List (Nat × Nat)).filter (fun r => postOf r.1 = 0) = [] ∧
      (demoWork 0 (tileCmd .starting) id).pwrWrites = [] ∧ (demoWork 0 (tileCmd .starting) id).rampWrites = [] ∧
      (tileCmd (.stopping none)).cut = false) ∧
    AtWork { demoWork 0 { tileCmd (.stopping none) with quarters := 1 } id with stops := [(0, 1)] } 0 0 0
        { tileCmd (.stopping none) with quarters := 1 } (.stopping none) :=
  ⟨⟨at_work rfl rfl rfl rfl (by decide +kernel), by decide, by decide, rfl, rfl, rfl, rfl⟩, at_work rfl rfl rfl rfl (by decide +kernel)⟩

theorem wit_CommandCompletions :
    (AtWork (demoWork 0 (demoCmd (.mzero 0 0 ⟨1, 0, false⟩) .run) id) 0 0 0 (demoCmd (.mzero 0 0 ⟨1, 0, false⟩) .run) .run ∧
      (demoCmd (.mzero 0 0 ⟨1, 0, false⟩) .run).err = none ∧ hasAccesses (.mzero 0 0 ⟨1, 0, false⟩) = false ∧
      convertsPoison (demoWork 0 (demoCmd (.mzero 0 0 ⟨1, 0, false⟩) .run) id) 0 (demoCmd (.mzero 0 0 ⟨1, 0, false⟩) .run) = false ∧
      convertsFloat (demoWork 0 (demoCmd (.mzero 0 0 ⟨1, 0, false⟩) .run) id) 0 (demoCmd (.mzero 0 0 ⟨1, 0, false⟩) .run) = false ∧
      Untermed ((demoWork 0 (demoCmd (.mzero 0 0 ⟨1, 0, false⟩) .run) id).core 0) 1 ∧
      Untraced (demoWork 0 (demoCmd (.mzero 0 0 ⟨1, 0, false⟩) .run) id) 0 1) ∧
    (AtWork (demoWork 2 (demoCmd (.tcaptCount 9 ⟨1, 0, false⟩) .run) id) 0 2 0 (demoCmd (.tcaptCount 9 ⟨1, 0, false⟩) .run) .run) ∧
    (∀ i ∈ [Instr.mload 1 2 0 ⟨1, 0, false⟩, .afill 1 0 ⟨1, 0, false⟩, .mconvV 1 2 0 ⟨.row, false, 1⟩ 0 ⟨1, 0, false⟩],
      AtWork (demoWork 0 { demoCmd i .done with vc := 2 } id) 0 0 0 { demoCmd i .done with vc := 2 } .done) ∧
    (AtWork (demoWork 1 (demoCmd (.cpy 1 ⟨1, 0, false⟩) .done) id) 0 1 0 (demoCmd (.cpy 1 ⟨1, 0, false⟩) .done) .done) ∧
    AtWork (demoWork 1 (demoCmd (.cpy 1 ⟨1, 0, false⟩) (.failed { cause := .page, kind := 1, val := 0x5000 } 0)) id) 0 1 0
      (demoCmd (.cpy 1 ⟨1, 0, false⟩) (.failed { cause := .page, kind := 1, val := 0x5000 } 0))
      (.failed { cause := .page, kind := 1, val := 0x5000 } 0) :=
  ⟨⟨at_work rfl rfl rfl rfl (by decide +kernel), rfl, rfl, by decide +kernel, by decide +kernel, untermed_empty rfl 1, untraced_of rfl⟩,
    at_work rfl rfl rfl rfl (by decide +kernel), by
      simp only [List.forall_mem_cons, List.not_mem_nil, false_implies, implies_true, and_true]
      exact ⟨at_work rfl rfl rfl rfl (by decide +kernel), at_work rfl rfl rfl rfl (by decide +kernel),
        at_work rfl rfl rfl rfl (by decide +kernel)⟩, at_work rfl rfl rfl rfl (by decide +kernel),
    at_work rfl rfl rfl rfl (by decide +kernel)⟩

/-- A follow-on record (R232) with an MZERO of A0 into slot 0, barrier 1. -/
def demoFollow : Follow :=
  { bytes := leBytes 8 0xB010000004000000 ++ List.replicate 24 0 ++ leBytes 4 0xAAAA0000 ++ [2] ++ List.replicate 27 0, hart := 0,
    handler := false, asid := 0, ptroot := 0x1000 }

/-- Two arrivals at B1 of core 0 from core 3, for the context `asid`, behind one that a task of core 3 withholds. -/
def demoRemote (task : Bool) (asid : BitVec 16) : State :=
  let s := if task then demoTask false else demo
  { s with cores := s.cores ++ [(3, (demoTask true).core 0)]
           arrivals := [⟨0, 1, 1, 3, asid, some 0, 0, 0⟩, ⟨0, 1, 2, 3, asid, none, 0, 0⟩] }

theorem wit_EngineArrivals :
    AtWork (demoWork 2 (demoCmd (.tlaunch ⟨1, 0, false⟩) .wave) id) 0 2 0 (demoCmd (.tlaunch ⟨1, 0, false⟩) .wave) .wave ∧
    (∃ x, ((demoEng fun c => { c with follows := [demoFollow] }).core 0).follows.find?
        (fun f => ((w64At f.bytes 0).field 22 4).toNat = 0) = some demoFollow ∧
      followCommand demoFollow = some x ∧ x.key = 0 ∧ ((demoEng fun c => { c with follows := [demoFollow] }).core 0).slot 0 = none ∧
      matrixChecks x (w64At demoFollow.bytes 0) (agran ((demoEng fun c => { c with follows := [demoFollow] }).hart 0).partw)
        ((demoEng fun c => { c with follows := [demoFollow] }).regsOf 0) = .ok () ∧
      Table.get none ((demoEng fun c => { c with follows := [demoFollow] }).core 0).pending 0 = none ∧
      ((demoEng fun c => { c with follows := [demoFollow] }).core 0).imaging = false) ∧
    (let s := demoRemote true 0
     ∃ a b k, s.arrivals = [b] ++ a :: [] ∧ s.withholds b = true ∧ s.withholds a = false ∧ (s.core a.core).task = some k ∧
      k.asid = a.asid ∧ a.launch ≠ some k.launch ∧ Untermed (s.core a.core) a.bar ∧ Untraced s a.core 1 ∧ s.resetting a.core = false) ∧
    (let s := demoRemote true 5
     ∃ a b k, s.arrivals = [b] ++ a :: [] ∧ s.withholds b = true ∧ s.withholds a = false ∧ (s.core a.core).task = some k ∧
      k.asid ≠ a.asid ∧ (s.core a.core).reserved = none) ∧
    (let s := demoRemote false 0
     ∃ a b, s.arrivals = [b] ++ a :: [] ∧ s.withholds b = true ∧ s.withholds a = false ∧ (s.core a.core).task = none ∧
      (s.core a.core).reserved = none) ∧
    (let s := { demoRemote true 0 with arrivals := [⟨0, 1, 1, 3, 0, some 0, 0, 0⟩] }
     s.arrivals ≠ [] ∧ ∀ a ∈ s.arrivals, s.withholds a = true) := by
  refine ⟨at_work rfl rfl rfl rfl (by decide +kernel), ?_, ⟨_, _, _, rfl, by decide +kernel, by decide +kernel, rfl, rfl, nofun,
      untermed_empty rfl 1, untraced_of (by decide +kernel), by decide +kernel⟩,
    ⟨_, _, _, rfl, by decide +kernel, by decide +kernel, rfl, by decide +kernel, rfl⟩,
    ⟨_, _, rfl, by decide +kernel, by decide +kernel, rfl, rfl⟩, by decide +kernel⟩
  have h : followCommand demoFollow = some (((followCommand demoFollow)).getD (demoCmd .nop .desc)) := by
    cases hx : followCommand demoFollow with
    | some y => rfl
    | none => exact absurd hx (by decide +kernel)
  exact ⟨_, by decide +kernel, h, by decide +kernel, rfl, got_spec (d := ()) (by decide +kernel), rfl, rfl⟩

/-! ## Events of translation, leases and stamps: states that meet the hypotheses -/

/-- A list with the bytes `bs` at `o`. -/
def patch (r : List Byte) (o : Nat) (bs : List Byte) : List Byte := r.take o ++ bs ++ r.drop (o + bs.length)

/-- A record of one level of four iterations (R332, R333) whose entry and handler are the code page; PARTW 0x2002. -/
def demoRec : List Byte :=
  let r := patch (List.replicate 512 0) 0 (leBytes 8 0x10000)
  let r := patch r 32 (leBytes 8 0x10000 ++ leBytes 8 0x11200 ++ leBytes 4 0 ++ leBytes 4 0x2002 ++ [1, 0, 0, 0, 1])
  patch r 128 (leBytes 4 4 ++ [0, 0] ++ leBytes 2 1)

/-- The record with one lease range of a page at `base`. -/
def leaseRec (base : Nat) : List Byte := patch (patch demoRec 61 [1]) 320 (leBytes 8 base ++ leBytes 8 4096)

/-- A request for the data page by an engine of core 0. -/
def demoReq (va : Word) : XlatReq := { post := 0, va := va, asid := 0, ptroot := 0x1000, kind := 2, handler := false, tag := 0 }

/-- Its walk. -/
def demoWalking (va : Word) : XlatWalk := { req := demoReq va }

/-- A unit with the walk in progress. -/
def demoWalk (va : Word) : State := demo.setUnit (unitOf 0 va.toNat) { walks := [demoWalking va] }

/-- No leaf. -/
def noLeaf : Leaf := ⟨0, 0, 0, 0, 0, [], false⟩

/-- A unit that holds the data page's translation. -/
def demoCached : State := (got (demo, noLeaf) (walk demo 0 0 0x1000 0x11000 2 false)).1

/-- The data page's leaf. -/
def demoLeaf : Leaf := (((demoCached.unit (unitOf 0 0x11000)).leaves.find? (leafFor 0 0x11000)).getD noLeaf)

theorem some_spec {α : Type} {x : Option α} {d : α} (h : x.isSome = true) : x = some (x.getD d) := by
  cases x with
  | some a => rfl
  | none => cases h

theorem wit_WalkEvents :
    (canonical (demoReq 0x11000).va = true ∧
      (demoCached.unit (unitOf 0 0x11000)).leaves.find? (leafFor 0 0x11000) = some demoLeaf ∧ pteU demoLeaf.pte = true ∧
      pteAllows demoLeaf.pte 2 = true ∧ pteD demoLeaf.pte = true ∧ pteAllows demoLeaf.pte 0 = false ∧
      (demo.unit (unitOf 0 0x11000)).leaves.any (leafFor 0 0x11000) = false) ∧
    (((demoWalk 0x11000).unit (unitOf 0 0x11000)).walks.find? (fun w => !(demoWalk 0x11000).stopped w.req.asid w.req.va.toNat)
        = some (demoWalking 0x11000) ∧ ((demoWalk 0x11000).unit (unitOf 0 0x11000)).waits = [] ∧
      ((demoWalk 0x11000).unit (unitOf 0 0x11000)).misses = [] ∧
      ∃ s1 l, walk ((demoWalk 0x11000).setUnit (unitOf 0 0x11000)
        { (demoWalk 0x11000).unit (unitOf 0 0x11000) with
          walks := ((demoWalk 0x11000).unit (unitOf 0 0x11000)).walks.erase (demoWalking 0x11000) }) 0 0 0x1000 0x11000 2 false
        = .ok (s1, l)) ∧ (demoWalking 0x11000).joined = [] ∧
    (((demoWalk 0x55000).unit (unitOf 0 0x55000)).walks.find? (fun w => !(demoWalk 0x55000).stopped w.req.asid w.req.va.toNat)
        = some (demoWalking 0x55000) ∧ ((demoWalk 0x55000).unit (unitOf 0 0x55000)).waits = [] ∧
      ((demoWalk 0x55000).unit (unitOf 0 0x55000)).misses = [] ∧
      ∃ c, walk ((demoWalk 0x55000).setUnit (unitOf 0 0x55000)
        { (demoWalk 0x55000).unit (unitOf 0 0x55000) with
          walks := ((demoWalk 0x55000).unit (unitOf 0 0x55000)).walks.erase (demoWalking 0x55000) }) 0 0 0x1000 0x55000 2 false
        = .error c) :=
  ⟨⟨by decide +kernel, some_spec (by decide +kernel), by decide +kernel, by decide +kernel, by decide +kernel, by decide +kernel,
      by decide +kernel⟩,
    ⟨by decide +kernel, rfl, rfl, _, _, two_spec (d := (demo, noLeaf)) (by decide +kernel)⟩, rfl,
    by decide +kernel, rfl, rfl, .page, err_spec (by decide +kernel)⟩

/-- An invalidation of the data page, for the host, for an answer and for the ATS. -/
def demoInv (f : InvFrom) : Invalidation := ⟨0x11000, 1, 0, 0, f⟩

theorem wit_Invalidations :
    (¬(canonical (0x11001 : Word) = true ∧ (0x11001 : Word).toNat % 4096 = 0) ∧ canonical (0x11000 : Word) = true ∧
      (0x11000 : Word).toNat % 4096 = 0) ∧
    ∀ f ∈ [InvFrom.host 0x100, .answer 0 0x11000, .ats],
      ({ demoCached with inv := [demoInv f] } : State).inv.find?
        (fun i => coverReady { demoCached with inv := [demoInv f] } i.cover) = some (demoInv f) := by
  refine ⟨⟨by decide, by decide, by decide⟩, ?_⟩
  intro f h
  simp only [List.mem_cons, List.not_mem_nil, or_false] at h
  rcases h with rfl | rfl | rfl <;> decide +kernel

/-- A unit with a request for the page at 0x55000, held or outstanding. -/
def demoFault (held : Bool) : State :=
  { demo.setUnit 0 (if held then { held := [(3, 0x55000, 0, false, 1, 7)] } else { requests := [(3, 0x55000, 0, false, 1, 7)] }) with
    frbase := 0x80000 }

theorem wit_FaultPath :
    (((demoFault true).unit 0).held = (3, 0x55000, 0, false, 1, 7) :: [] ∧ (demoFault true).frbase ≠ 0 ∧
      ((demoFault true).frhead - (demoFault true).frtail).toNat < 2 ^ (demoFault true).frsize) ∧
    ((({ demoFault true with frbase := 0 } : State).unit 0).held = (3, 0x55000, 0, false, 1, 7) :: [] ∧
      ({ demoFault true with frbase := 0 } : State).frbase = 0) ∧
    ((demoFault false).unit 0).requests.find? (fun r => r.1 = (3 : BitVec 32).toNat)
      = some ((3 : BitVec 32).toNat, 0x55000, 0, false, 1, 7) :=
  ⟨⟨by decide +kernel, by decide, by decide⟩, ⟨by decide +kernel, rfl⟩, by decide +kernel⟩

/-- A launch that resolves its lease ranges. -/
def demoLease (r : List Byte) (pend : Nat) (bad : Bool) : State :=
  { demo with
    frbase := if bad then 0 else 0x80000
    launches := [(0, some { demoLaunch with record := r, phase := .leases, pend := pend })] }

/-- What resolving its range comes to. -/
def leaseOf (s : State) (base : Word) : Ranged := resolveRange 0 0 0 0x1000 base false 1 7 1 s 0 none

theorem ranged_done {r : Ranged} (h : (match r with | .done _ => true | _ => false) = true) : ∃ s, r = .done s := by
  cases r with
  | done s => exact ⟨s, rfl⟩
  | fail s p c => cases h
  | wait s k => cases h

theorem ranged_wait {r : Ranged} (h : (match r with | .wait _ _ => true | _ => false) = true) : ∃ s k, r = .wait s k := by
  cases r with
  | done s => cases h
  | fail s p c => cases h
  | wait s k => exact ⟨s, k, rfl⟩

theorem ranged_fail {r : Ranged} (h : (match r with | .fail _ _ _ => true | _ => false) = true) : ∃ s p c, r = .fail s p c := by
  cases r with
  | done s => cases h
  | fail s p c => exact ⟨s, p, c, rfl⟩
  | wait s k => cases h

/-- A LEASEX of the data page, whose launch holds `n` extra ranges. -/
def demoLeasex (base : Word) (n : Nat) : State :=
  { demo with
    leasexs := [{ core := 0, bar := 1, launch := 0, base := base, len := 4096, write := false, asid := 0, ptroot := 0x1000, corr := 7 }]
    launches := [(0, some { demoLaunch with held := List.replicate n ⟨0x11000, 4096, false, true, 0⟩ })] }

theorem wit_LeaseResolution :
    (∃ l, (demoLease demoRec 0 false).launch 0 = some l ∧ l.resolved = false ∧ (l.phase = .leases ∨ l.phase = .suspended) ∧
      Record.nlease l.record ≤ l.pend) ∧
    (∃ l s1, (demoLease (leaseRec 0x11000) 0 false).launch 0 = some l ∧ l.resolved = false ∧ (l.phase = .leases ∨ l.phase = .suspended) ∧
      Record.nlease l.record = l.pend + 1 ∧ leaseOf (demoLease (leaseRec 0x11000) 0 false) 0x11000 = .done s1 ∧
      Record.leaseBase l.record l.pend = 0x11000 ∧ pagesOf (Record.leaseBase l.record l.pend).toNat (Record.leaseLen l.record l.pend) = 1) ∧
    (∃ s1 k, leaseOf (demoLease (leaseRec 0x55000) 0 false) 0x55000 = .wait s1 k ∧ Record.nlease (leaseRec 0x55000) = 1 ∧
      Record.leaseBase (leaseRec 0x55000) 0 = 0x55000) ∧
    (∃ s1 a c, leaseOf (demoLease (leaseRec 0x55000) 0 true) 0x55000 = .fail s1 a c) ∧
    (∃ r l s1, (demoLeasex 0x11000 0).leasexs.find? (fun r => r.answer.isSome || !pageAsked (demoLeasex 0x11000 0) r.asid
        (BitVec.ofNat 64 (r.base.toNat / 4096 * 4096 + 4096 * r.page))) = some r ∧ (demoLeasex 0x11000 0).launch r.launch = some l ∧
      Untermed ((demoLeasex 0x11000 0).core r.core) r.bar ∧ Untraced (demoLeasex 0x11000 0) r.core 1 ∧
      (l.held.filter Range.extra).length < 16 ∧
      resolveRange 0 0 0 0x1000 0x11000 false 2 7 1 { demoLeasex 0x11000 0 with leasexs := [] } 0 none = .done s1 ∧
      s1.launches = (demoLeasex 0x11000 0).launches) ∧
    (∃ r l, (demoLeasex 0x11000 16).leasexs.find? (fun r => r.answer.isSome || !pageAsked (demoLeasex 0x11000 16) r.asid
        (BitVec.ofNat 64 (r.base.toNat / 4096 * 4096 + 4096 * r.page))) = some r ∧ (demoLeasex 0x11000 16).launch r.launch = some l ∧
      Untermed ((demoLeasex 0x11000 16).core r.core) r.bar ∧ Untraced (demoLeasex 0x11000 16) r.core 1 ∧
      16 ≤ (l.held.filter Range.extra).length) ∧
    ∃ s1 p c, resolveRange 0 0 0 0x1000 0x55000 false 2 7 1 { demoLeasex 0x55000 0 with leasexs := [] } 0 none = .fail s1 p c ∧
      s1.launches = (demoLeasex 0x55000 0).launches := by
  obtain ⟨sd, hd⟩ := ranged_done (r := leaseOf (demoLease (leaseRec 0x11000) 0 false) 0x11000) (by decide +kernel)
  refine ⟨⟨_, rfl, rfl, .inl rfl, by decide +kernel⟩,
    ⟨_, sd, rfl, rfl, .inl rfl, by decide +kernel, hd, by decide +kernel, by decide +kernel⟩, ?_,
    ranged_fail (by decide +kernel), ?_, ⟨_, _, rfl, rfl, untermed_empty rfl 1, untraced_of rfl, by decide⟩, ?_⟩
  · obtain ⟨s, k, h⟩ := ranged_wait (r := leaseOf (demoLease (leaseRec 0x55000) 0 false) 0x55000) (by decide +kernel)
    exact ⟨s, k, h, by decide +kernel, by decide +kernel⟩
  · have h : ∀ r : Ranged, (match r with | .done s => decide (s.launches = (demoLeasex 0x11000 0).launches) | _ => false) = true →
        ∃ s1, r = .done s1 ∧ s1.launches = (demoLeasex 0x11000 0).launches := by
      intro r h
      cases r with
      | done s => exact ⟨s, rfl, of_decide_eq_true h⟩
      | fail s p c => cases h
      | wait s k => cases h
    obtain ⟨s1, h1, h2⟩ := h (resolveRange 0 0 0 0x1000 0x11000 false 2 7 1 { demoLeasex 0x11000 0 with leasexs := [] } 0 none)
      (by decide +kernel)
    exact ⟨_, _, s1, rfl, rfl, untermed_empty rfl 1, untraced_of rfl, by decide, h1, h2⟩
  · obtain ⟨s1, p, c, h⟩ := ranged_fail (r := resolveRange 0 0 0 0x1000 0x55000 false 2 7 1
      { demoLeasex 0x55000 0 with leasexs := [] } 0 none) (by decide +kernel)
    have k : ∀ r : Ranged, (match r with | .fail s _ _ => decide (s.launches = (demoLeasex 0x55000 0).launches) | _ => true) = true →
        r = .fail s1 p c → s1.launches = (demoLeasex 0x55000 0).launches := by
      intro r hr e
      subst e
      exact of_decide_eq_true hr
    exact ⟨s1, p, c, h, k _ (by decide +kernel) h⟩

/-- A STAMP of the sealed data page, its manifest in the window of a peer. -/
def demoStamp (region : Word) : State :=
  { demo with
    pwin := [(1, { base := 0x10000000000, size := 1, peer := 1, up := true })]
    remote := [⟨1, 0, ⟨0, true, true, true⟩⟩, ⟨1, 1, ⟨1, true, true, true⟩⟩]
    sealed := [(7, true)]
    policies := [{ asid := 0, mcode := 0, mlen := 0, mmeas := [], model := [], reservedSet := false }]
    stamps := [{ core := 0, hart := 0, bar := 1, region := region, len := 0x1000, manifest := 0x10000000000, asid := 0, ptroot := 0x1000,
                 launch := 0, n := 0, handler := false }] }

/-- Who makes its accesses. -/
def stampWho : Who := { core := 0, asid := 0, ptroot := 0x1000, handler := false, launch := some 0, agent := 512 }

/-- The state after the check of its pages, and after its reads: 32 lines, and the same unit. -/
def stampChecked : State := (got (demo, []) (sealedPages stampWho 1 (demoStamp 0x11000) 0x11000)).1

/-- The state after its reads, whose lines L2 then holds. -/
def stampRead : State :=
  { stampChecked with lines := (List.range 32).reverse.map fun k =>
      { post := 0, asid := 0, va := 544 + k, leaf := ⟨0, 0x11000, 0, 0x5088, 0x1CD7, [], false⟩ } }

theorem stamp_read : ∃ bs, readRun stampChecked stampWho 0x11000 8 512 = .ok (stampRead, bs) := by
  have h : (match readRun stampChecked stampWho 0x11000 8 512 with | .ok r => decide (r.1 = stampRead) | .error _ => false) = true := by
    decide +kernel
  split at h
  · rename_i r e
    exact ⟨r.2, by rw [e, ← of_decide_eq_true h]⟩
  · cases h

theorem stamp_places : ∃ s3 places, manifestPlaces stampWho 998 stampRead 0x10000000000 = .ok (s3, places) :=
  ⟨_, _, two_spec (d := (demo, [])) (by decide +kernel)⟩

theorem wit_Stamping :
    (∃ r, (demoStamp 0x11000).stamps = r :: [] ∧ r.region.toNat % 4096 = 0 ∧ r.len ≠ 0 ∧
      r.len.toNat % 4096 = 0 ∧ r.len.toNat ≤ 2 ^ 28 ∧ r.manifest.toNat % 64 = 0 ∧ Untermed ((demoStamp 0x11000).core r.core) r.bar ∧
      Untraced (demoStamp 0x11000) r.core 1) ∧
    (∃ s1 s2 s3 pages bs places, sealedPages stampWho 1 (demoStamp 0x11000) 0x11000 = .ok (s1, pages) ∧
      readRun s1 stampWho 0x11000 8 512 = .ok (s2, bs) ∧ manifestPlaces stampWho 998 s2 0x10000000000 = .ok (s3, places)) :=
  ⟨⟨_, rfl, by decide, by decide, by decide, by decide, by decide, untermed_empty rfl 1, untraced_of rfl⟩, by
    obtain ⟨bs, hb⟩ := stamp_read
    obtain ⟨s3, places, hp⟩ := stamp_places
    exact ⟨stampChecked, stampRead, s3, _, bs, places, two_spec (by decide +kernel), hb, hp⟩⟩

/-- The stamps that are refused: of part of a page, of no byte, of more than 2^28 bytes, of a page that is not sealed, of one whose
second word is poisoned, and those whose manifest would lie across a line, or on a sealed page. -/
theorem wit_Stamping_refused :
    ((0x11008 : Word).toNat % 4096 ≠ 0 ∧ ((0x10001000 : Word).toNat % 4096 = 0 ∧ 2 ^ 28 < (0x10001000 : Word).toNat)) ∧
    (∃ f, sealedPages stampWho 1 { demoStamp 0x11000 with sealed := [] } 0x11000 = .error f) ∧
    (∃ s1 pages f, sealedPages stampWho 1 { demoStamp 0x11000 with poison := [(0xE01, true)] } 0x11000 = .ok (s1, pages) ∧
      readRun s1 stampWho 0x11000 8 512 = .error f) ∧
    (0x10000000020 : Word).toNat % 64 ≠ 0 ∧ ∃ f, manifestPlaces stampWho 998 stampRead 0x11000 = .error f := by
  obtain ⟨f, hf⟩ := fails_spec (x := readRun (got (demo, []) (sealedPages stampWho 1
    { demoStamp 0x11000 with poison := [(0xE01, true)] } 0x11000)).1 stampWho 0x11000 8 512) (by decide +kernel)
  exact ⟨by decide, fails_spec (by decide +kernel), ⟨_, _, f, two_spec (d := (demo, [])) (by decide +kernel), hf⟩, by decide,
    fails_spec (by decide +kernel)⟩

/-! ## Queues, packets and sessions: states that meet the hypotheses -/

/-- A packet (R330) with no further fields. -/
def pkt (opc fl corr addr val : Nat) : List Byte :=
  [BitVec.ofNat 8 opc, BitVec.ofNat 8 fl, 0, 0] ++ leBytes 4 corr ++ leBytes 8 addr ++ leBytes 8 val ++ List.replicate 40 0

/-- Queue 0 holds one packet, at 0x11800; a record lies at 0x11400, and a cursor that names it at 0x11600. -/
def demoPkt (bs : List Byte) (f : Queue → Queue) : State :=
  { demo with
    mem := demo.mem ++ placed 0x7400 demoRec ++ placed 0x7600 (leBytes 8 0x11400 ++ leBytes 8 2 ++ leBytes 8 2) ++ placed 0x7800 bs
    queues := [(0, f { base := 0x11800, en := true, tail := 1 })]
    contexts := [(0, { ptroot := 0x1000 })] }

/-- The arbiter takes a well-formed packet of queue 0, of which and of whose state `f` holds. -/
def takenOk (s : State) (f : State → Packet → Bool) : Bool :=
  match pick s.markQueues with
  | some (a, 0) => match headPacket a 0 with
    | .ok (b, p) =>
      let s1 := b.setQueue 0 { b.queue 0 with head := (b.queue 0).head + 1, since := none }
      p.refusal.isNone && (s1.queue 0).en && f s1 p
    | .error _ => false
  | _ => false

theorem taken_of {s : State} {f : State → Packet → Bool} (h : takenOk s f = true) :
    ∃ s1 p, Taken s s1 0 p ∧ f s1 p = true := by
  unfold takenOk at h
  split at h
  · rename_i a hp
    split at h
    · rename_i b p hh
      simp only [Bool.and_eq_true] at h
      exact ⟨_, p, ⟨⟨a, b, hp, hh, rfl⟩, by simpa using h.1.1, h.1.2⟩, h.2⟩
    · cases h
  · cases h

/-- A LAUNCH of the record, of its cursor, and of an address where there is none. -/
def demoLaunchPkt (fl addr : Nat) : State := demoPkt (pkt 1 fl 7 addr 0) id

/-- The record that a LAUNCH reads at an address. -/
def recordRead (s : State) (a : Word) : State × List Byte :=
  got (demo, []) (readBytes s (s.whoQueue (s.queue 0).asid) a 512)

/-- A record at `a` can be read, and is well formed or is not. -/
def reads (s : State) (a : Word) (ok : Bool) : Bool :=
  (readBytes s (s.whoQueue (s.queue 0).asid) a 512).toOption.isSome && decide (Record.ok (recordRead s a).2 = ok)

/-- The slots of the record can be read. -/
def readsSlots (s : State) (a : Word) : Bool :=
  let x := recordRead s a
  (readSlots { x.1 with nextLaunch := x.1.nextLaunch + 1 } (x.1.queue 0).asid x.2 12).toOption.isSome

/-- A cursor at `a` names a record that can be read. -/
def readsCursor (s : State) (a : Word) : Bool :=
  match readRun s (s.whoQueue (s.queue 0).asid) a 8 8 with
  | .ok (s2, cb) => reads s2 (w64At cb 0) true
  | .error _ => false

theorem wit_LaunchPackets :
    (∃ s1 p, Taken (demoLaunchPkt 0 0x11400) s1 0 p ∧
      (p.opc = 1 && p.pflags / 2 % 2 = 0 && p.addr = 0x11400 && reads s1 0x11400 true && readsSlots s1 0x11400) = true) ∧
    (∃ s1 p, Taken (demoLaunchPkt 2 0x11600) s1 0 p ∧
      (p.opc = 1 && p.pflags / 2 % 2 = 1 && p.addr = 0x11600 && readsCursor s1 0x11600) = true) ∧
    ∃ s1 p, Taken (demoLaunchPkt 0 0x11600) s1 0 p ∧
      (p.opc = 1 && p.pflags / 2 % 2 = 0 && p.addr = 0x11600 && reads s1 0x11600 false) = true :=
  ⟨taken_of (by decide +kernel), taken_of (by decide +kernel), taken_of (by decide +kernel)⟩

/-- A WAITMEM for the data's first word. -/
def demoWaitmem : State := demoPkt (pkt 2 0 7 0x11000 1) id

/-- The queue blocked on that word. -/
def demoBlocked : State := demoPkt [] fun q => { q with blocked := some (0x11000, 1, 7) }

/-- A SIGNAL that waits for no launch any more. -/
def demoSignal : State := demoPkt [] fun q => { q with signals := [(0x11000, 1, 7, [3])] }

/-- The state with the SIGNAL removed. -/
def signalled : State := demoSignal.setQueue 0 { demoSignal.queue 0 with signals := [] }

/-- The word of the WAITMEM can be read. -/
def readsWord (s : State) : Bool := (loadAt s (s.whoQueue (s.queue 0).asid) 0x11000 8).toOption.isSome

theorem wit_QueuePackets :
    (∃ s1 p, Taken demoWaitmem s1 0 p ∧ (p.opc = 2 && p.addr = 0x11000 && readsWord s1) = true) ∧
    ((demoBlocked.queue 0).en = true ∧ (demoBlocked.queue 0).blocked = some (0x11000, 1, 7) ∧ readsWord demoBlocked = true) ∧
    (∃ s1 p, Taken (demoPkt (pkt 3 0 7 0x11000 1) id) s1 0 p ∧ decide (p.opc = 3) = true) ∧
    ((demoSignal.queue 0).signals.find? (fun g => g.2.2.2.all fun l => (demoSignal.launch l).isNone) = some (0x11000, 1, 7, [3]) ∧
      ∃ s1 pl, checkAccess signalled (signalled.whoQueue (demoSignal.queue 0).asid) 3 0x11000 8 (some .add) = .ok (s1, pl) ∧
        pl.isMemory = true) ∧
    ∃ s1 p, Taken (demoPkt (pkt 5 0 7 0 0) id) s1 0 p ∧
      (p.opc = 5 && p.val = 0 && (s1.queue 0).trace.isNone && (s1.queue 0).en) = true :=
  ⟨taken_of (by decide +kernel), ⟨rfl, rfl, by decide +kernel⟩, taken_of (by decide +kernel),
    ⟨by decide +kernel, _, _, two_spec (d := (demo, .dev 0)) (by decide +kernel), by decide +kernel⟩, taken_of (by decide +kernel)⟩

/-- A PREEMPT of one FORM against a launch of the context, which walks or is suspended. -/
def demoPreempt (form : Nat) (l : Launch) : State :=
  { demoPkt (pkt 4 form 9 0x11800 7) id with launches := [(0, some l)] }

/-- A launch with the record. -/
def walkingLaunch (ph : LaunchPhase) (ppol : Byte) : Launch :=
  { demoLaunch with record := patch demoRec 58 [2 * ppol], phase := ph, resolved := true }

/-- A PREEMPT of the form names the launch, at level 0. -/
def names (f : Nat) (l : Launch) (s1 : State) (p : Packet) : Bool :=
  p.opc = 4 && decide (preemptTarget s1 0 p = some (0, l)) && p.pflags % 8 = f && p.pflags / 16 % 8 < Record.nlev l.record

theorem wit_Preemption :
    (∀ f ∈ [0, 1, 2, 3], ∃ s1 p, Taken (demoPreempt f (walkingLaunch .walking 0)) s1 0 p ∧
      names f (walkingLaunch .walking 0) s1 p = true) ∧
    Preemptible (walkingLaunch .walking 0) ∧
    (∀ o ∈ [0, 1, 2], Record.ppol (walkingLaunch .walking (BitVec.ofNat 8 o)).record = o) ∧
    (∃ s1 p, Taken (demoPreempt 4 (walkingLaunch .suspended 0)) s1 0 p ∧ names 4 (walkingLaunch .suspended 0) s1 p = true) ∧
    (∃ s1 p, Taken (demoPreempt 1 (walkingLaunch .suspended 0)) s1 0 p ∧ names 1 (walkingLaunch .suspended 0) s1 p = true) ∧
    ¬Preemptible (walkingLaunch .suspended 0) ∧
    (∃ s1 p, Taken (demoPreempt 4 (walkingLaunch .walking 0)) s1 0 p ∧ names 4 (walkingLaunch .walking 0) s1 p = true) ∧
    (walkingLaunch .walking 0).phase ≠ .suspended := by
  refine ⟨?_, ⟨nofun, nofun, nofun⟩, by decide +kernel, taken_of (by decide +kernel), taken_of (by decide +kernel), fun h => h.1 rfl,
    taken_of (by decide +kernel), nofun⟩
  intro f h
  simp only [List.mem_cons, List.not_mem_nil, or_false] at h
  rcases h with rfl | rfl | rfl | rfl <;> exact taken_of (by decide +kernel)

/-- A TRACEON with its ring at 0x20000 and TLOG 8. -/
def traceonBytes : List Byte := patch (patch (pkt 6 0 7 0 0) 24 (leBytes 8 0x20000)) 32 [8]

theorem wit_TraceSessions :
    (∃ s1 p, Taken (demoPkt traceonBytes id) s1 0 p ∧ (p.opc = 6 && (s1.queue 0).trace.isNone) = true) ∧
    ∃ s1 p, Taken (demoPkt (pkt 7 0 7 0 0) id) s1 0 p ∧ decide (p.opc = 7) = true :=
  ⟨taken_of (by decide +kernel), taken_of (by decide +kernel)⟩

/-! ## Launches and tasks: states that meet the hypotheses -/

/-- A resolved launch of the record `r`, changed by `f`. -/
def demoLaunched (r : List Byte) (f : Launch → Launch) : State :=
  { demo with
    launches := [(0, some (f { demoLaunch with record := r, resolved := true }))]
    contexts := [(0, { ptroot := 0x1000 })] }

/-- The record with a level of kind 1 whose table is not mapped, and with PLACE COHORT on core 5 and PBAR 3, PCOUNT 2. -/
def badTable : List Byte := patch demoRec 128 (leBytes 4 4 ++ [0, 1, 0, 0] ++ leBytes 8 0x55000)
def cohortRec : List Byte := patch (patch demoRec 58 [16]) 66 [5, 1, 3, 0, 2, 0]

/-- What a computation gives satisfies `f`. -/
def gives {ε α : Type} (x : Except ε α) (f : α → Bool) : Bool :=
  match x with
  | .ok a => f a
  | .error _ => false

theorem gives_spec {ε α : Type} {x : Except ε α} {f : α → Bool} (h : gives x f = true) : ∃ a, x = .ok a ∧ f a = true := by
  cases x with
  | ok a => exact ⟨a, rfl, h⟩
  | error e => cases h

/-- A launch whose one iteration waits for its cohort. -/
def demoCohort : State := demoLaunched cohortRec fun l => { l with
  walkDone := true, waiting := [{ n := 0, x := [0, 0, 0, 0, 0, 0] }] }

theorem wit_Walks :
    (∃ x, nextPlace (demoLaunched demoRec id) 0 demoRec none = .ok x ∧ decide (x.2 = some ([(0, 0)], 0)) = true) ∧
    (∀ cur ∈ [none, some (0, placeX demoRec [(0, 0)]), some (2, []), some (0, [7, 0, 0, 0, 0, 0]), some (0, [0, 0, 0, 0, 0, 0])], ∃ l, (demoLaunched demoRec fun l => { l with cursor := cur }).launch 0
      = some l ∧ l.cursor = cur ∧ l.walkDone = false ∧ l.failure = none ∧ l.phase = .walking ∧ Record.place l.record ≠ 1 ∧ l.walk = none ∧ l.next < 2) ∧
    (∃ x, nextPlace (demoLaunched demoRec fun l => { l with walk := some [(3, 3)] }) 0 demoRec (some [(3, 3)]) = .ok x ∧
      x.2.isNone = true) ∧
    placeX demoRec [(0, 0)] ≠ [7, 0, 0, 0, 0, 0] ∧ (∃ c, nextPlace (demoLaunched badTable id) 0 badTable none = .error c) ∧
    ∃ l, demoCohort.launch 0 = some l ∧ Record.place l.record = 1 ∧ l.walkDone = true ∧ l.failure = none ∧ l.phase = .walking ∧
      l.resolved = true ∧ (l.waiting.map fun i => Record.cohortCore l.record i.n) = [5] ∧ [5].Nodup ∧
      cohortHeat demoCohort (Record.heat l.record) [5] = true ∧ (demoCohort.core 5).task = none ∧
      (demoCohort.core 5).reserved = none ∧ (demoCohort.core 5).noCommands = true := by
  refine ⟨gives_spec (by decide +kernel), ?_, gives_spec (by decide +kernel), by decide +kernel, fails_spec (by decide +kernel),
    _, rfl, by decide +kernel, rfl, rfl, rfl, rfl, by decide +kernel, by decide, by decide +kernel, rfl, rfl, rfl⟩
  intro cur h
  simp only [List.mem_cons, List.not_mem_nil, or_false] at h
  rcases h with rfl | rfl | rfl | rfl | rfl <;> exact ⟨_, rfl, rfl, rfl, rfl, rfl, by decide +kernel, rfl, by decide⟩

/-- An iteration that waits. -/
def demoIter : Iteration := { n := 0, x := [0, 0, 0, 0, 0, 0] }

/-- A launch with an iteration to place. -/
def demoPlace : State := demoLaunched demoRec fun l => { l with waiting := [demoIter] }

/-- The task of a core, in a phase. -/
def taskIn (p : TaskPhase) : Task :=
  { launch := 0, n := 0, x := [0, 0, 0, 0, 0, 0], phase := p, record := 0x11400, corr := 7, asid := 0, ptroot := 0x1000, gang := 1,
    buffered := true, ppol := 0, gt := 120, heat := 0, partw := 0x2002 }

/-- Core 0 holds that task, whose input tile of two bytes a row lies in the data. -/
def demoHeld (p : TaskPhase) (f : Launch → Launch) : State :=
  { demo with
    cores := [(0, { task := some (taskIn p) })]
    launches := [(0, some (f { demoLaunch with record := patch demoRec 224 (leBytes 8 0x11440), resolved := true,
                                                slots := [tileBytes 0x11000 2 1 64 9] ++ List.replicate 11 [] }))] }

/-- Its launch. -/
def heldLaunch : Launch := ((demoHeld .staging id).launch 0).getD demoLaunch

theorem held_slots : SlotsFormed heldLaunch := by
  refine ⟨by decide +kernel, ?_⟩
  have h : heldLaunch.slots.all (fun b => b.isEmpty || tileDescOk b) = true := by decide +kernel
  intro b hb
  simpa using List.all_eq_true.1 h b hb

/-- A run of accesses that meets no fault gives the state of its first part. -/
theorem run_spec {x : State × Option AccFault} (h : x.2.isNone = true) : x = (x.1, none) := pair_spec (Option.isNone_iff_eq_none.mp h)

theorem wit_TaskStarts :
    (∃ l g, demoPlace.launch 0 = some l ∧ l.candidate = some demoIter ∧ demoIter.image = none ∧ myTurn demoPlace 0 l = true ∧
      Record.heat l.record = 0 ∧ placeGrants demoPlace 0 l demoIter 9 = some g) ∧
    (∃ s1, ((demoHeld .staging id).core 0).task = some (taskIn .staging) ∧ (demoHeld .staging id).launch 0 = some heldLaunch ∧
      SlotsFormed heldLaunch ∧ (slotMoves (taskIn .staging).x (heldLaunch.slots.take 8)).length = 2 ∧
      staged (demoHeld .staging id) 0 (taskIn .staging) heldLaunch = (s1, none)) ∧
    ((demoHeld .ready id).core 0).task = some (taskIn .ready) ∧ (demoHeld .ready id).launch 0 = some heldLaunch ∧
      ((demoHeld .ready id).context heldLaunch.asid).stopped = false ∧ heldLaunch.failure = none ∧ heldLaunch.phase = .walking ∧
      lowerStarted (demoHeld .ready id) 0 heldLaunch 0 = true ∧ (taskIn .ready).x.length = 6 ∧ (taskIn .ready).gang ≤ 4 ∧
      Untraced (demoHeld .ready id) 0 2 := by
  refine ⟨?_, ⟨_, rfl, rfl, held_slots, by decide +kernel, run_spec (by decide +kernel)⟩, rfl, rfl, rfl, rfl, rfl, by decide +kernel, rfl, by decide, ?_⟩
  · have h : (placeGrants demoPlace 0 { demoLaunch with record := demoRec, resolved := true, waiting := [demoIter] } demoIter 9).isSome
        = true := by decide +kernel
    obtain ⟨g, hg⟩ := Option.isSome_iff_exists.mp h
    exact ⟨_, g, rfl, by decide +kernel, rfl, by decide +kernel, by decide +kernel, hg⟩
  · intro l h
    cases h
    decide +kernel

/-- The task in its commit, with an add of 1 queued at an address; the launch signals nothing. -/
def demoCommit (a : Word) : State :=
  { demoHeld .commit id with
    harts := [(0, { demoHart with commitQ := [{ addr := a, bytes := 8, op := .add, val := 1, handler := false }] })] }

/-- A launch of which nothing is left, with LSTAT at the data page, that has ended or was drained into the data page. -/
def demoOver (drained : Bool) : State := demoLaunched (patch demoRec 80 (leBytes 8 0x11100)) fun l => { l with
  walkDone := true, phase := if drained then .draining else .walking, area := 0x11200 }

/-- Its launch, and the state that has given it up. -/
def overLaunch (drained : Bool) : Launch := ((demoOver drained).launch 0).getD demoLaunch
def overCursor : State := (writeRun (demoOver true) ((demoOver true).whoQueue 0) 0x11200 8 8
  (leBytes 8 0x11000 ++ leBytes 8 0 ++ (List.range 6).flatMap fun _ => leBytes 8 0)).1

theorem wit_TaskEnds :
    (∃ s1, ((demoCommit 0x11000).core 0).task = some (taskIn .commit) ∧ (demoCommit 0x11000).launch 0 = some heldLaunch ∧
      SlotsFormed heldLaunch ∧ committed (demoCommit 0x11000) 0 (taskIn .commit) heldLaunch = (s1, none) ∧
      s1.launches = (demoCommit 0x11000).launches ∧ (s1.core 0).task.map Task.launch = some 0 ∧ traceOpt s1 0 2 = false) ∧
    (∃ s1 k1 f, SlotsFormed heldLaunch ∧ committed (demoCommit 0x55000) 0 (taskIn .commit) heldLaunch = (s1, some f) ∧
      s1.launches = (demoCommit 0x55000).launches ∧ (s1.core 0).task = some k1 ∧ k1.launch = 0) ∧
    (∃ s2, (demoOver false).launch 0 = some (overLaunch false) ∧ launchQuiet (demoOver false) 0 (overLaunch false) = true ∧
      endCode (overLaunch false) = (1, 0) ∧ Record.lstat (overLaunch false).record = 0x11100 ∧
      writeRun (givenUp (demoOver false) 0) ((demoOver false).whoQueue 0) 0x11100 8 1 (leBytes 8 1) = (s2, none)) ∧
    ∃ s2, launchQuiet (demoOver true) 0 (overLaunch true) = true ∧ endCode (overLaunch true) = (2, 0) ∧
      writeRun (demoOver true) ((demoOver true).whoQueue 0) 0x11200 8 8
        (leBytes 8 0x11000 ++ leBytes 8 0 ++ (List.range 6).flatMap fun _ => leBytes 8 0) = (overCursor, none) ∧
      writeRun (givenUp overCursor 0) ((demoOver true).whoQueue 0) 0x11100 8 1 (leBytes 8 2) = (s2, none) := by
  refine ⟨⟨_, rfl, rfl, held_slots, run_spec (by decide +kernel), by decide +kernel, by decide +kernel, by decide +kernel⟩, ?_,
    ⟨_, rfl, by decide +kernel, by decide +kernel, by decide +kernel, run_spec (by decide +kernel)⟩,
    _, by decide +kernel, by decide +kernel, run_spec (by decide +kernel), run_spec (by decide +kernel)⟩
  have h : (match committed (demoCommit 0x55000) 0 (taskIn .commit) heldLaunch with
      | (s1, some _) => decide (s1.launches = (demoCommit 0x55000).launches) && (match (s1.core 0).task with
        | some k1 => decide (k1.launch = 0)
        | none => false)
      | _ => false) = true := by decide +kernel
  split at h
  · rename_i s1 f e
    simp only [Bool.and_eq_true, decide_eq_true_eq] at h
    obtain ⟨h1, h2⟩ := h
    split at h2
    · rename_i k1 hk
      exact ⟨s1, k1, f, held_slots, e, h1, hk, of_decide_eq_true h2⟩
    · cases h2
  · cases h

/-! ## Cuts and restores: states that meet the hypotheses -/

/-- A hart at a loop-iteration boundary of a task that is being cut. -/
def demoBoundary : State :=
  { demoHeld .cutting id with harts := [(0, { demoHart with seq := { demoHart.seq with pc := 0x10000, arriving := true, boundary := true } })] }

/-- The task being cut, its hart stopped, its core changed by `f`. -/
def demoStopped (f : Core → Core) : State :=
  { demoHeld .cutting id with
    harts := [(0, { demoHart with status := .cut })]
    cores := [(0, f { task := some (taskIn .cutting) })] }

/-- An MTILE of the run order, with NOCUT or without. -/
def orderTile (st : Stage) (begun nocut : Bool) : Command :=
  { demoCmd (.mtile { demoTile with nocut := nocut }) st with begun := begun, pos := 3, vc := 9, quarters := 1, fmt := 0x99AA0000 }

/-- The core with that MTILE in slot 0. -/
def demoOrder (st : Stage) (begun nocut : Bool) : State := demoStopped fun c => { c with
  morder := [0], slots := [(0, some (orderTile st begun nocut))] }

/-- A task that owns no accumulator tile. -/
def smallTask (p : TaskPhase) : Task := { taskIn p with record := 0x11000, partw := 2 }

/-- Memory that maps 0x12000 and 0x13000 too; the header at 0x10000 has VHW 0. -/
def cutMem : Table Byte :=
  (demo.mem.filter fun e => e.1 < 0x6000) ++ [(0x5090, 0xD7), (0x5091, 0x20), (0x5098, 0xD7), (0x5099, 0x24), (0x6004, 0x80),
    (0x6005, 0x0F), (0x6006, 0x10), (0x6007, 0xFC)]

/-- The units with the translations of 0x10000, 0x12000 and 0x13000. -/
def cutUnits : Table XlatUnit :=
  let go (s : State) (a k : Nat) : State := (got (s, noLeaf) (walk s 0 0 0x1000 a k true)).1
  (go (go (go { demo with mem := cutMem } 0x10000 0) 0x12000 2) 0x13000 2).units

/-- It has come to rest, with its image to be written at 0x12000 in an area of `n` bytes. -/
def demoImaging (n : Nat) : State :=
  { demo with
    mem := cutMem
    units := cutUnits
    harts := [(0, { demoHart with status := .cut, partw := 2, seq := { demoHart.seq with pc := 0x10000, arriving := true } })]
    cores := [(0, { task := some (smallTask .imaging) })]
    launches := [(0, some { demoLaunch with record := patch (patch demoRec 52 [2, 0]) 96 (leBytes 8 n), resolved := true,
                                            phase := .suspended, area := 0x12000 })]
    contexts := [(0, { ptroot := 0x1000 })] }

/-- Its launch, its image, and the state with the image written. -/
def imageLaunch (n : Nat) : Launch := ((demoImaging n).launch 0).getD demoLaunch
def demoImage : List Byte := contextImage (demoImaging 0x2000) 0 (smallTask .imaging) false

theorem wit_Cuts_stage :
    ((demoBoundary.hart 0).status = .running ∧ (demoBoundary.hart 0).seq.arriving = true ∧ (demoBoundary.hart 0).window = [] ∧
      (demoBoundary.hart 0).recorded = none ∧ heldAtBoundary demoBoundary 0 = true) ∧
    (∀ c ∈ [demoStopped id, demoOrder .desc false false, demoOrder .kstep true false, demoOrder .kstep true true],
      (c.core 0).task = some (taskIn .cutting) ∧ ∀ j, j < (taskIn .cutting).gang → (c.hart (4 * 0 + j)).status = .cut) ∧
    ((demoStopped id).core 0).morder = [] ∧
    (∀ st ∈ [Stage.desc, .kstep], ∀ begun nocut : Bool, ((demoOrder st begun nocut).core 0).morder = [0] ∧
      ((demoOrder st begun nocut).core 0).slot 0 = some (orderTile st begun nocut) ∧ (orderTile st begun nocut).key = 0 ∧
      mtileArgs (orderTile st begun nocut).instr = some { demoTile with nocut := nocut } ∧ (orderTile st begun nocut).eng = 0) := by
  refine ⟨⟨rfl, rfl, rfl, rfl, by decide +kernel⟩, ?_, rfl, fun _ _ _ _ => ⟨rfl, rfl, rfl, rfl, rfl⟩⟩
  intro c h
  simp only [List.mem_cons, List.not_mem_nil, or_false] at h
  rcases h with rfl | rfl | rfl | rfl <;>
    exact ⟨rfl, fun j hj => by
      have h0 : j = 0 := by change j < 1 at hj; omega
      subst h0
      rfl⟩

/-- The state with the image written. -/
def imageWritten : State × Option AccFault :=
  writeRun (demoImaging 0x2000) ((demoImaging 0x2000).whoQueue 0) 0x12000 8 (demoImage.length / 8) demoImage

theorem image_written : (imageWritten.2.isNone && decide (imageWritten.1.launches = (demoImaging 0x2000).launches) &&
    (demoImage.length ≤ Record.imglen (imageLaunch 0x2000).record) &&
    (Record.imglen (imageLaunch 64).record < (contextImage (demoImaging 64) 0 (smallTask .imaging) false).length)) = true := by
  decide +kernel

/-- The state whose first hart holds a slice of V0 with an uncorrectable word. -/
def poisoned (s : State) : State :=
  { s with harts := [(0, { s.hart 0 with vec := { v := [(0, { poison := 1 })] } })] }

theorem wit_Cuts_image :
    (((demoImaging 0x2000).core 0).task = some (smallTask .imaging) ∧ (demoImaging 0x2000).launch 0 = some (imageLaunch 0x2000) ∧
      cutQuiet (demoImaging 0x2000) 0 = true ∧ lowestCut (demoImaging 0x2000) (smallTask .imaging) = true ∧
      Record.temp (imageLaunch 0x2000).record = false ∧ (imageLaunch 0x2000).used = 0 ∧
      demoImage.length ≤ Record.imglen (imageLaunch 0x2000).record ∧ imageWritten = (imageWritten.1, none) ∧
      imageWritten.1.launches = (demoImaging 0x2000).launches ∧ imageBad (demoImaging 0x2000) 0 (smallTask .imaging) = false) ∧
    imageBad (poisoned (demoImaging 0x2000)) 0 (smallTask .imaging) = true ∧ cutQuiet (poisoned (demoImaging 0x2000)) 0 = true ∧
    lowestCut (poisoned (demoImaging 0x2000)) (smallTask .imaging) = true ∧ (poisoned (demoImaging 0x2000)).launch 0 = some (imageLaunch 0x2000) ∧
    (contextImage (poisoned (demoImaging 0x2000)) 0 (smallTask .imaging) false).length ≤ Record.imglen (imageLaunch 0x2000).record ∧
    cutQuiet (demoImaging 64) 0 = true ∧ lowestCut (demoImaging 64) (smallTask .imaging) = true ∧
      Record.imglen (imageLaunch 64).record < (contextImage (demoImaging 64) 0 (smallTask .imaging) false).length := by
  have h := image_written
  simp only [Bool.and_eq_true, decide_eq_true_eq] at h
  exact ⟨⟨rfl, rfl, by decide +kernel, by decide +kernel, by decide +kernel, rfl, h.1.2, run_spec h.1.1.1, h.1.1.2, by decide +kernel⟩, by decide +kernel, by decide +kernel,
    by decide +kernel, rfl, by decide +kernel, by decide +kernel,
    by decide +kernel, h.2⟩

/-- The cut task, whose image lies at `a`. -/
def cutIter (a : Word) : Iteration := { n := 0, x := [0, 0, 0, 0, 0, 0], image := some a }

/-- Its launch, resumed. -/
def cutLaunch (a : Word) : Launch :=
  { demoLaunch with record := patch demoRec 52 [2, 0], resolved := true, waiting := [cutIter a], slots := List.replicate 12 [] }

theorem cut_slots : SlotsFormed (cutLaunch 0x12000) :=
  ⟨rfl, fun b hb => .inl (by rw [List.eq_of_mem_replicate (show b ∈ List.replicate 12 [] from hb)]; rfl)⟩

/-- An image lies at 0x12000, whose bytes are `bs`, and core 0 is free. -/
def demoRestore (bs : List Byte) (a : Word) : State :=
  { demo with
    mem := cutMem ++ placed 0x8000 bs
    units := cutUnits
    launches := [(0, some (cutLaunch a))]
    contexts := [(0, { ptroot := 0x1000 })] }

/-- The core given to the task. -/
def restored (s : State) (bs : List Byte) : State :=
  readyCore (takeIteration s 0 (cutLaunch 0x12000) (cutIter 0x12000)) 0 (cutLaunch 0x12000) (cutIter 0x12000) 0 (headGrants bs)

/-- The image of a cut task of launch 0 is read and is whole, core 0 fits it, and its inputs can be staged. -/
def restoreOk (s : State) (l : Launch) (it : Iteration) (a : Word) : Bool :=
  match imageHead s l it a with
  | .error _ => false
  | .ok (s1, hd) => match readRun s1 (s1.whoQueue 0) a 8 (leAt hd 4 4 / 8) with
    | .error _ => false
    | .ok (s2, bs) => match ((restored s2 bs).core 0).task with
      | none => false
      | some k => restoreFits s2 0 l it hd 0 && myTurn s2 0 l && lowerStarted s2 0 l 0 &&
          (staged (restored s2 bs) 0 k l).2.isNone && k.gang ≤ 4

theorem restore_spec {s : State} {l : Launch} {it : Iteration} {a : Word} (h : restoreOk s l it a = true) :
    ∃ s1 hd s2 bs k s3, imageHead s l it a = .ok (s1, hd) ∧ readRun s1 (s1.whoQueue 0) a 8 (leAt hd 4 4 / 8) = .ok (s2, bs) ∧
      restoreFits s2 0 l it hd 0 = true ∧ myTurn s2 0 l = true ∧ lowerStarted s2 0 l 0 = true ∧
      ((restored s2 bs).core 0).task = some k ∧ staged (restored s2 bs) 0 k l = (s3, none) ∧ k.gang ≤ 4 := by
  unfold restoreOk at h
  split at h
  · cases h
  · rename_i s1 hd h1
    split at h
    · cases h
    · rename_i s2 bs h2
      split at h
      · cases h
      · rename_i k h3
        simp only [Bool.and_eq_true, decide_eq_true_eq] at h
        exact ⟨s1, hd, s2, bs, k, _, h1, h2, h.1.1.1.1, h.1.1.1.2, h.1.1.2, h3, run_spec h.1.2, h.2⟩

theorem wit_Restores :
    ((demoRestore demoImage 0x12000).launch 0 = some (cutLaunch 0x12000) ∧
      (cutLaunch 0x12000).candidate = some (cutIter 0x12000)) ∧
    (∃ s1 hd s2 bs k s3, imageHead (demoRestore demoImage 0x12000) (cutLaunch 0x12000) (cutIter 0x12000) 0x12000 = .ok (s1, hd) ∧
      readRun s1 (s1.whoQueue 0) 0x12000 8 (leAt hd 4 4 / 8) = .ok (s2, bs) ∧
      restoreFits s2 0 (cutLaunch 0x12000) (cutIter 0x12000) hd 0 = true ∧ myTurn s2 0 (cutLaunch 0x12000) = true ∧
      lowerStarted s2 0 (cutLaunch 0x12000) 0 = true ∧ ((restored s2 bs).core 0).task = some k ∧
      staged (restored s2 bs) 0 k (cutLaunch 0x12000) = (s3, none) ∧ k.gang ≤ 4) :=
  ⟨⟨rfl, by decide +kernel⟩, restore_spec (by decide +kernel)⟩

theorem wit_Restores_lost : (demoRestore [] 0x55000).launch 0 = some (cutLaunch 0x55000) ∧
    (cutLaunch 0x55000).candidate = some (cutIter 0x55000) ∧
    ∃ s1 f, imageHead (demoRestore [] 0x55000) (cutLaunch 0x55000) (cutIter 0x55000) 0x55000 = .error (s1, f) := by
  obtain ⟨e, he⟩ := fails_spec (x := imageHead (demoRestore [] 0x55000) (cutLaunch 0x55000) (cutIter 0x55000) 0x55000)
    (by decide +kernel)
  exact ⟨rfl, by decide +kernel, e.1, e.2, he⟩

/-! ## Power, the host's windows, resets and the stacks: states that meet the hypotheses -/

/-- Core 0 with its island 1 changed. -/
def demoIsland (f : Island → Island) : State := demoEng fun c => { c with islands := [(1, f {})] }

theorem wit_Islands : (afterLimits demo.clock (({} : Core).island 1)).inject = none ∧ (afterLimits demo.clock (({} : Core).island 1)).stretch = none ∧
    ((demoIsland fun x => { x with starved := 15 }).pwrctlOf 0).getLsbD 7 = true ∧
    (((demoIsland fun x => { x with starved := 15 }).core 0).island 1).starved = 15 ∧
    Bounded 5 1 { starved := 15 } ∧ min 16 (({ starved := 15 } : Island).starved + 1) = 16 ∧ ¬Bounded 1030 1 { since := 2, until_ := 1030 } ∧
    ({ sampled := some 5 } : Island).sampled = some 5 ∧ ({ starved := 15 } : Island).sampled ≠ some 5 ∧
    (∀ a, ({ starved := 15 } : Island).pause = some a → a + 1 ≤ 5) ∧
    (afterLimits 4 { inject := some 0 }).inject = none ∧ (afterLimits 3 { inject := some 0 }).inject = some 0 :=
  ⟨by decide +kernel, by decide +kernel, by decide +kernel, by decide +kernel, by unfold Bounded; decide, rfl, by unfold Bounded; decide, rfl, nofun, nofun,
    by decide +kernel, by decide +kernel⟩

theorem wit_PowerControls : Table.get 0 demo.capTimes 0 ≠ demo.clock + 1 ∧ postOf 5 = 0 ∧ postOf 64 ≠ 0 ∧ (((0x000040401E848000 : Word).extractLsb' 32 8).toNat ≤ 64) ∧
    64 < ((0x0000410000000000 : Word).extractLsb' 40 8).toNat ∧ (demo.heatctl.extractLsb' 8 24).toNat ≠ 0 ∧
    demo.rotStart + (demo.heatctl.extractLsb' 8 24).toNat ≤ ({ demo with clock := 2 ^ 25 } : State).clock := by decide +kernel

/-- Context 0 with a quota of 10, of which 8 are used; its launch walks. -/
def demoQuota (stopped : Bool) : State := { demoRun false id with
  contexts := [(0, { ptroot := 0x1000, equota := 10, ecount := if stopped then 25 else 8, stopped := stopped })] }

/-- The same with the launch suspended by the quota. -/
def demoStarved : State := { demoQuota true with launches := [(0, some { demoLaunch with phase := .suspended, energy := true })] }

/-- A hart that has retired nothing for long. -/
def demoHung : State := { demoRun false id with clock := 2 ^ 40 }

theorem wit_EnergyAndHangs :
    ((demoQuota false).context 0).stopped = false ∧ ((demoQuota false).context 0).equota ≠ 0 ∧
      (((demoQuota false).context 0).ecount + 1).toNat < ((demoQuota false).context 0).equota.toNat ∧
      ((demoQuota false).context 0).equota.toNat ≤ (((demoQuota false).context 0).ecount + 2).toNat ∧
      Preemptible demoLaunch ∧
      ((demoStarved).context 0).stopped = true ∧
      (5 : Word).toNat ≤ (demoStarved.context 0).ecount.toNat - (demoStarved.context 0).equota.toNat ∧
      (demoStarved.context 0).ecount.toNat - (demoStarved.context 0).equota.toNat < (20 : Word).toNat ∧
      hung demoHung 0 0 = true ∧ demoHung.debugLevel = 0 :=
  ⟨rfl, by decide, by decide, by decide, ⟨nofun, nofun, nofun⟩, rfl, by decide, by decide, by decide +kernel, rfl⟩

theorem wit_PowerStates : demo.pstate < 4 ∧ ({ demo with pstate := 4 } : State).pstate = 4 ∧
    (∀ k ∈ [1, 2, 3, 4], ({ demo with pstateReq := some k } : State).pstateReq = some k ∧ demo.pstate < 4) ∧
    demo.atRest = true ∧ demo.pstate < 2 ∧ ({ demo with pstate := 1, pstateReq := some 0 } : State).pstateReq = some 0 := by
  decide +kernel

theorem wit_HostWindows : ¬(demo.rstBusy = true ∧ demo.rstPending.map Prod.fst = some 4) ∧ ((demoQueue 0).queue 4095).en = true ∧
    (0x8000000000000004 : Word).getLsbD 63 = true ∧ sealedRange demo 0x7000 8 = false ∧
    sealedRange { demo with sealed := [(7, true)] } 0x7000 8 = true ∧ 0x7000 + 8 ≤ demo.liveCap ∧
    demo.markCode 0x7000 = false ∧ 0x7000 + 8 ≤ 2 ^ demo.bar4 ∧ 2 ^ demo.bar4 < 2 ^ demo.bar4 + 8 ∧ demo.poisoned 0x7000 8 = false ∧ demo.heldUp 0x7000 8 = false ∧ demo.liveCap < demo.liveCap + 8 ∧
    demo.frhead = demo.frtail ∧ demo.erhead = demo.ertail := by decide +kernel

/-- A launch of a sealed context under way, with a stamp and a LEASEX. -/
def demoSealed : State := { demoMark with sealed := [(7, true)] }

theorem wit_Resets_task : ∃ k l, (demoRun false id).rstBusy = false ∧ ((demoRun false id).core 0).task = some k ∧
    (demoRun false id).launch k.launch = some l ∧ k.phase ≠ .commit ∧ k.canAbort = false :=
  ⟨_, _, rfl, rfl, rfl, nofun, rfl⟩

theorem wit_Resets_launch : ∃ s1, (demoOver false).rstBusy = false ∧ (demoOver false).launch 0 = some (overLaunch false) ∧
    ((demoOver false).inFlight.filter fun e => e.2.asid = 0) = [(0, overLaunch false)] ∧ (demoOver false).coresOf 0 = [] ∧
    (demoOver false).sealedCtx 0 = false ∧ (∀ q, ((demoOver false).queue q).trace = none) ∧
    Record.lstat (overLaunch false).record ≠ 0 ∧
    writeRun (givenUp (demoOver false) 0) ((demoOver false).whoQueue (overLaunch false).asid) (Record.lstat (overLaunch false).record) 8 1
      (leBytes 8 (2 ^ 16 * ((overLaunch false).ntask % 2 ^ 32) + 7)) = (s1, none) :=
  ⟨_, rfl, rfl, by decide +kernel, by decide +kernel, rfl, fun _ => rfl, by decide +kernel, run_spec (by decide +kernel)⟩

theorem wit_Resets : ({ demo with rstBusy := true } : State).rstBusy = true ∧ demo.rstBusy = false ∧ postOf 5 = 0 ∧
    demoSealed.sealedCtx 0 = true ∧ demoSealed.launch 0 = some { demoLaunch with attested := true } ∧
    (∀ k ∈ [1, 2, 3, 4], ({ demo with rstBusy := true, rstPending := some (k, 0) } : State).rstPending = some (k, 0)) ∧
    demo.firmwareOk = true := by decide +kernel

/-- A transfer with the groups that mismatched, and its burst. -/
def demoTransfer (gs : List Nat) : BusTransfer :=
  { paddr := 0x7000, stack := 1, ch := 2, pch := 0, write := false, groups := gs, beats := 1, corr := 7 }
def demoBurst (tries : Nat) (walk : Option (List Nat)) : Burst :=
  { paddr := 0x7000, stack := 1, ch := 2, pch := 0, write := false, corr := 7, tries := tries, beats := 1, group := 1, reflo := 0,
    walk := walk }

/-- The module with that burst in progress. -/
def demoBus (tries : Nat) (walk : Option (List Nat)) (m : BitVec 16) : State :=
  { demo with bursts := [demoBurst tries walk], laneMaps := [(34, m)] }

theorem wit_StackErrors :
    0x7000 < demo.liveCap ∧ demo.bursts.find? (fun b => b.same (demoTransfer [1])) = none ∧
    (∀ n ∈ [1, 2, 3], (demoBus n none 0x7F7F).bursts.find? (fun b => b.same (demoTransfer [1])) = some (demoBurst n none) ∧
      (demoBurst n none).walk = none ∧ (demoBurst n none).tries = n) ∧
    (∀ m, (demoBus 3 (some [1]) m).bursts = [demoBurst 3 (some [1])] ∧ Table.get 0x7F7F (demoBus 3 (some [1]) m).laneMaps (32 * 1 + 2) = m) ∧
    ([demoBurst 3 (some [1])].find? fun b => b.stack = 1 && b.ch = 2 && b.walk.isSome) = some (demoBurst 3 (some [1])) ∧
    (demoBurst 3 (some [1])).walk = some [1] ∧ ([17, 3].filter fun l => l < 64 && [1].contains (l / 16)).eraseDups = [17] ∧
    (0x7F7F : BitVec 16).extractLsb' 0 7 = 0x7F ∧ (0x7F05 : BitVec 16).extractLsb' 0 7 ≠ 0x7F ∧
    (0x7F05 : BitVec 16).extractLsb' 8 7 = 0x7F ∧ (0x0605 : BitVec 16).extractLsb' 8 7 ≠ 0x7F :=
  ⟨by decide +kernel, by decide +kernel, by decide +kernel, fun _ => ⟨rfl, rfl⟩, by decide +kernel, rfl, by decide +kernel, by decide +kernel,
    by decide +kernel, by decide +kernel, by decide +kernel⟩

/-- A remapping step of bank 9. -/
def demoRemap (back thermal : Bool) : State :=
  { demo with remap := some (9, back, thermal, 0), clock := 2 ^ 20, therm := if back then [(9, true)] else [] }

/-- The same with a held range that pins a page at the top of the capacity. -/
def demoPinned : State := (demoRemap false true).setUnit 0 { leaves := [
  { asid := 0, page := 0x11000, lvl := 0, entry := 0x5088, pte := BitVec.ofNat 64 ((demo.liveCap / 4096 - 1) * 1024) ||| 0xD7, pins := [0] }] }

theorem wit_Remapping :
    demo.remap = none ∧ demo.sillStopped = false ∧ Table.get false demo.dead 9 = false ∧ Table.get false (demoRemap true true).therm 9 = true ∧
    (∀ back thermal, (demoRemap back thermal).remap = some (9, back, thermal, 0)) ∧
    pinnedAbove (demoRemap false true) ((demoRemap false true).liveCap - Config.bankBytes) = false ∧
    demoPinned.remap = some (9, false, true, 0) ∧ pinnedAbove demoPinned (demoPinned.liveCap - Config.bankBytes) = true ∧
    0 + 2 ^ 20 ≤ demoPinned.clock := by decide +kernel

/-- A checkpoint asked for. -/
def demoCkpt (restore : Bool) (v : Word) : State := { demo with ckpt := some (restore, v) }

/-- The same with a saved header in host memory that tells a capacity. -/
def demoSaved (cap : Nat) : State := { demoCkpt true 0x8000 with hostMem := Memory.store [] (0x80000 + 8) 8 cap }

theorem wit_Checkpoints : demo.ckpt = none ∧ (demoCkpt false 0x8000).ckpt = some (false, 0x8000) ∧ demo.pstate = 0 ∧
    (demoCkpt false 0x8000).sillStopped = false ∧ (demoCkpt false 0x8000).busClear = true ∧ (demoSaved 4096).sillStopped = false ∧
    (demoSaved 4096).busClear = true ∧ (∀ e ∈ demo.cores, e.2.task = none) ∧ (0x8000 : Word).getLsbD 63 = false ∧
    (demoSaved (2 ^ 60)).liveCap < Memory.load (demoSaved (2 ^ 60)).hostMem ((0x8000 : Word).toNat / 256 * 4096 + 8) 8 ∧
    Memory.load (demoSaved 4096).hostMem ((0x8000 : Word).toNat / 256 * 4096 + 8) 8 ≤ (demoSaved 4096).liveCap ∧
    (0x8000000000000000 : Word).getLsbD 63 = true ∧ ∀ w, w < 16 → (0x8000000000000000 : Word).getLsbD (8 + w) = false := by
  decide +kernel

/-- A peer's request, and the state with the context that it names. -/
def demoAsk (kind : Nat) (a : Word) : PeerReq :=
  { asid := 0, addr := a, bytes := 4, kind := kind, op := .add, data := 1, data2 := 0, handler := false }
def demoPeer : State := { demo with contexts := [(0, { ptroot := 0x1000 })] }

theorem wit_Peers :
    inPool 0x11000 = false ∧ inPool (BitVec.ofNat 64 Config.pwBase) = true ∧
    (∀ k ∈ [1, 2, 3, 4, 5], demoPeer.recalled (whoPeer demoPeer (demoAsk k 0x11000)) (min k 3) 0x11000 4 = false ∧
      ∃ s1 p, checkAccess demoPeer (whoPeer demoPeer (demoAsk k 0x11000)) (min k 3) 0x11000 4 (peerOp (demoAsk k 0x11000)) = .ok (s1, p) ∧
        p.isMemory = true) ∧
    ∃ f, checkAccess demoPeer (whoPeer demoPeer (demoAsk 1 0x55000)) 1 0x55000 4 none = .error f := by
  refine ⟨by decide +kernel, by decide +kernel, ?_, { cause := .page, kind := 1, val := 0x55000 }, err_spec (by decide +kernel)⟩
  intro k h
  simp only [List.mem_cons, List.not_mem_nil, or_false] at h
  rcases h with rfl | rfl | rfl | rfl | rfl <;>
    exact ⟨by decide +kernel, _, _, two_spec (d := (demo, .dev 0)) (by decide +kernel), by decide +kernel⟩

/-- A policy. -/
def demoPolicy : SealPolicy := { asid := 0, mcode := 0, mlen := 0, mmeas := [], model := [], reservedSet := false }

/-- Queue 0 samples at every fourth period. -/
def demoSeries : State := { demo with
  debugLevel := 1, refcnt := 32
  queues := [(0, { trace := some { base := 0x11000, log := 8, opt := 0, sk := 4, slog := 0, sbase := 0x11000, stseq := 0, sthart := 0,
                                   stwc := 0, corr := 0 } })] }

theorem wit_TrustAndDebug : (List.replicate 32 (0 : Byte)).length = 32 ∧
    (demoPolicy.reservedSet = false ∧ demo.sillStopped = false ∧ demo.sealedCtx demoPolicy.asid = false ∧ demo.debugLevel ≠ 3 ∧
      ∀ e ∈ demo.inFlight, e.2.asid ≠ demoPolicy.asid) ∧
    demoSealed.sealedCtx demoPolicy.asid = true ∧ (0 < (demoSession 8).debugLevel) ∧
    (∀ q, sampleDue demo q = false) ∧ ((demoSeries.queues.map Prod.fst).filter (sampleDue demoSeries) = [0]) :=
  ⟨rfl, ⟨rfl, by decide +kernel, by decide +kernel, by decide, by decide +kernel⟩, by decide +kernel, by decide, fun _ => rfl, by decide +kernel⟩

/-! ## A step -/

/-- The hart's turn, an event's turn and time's turn. -/
def demoTurn (t : Turn) : State := { demo with turns := [t] }

/-- The module at work on the word `w`. -/
def turnWord (w : Word) : State := { demoTurn (.hart 0 0) with mem := demoMem w }

theorem next_of {x : Host.Outcome State Fault Refusal} (h : (match x with | .next _ => true | _ => false) = true) :
    ∃ t, x = .next t := by
  cases x with
  | next t => exact ⟨t, rfl⟩
  | fault f => cases h
  | refused r => cases h

theorem wit_StepRunsWord_words :
    (demoTurn (.hart 0 0)).turns = .hart 0 0 :: [] ∧ Dispatches (demoTurn (.hart 0 0)) 0 ∧ (demoTurn (.hart 0 0)).busClear = true ∧
    (∃ s1 w i u, fetchAt { begun (demoTurn (.hart 0 0)) [] with focus := 0 } 0 ((demoTurn (.hart 0 0)).hart 0).seq.pc = .ok (s1, w) ∧
      decode w = .ok i ∧ i.endsBlock = false ∧ exec i s1 = .next u) ∧
    (∃ s1 w e, fetchAt { begun (turnWord 0xF8) [] with focus := 0 } 0 ((turnWord 0xF8).hart 0).seq.pc = .ok (s1, w) ∧
      decode w = .error e ∧ HasHandler s1 ∧ ((turnWord 0xF8).hart 0).window = []) ∧
    (∀ j, ((turnWord 0xF8).queue j).trace = none) ∧ (turnWord 0xF8).held = [] := by
  have h (x : State) (h : (!x.cur.handler && tvecOk x x.focus) = true) : HasHandler x := handler_of h
  have hd : decode ((got (demo, 0) (fetchAt { begun (demoTurn (.hart 0 0)) [] with focus := 0 } 0
      ((demoTurn (.hart 0 0)).hart 0).seq.pc)).2) = .ok (got .nop (decode 0x4060001100000000)) := by
    rw [show (got (demo, 0) (fetchAt { begun (demoTurn (.hart 0 0)) [] with focus := 0 } 0
      ((demoTurn (.hart 0 0)).hart 0).seq.pc)).2 = 0x4060001100000000 by decide +kernel]
    exact got_spec (by decide +kernel)
  obtain ⟨e, he⟩ := fails_spec (x := decode ((got (demo, 0) (fetchAt { begun (turnWord 0xF8) [] with focus := 0 } 0
      ((turnWord 0xF8).hart 0).seq.pc)).2)) (by decide +kernel)
  exact ⟨rfl, ⟨rfl, rfl, rfl, by decide +kernel, by decide +kernel, by decide +kernel, by decide +kernel, rfl⟩, rfl,
    ⟨_, _, _, _, two_spec (d := (demo, 0)) (by decide +kernel), hd, by decide +kernel, (next_of (by decide +kernel)).choose_spec⟩,
    ⟨_, _, e, two_spec (d := (demo, 0)) (by decide +kernel), he, h _ (by decide +kernel), rfl⟩, fun _ => rfl, rfl⟩

theorem wit_StepRunsWord :
    (∃ s1 w, fetchAt demo 0 0x10008 = .ok (s1, w) ∧ demo.blocking = none) ∧
    (demoTurn (.event .colourRotation)).turns = .event .colourRotation :: [] ∧ Instr.hasWord .colourRotation = false ∧
    powered (begun (demoTurn (.event .colourRotation)) []) .colourRotation = true ∧
    (demoTurn (.event .colourRotation)).busClear = true ∧
    (∃ t, exec .colourRotation (begun (demoTurn (.event .colourRotation)) []) = .next t) ∧ (demoTurn (.time 3)).turns = .time 3 :: [] ∧
    (∀ q, sampleDue (begun (demoTurn (.time 3)) []) q = false) ∧ ∀ j, ((demoTurn (.time 3)).queue j).trace = none :=
  ⟨⟨_, _, two_spec (d := (demo, 0)) (by decide +kernel), rfl⟩, rfl, rfl, by decide +kernel, rfl, next_of (by decide +kernel), rfl,
    fun _ => rfl, fun _ => rfl⟩

theorem wit_MemoryOkKept : State.MemoryOk (demoTurn (.hart 0 0)) ∧ ∃ t, step (demoTurn (.hart 0 0)) = .next t :=
  ⟨⟨by decide +kernel, rfl, rfl⟩, next_of (by decide +kernel)⟩

theorem wit_DirectStores : ∃ x s1, Ready (demoTask true) [1, 2] ∧
    (demoTask true).recalled (demoTask true).who 2 ((demoTask true).getS 2 + (3 : BitVec 32).signExtend 64) 8 = false ∧
    inPool ((demoTask true).getS 2 + (3 : BitVec 32).signExtend 64) = false ∧
    inPool ((demoTask true).getS 2 + (3 : BitVec 32).signExtend 64 + BitVec.ofNat 64 (8 - 1)) = false ∧
    (demoTask true).curCore.task = some x ∧ x.buffered = true ∧ x.phase ≠ .commit ∧
    scalarStore (demoTask true) ((demoTask true).who.on 0) ((demoTask true).getS 2 + (3 : BitVec 32).signExtend 64) 8
      (((demoTask true).getS 1).toNat % 2 ^ (8 * 8)) = (s1, none) :=
  ⟨_, _, task_ready _, by decide +kernel, by decide +kernel, by decide +kernel, rfl, rfl, by decide, run_spec (by decide +kernel)⟩

theorem wit_Encoding : Instr.wf (.vamoP .add ⟨.row, false, 8⟩ ⟨.row, false, 2⟩ ⟨1, 2, 9, 0⟩ true) = true ∧
    Instr.hasWord (.vamoP .add ⟨.row, false, 8⟩ ⟨.row, false, 2⟩ ⟨1, 2, 9, 0⟩ true) = true ∧ ∃ i, decode 0x0C04A40000000001 = .ok i :=
  ⟨rfl, rfl, _, got_spec (d := .nop) (by decide +kernel)⟩

/-! ## Where the events complete: a state for each clause -/

theorem wit_EngineEventsComplete :
    (∃ s1 bs, AtWork (demoWork 1 { demoCmd (.cpy 1 ⟨1, 0, false⟩) .desc with va := 0x11180 } id) 0 1 0
        { demoCmd (.cpy 1 ⟨1, 0, false⟩) .desc with va := 0x11180 } .desc ∧
      isIndexed (.cpy 1 ⟨1, 0, false⟩) = false ∧
      readBytes (demoWork 1 { demoCmd (.cpy 1 ⟨1, 0, false⟩) .desc with va := 0x11180 } id)
        ((demoWork 1 { demoCmd (.cpy 1 ⟨1, 0, false⟩) .desc with va := 0x11180 } id).whoCmd 0
          { demoCmd (.cpy 1 ⟨1, 0, false⟩) .desc with va := 0x11180 }) 0x11180 64 = .ok (s1, bs) ∧
      copyDescOk (.cpy 1 ⟨1, 0, false⟩) bs = true) ∧
    (∃ s1 b, AtWork (demoWork 2 (rowCmd (.twld 1 ⟨1, 0, false⟩) 1) id) 0 2 0 (rowCmd (.twld 1 ⟨1, 0, false⟩) 1) .run ∧
      readBytes (demoWork 2 (rowCmd (.twld 1 ⟨1, 0, false⟩) 1) id)
        ((demoWork 2 (rowCmd (.twld 1 ⟨1, 0, false⟩) 1) id).whoCmd 0 (rowCmd (.twld 1 ⟨1, 0, false⟩) 1))
        (0x11400 + BitVec.ofNat 64 1) 1 = .ok (s1, [b])) ∧
    AtWork (demoWork 2 (demoCmd (.tlaunch ⟨1, 0, false⟩) .wave) id) 0 2 0 (demoCmd (.tlaunch ⟨1, 0, false⟩) .wave) .wave ∧
    (AtWork (demoWork 1 (demoCmd (.cpy 1 ⟨1, 0, false⟩) .done) id) 0 1 0 (demoCmd (.cpy 1 ⟨1, 0, false⟩) .done) .done ∧
      (demoCmd (.cpy 1 ⟨1, 0, false⟩) .done).err = none ∧
      Untermed ((demoWork 1 (demoCmd (.cpy 1 ⟨1, 0, false⟩) .done) id).core 0) 1 ∧
      Untraced (demoWork 1 (demoCmd (.cpy 1 ⟨1, 0, false⟩) .done) id) 0 1) := by
  refine ⟨⟨_, _, at_work rfl rfl rfl rfl (by decide +kernel), rfl, two_spec (d := (demo, [])) (by decide +kernel),
      by decide +kernel⟩, ?_, at_work rfl rfl rfl rfl (by decide +kernel), at_work rfl rfl rfl rfl (by decide +kernel), rfl,
    untermed_empty rfl 1, untraced_of rfl⟩
  have h : (match readBytes (demoWork 2 (rowCmd (.twld 1 ⟨1, 0, false⟩) 1) id)
        ((demoWork 2 (rowCmd (.twld 1 ⟨1, 0, false⟩) 1) id).whoCmd 0 (rowCmd (.twld 1 ⟨1, 0, false⟩) 1))
        (0x11400 + BitVec.ofNat 64 1) 1 with | .ok (_, [_]) => true | _ => false) = true := by decide +kernel
  split at h
  · rename_i s1 b e
    exact ⟨s1, b, at_work rfl rfl rfl rfl (by decide +kernel), e⟩
  · cases h

/-- A LEASEX whose page the host has made resident. -/
def demoAnswered : State :=
  { demoLeasex 0x11000 0 with leasexs := (demoLeasex 0x11000 0).leasexs.map fun r => { r with answer := some true } }

theorem wit_LaunchEventsComplete :
    (∃ l, (demoLease demoRec 0 false).launch 0 = some l ∧ l.resolved = false ∧ l.phase = .leases ∧ Record.nlease l.record ≤ l.pend) ∧
    (∃ r l s1, demoAnswered.leasexs = [r] ∧ r.answer = some true ∧ demoAnswered.launch r.launch = some l ∧
      (l.held.filter Range.extra).length < 16 ∧ Untermed (demoAnswered.core r.core) r.bar ∧ Untraced demoAnswered r.core 1 ∧
      s1.launches = demoAnswered.launches ∧
      resolveRange 0 0 0 0x1000 0x11000 false 2 7 1 { demoAnswered with leasexs := [] } 0 (some true) = .done s1) ∧
    (∃ r, (demoStamp 0x11000).stamps = [r] ∧ r.region.toNat % 4096 = 0 ∧ r.len = 4096 ∧ r.manifest.toNat % 64 = 0 ∧
      whoStamp r = stampWho) ∧
    (∃ s1 l, (demoLaunched demoRec fun l => { l with walk := some [(3, 3)] }).launch 0 = some l ∧ l.walkDone = false ∧
      l.failure = none ∧ l.phase = .walking ∧ l.cursor = none ∧
      nextPlace (demoLaunched demoRec fun l => { l with walk := some [(3, 3)] }) l.asid l.record l.walk = .ok (s1, none)) ∧
    (1 ≤ (taskIn .ready).gang ∧ (taskIn .ready).gang ≤ 4) ∧
    (∃ l, (demoOver false).launch 0 = some l ∧ launchQuiet (demoOver false) 0 l = true) := by
  refine ⟨⟨_, rfl, rfl, rfl, by decide +kernel⟩, ?_, ⟨_, rfl, by decide, rfl, by decide, rfl⟩, ?_, ⟨by decide, by decide⟩,
    _, rfl, by decide +kernel⟩
  · have h : ∀ r : Ranged, (match r with | .done s => decide (s.launches = demoAnswered.launches) | _ => false) = true →
        ∃ s1, r = .done s1 ∧ s1.launches = demoAnswered.launches := by
      intro r h
      cases r with
      | done s => exact ⟨s, rfl, of_decide_eq_true h⟩
      | fail s p c => cases h
      | wait s k => cases h
    obtain ⟨s1, h1, h2⟩ := h (resolveRange 0 0 0 0x1000 0x11000 false 2 7 1 { demoAnswered with leasexs := [] } 0 (some true))
      (by decide +kernel)
    exact ⟨_, _, s1, rfl, rfl, rfl, by decide, untermed_empty rfl 1, untraced_of rfl, h2, h1⟩
  · have h : ∃ x, nextPlace (demoLaunched demoRec fun l => { l with walk := some [(3, 3)] }) 0 demoRec (some [(3, 3)]) = .ok x ∧
        x.2.isNone = true := gives_spec (by decide +kernel)
    obtain ⟨x, hx, hn⟩ := h
    refine ⟨x.1, _, rfl, rfl, rfl, rfl, rfl, ?_⟩
    rw [← Option.isNone_iff_eq_none.mp hn]
    exact hx

/-- A SIGNAL that waits for no launch, its word at the data. -/
def demoOneSignal : State := demoPkt [] fun q => { q with signals := [(0x11000, 1, 7, [])] }

/-- The word at the data has reached a threshold. -/
def reached (s : State) (x : Word) : Bool :=
  match loadAt s (s.whoQueue (s.queue 0).asid) 0x11000 8 with
  | .ok (_, v) => x.toNat ≤ v
  | .error _ => false

theorem reached_spec {s : State} {x : Word} (h : reached s x = true) :
    ∃ s1 v, loadAt s (s.whoQueue (s.queue 0).asid) 0x11000 8 = .ok (s1, v) ∧ x.toNat ≤ v := by
  unfold reached at h
  split at h
  · rename_i s1 v e
    exact ⟨s1, v, e, of_decide_eq_true h⟩
  · cases h

/-- The record at `a` and its slots can be read, which changes no launch. -/
def startsLaunch (s : State) (a : Word) : Bool :=
  reads s a true && (let x := recordRead s a
    match readSlots { x.1 with nextLaunch := x.1.nextLaunch + 1 } (x.1.queue 0).asid x.2 12 with
    | .ok (s3, _) => decide (s3.launches = s.launches)
    | .error _ => false)

theorem wit_PacketEventsComplete :
    (∃ s1 p, Taken (demoLaunchPkt 0 0x11400) s1 0 p ∧
      (p.opc = 1 && p.pflags / 2 % 2 = 0 && p.addr.toNat % 64 = 0 && p.addr = 0x11400 && startsLaunch s1 0x11400) = true) ∧
    (∃ s1 p, Taken demoWaitmem s1 0 p ∧ (p.opc = 2 && p.addr = 0x11000 && reached s1 p.val) = true) ∧
    (∃ s1 v, loadAt demoBlocked (demoBlocked.whoQueue (demoBlocked.queue 0).asid) 0x11000 8 = .ok (s1, v) ∧ (1 : Word).toNat ≤ v) ∧
    ((demoOneSignal.queue 0).signals = [(0x11000, 1, 7, [])] ∧
      ∃ s1 pl, checkAccess (demoOneSignal.setQueue 0 { demoOneSignal.queue 0 with signals := [] })
        ((demoOneSignal.setQueue 0 { demoOneSignal.queue 0 with signals := [] }).whoQueue (demoOneSignal.queue 0).asid) 3 0x11000 8
        (some .add) = .ok (s1, pl) ∧ pl.isMemory = true) ∧
    (walkingLaunch .suspended 0).phase = .suspended ∧ (walkingLaunch .suspended 0).resolved = true ∧
      Record.ppol (walkingLaunch .walking 0).record = 0 ∧ Preemptible (walkingLaunch .walking 0) :=
  ⟨taken_of (by decide +kernel), taken_of (by decide +kernel), reached_spec (by decide +kernel),
    ⟨rfl, _, _, two_spec (d := (demo, .dev 0)) (by decide +kernel), by decide +kernel⟩, rfl, rfl, by decide +kernel, nofun, nofun, nofun⟩

/-! ## Ill-formed terms, which the checks refuse -/

/-- One ill-formed term for each check of Instr.wf. -/
def illFormed : List Instr :=
  let v : VOp := ⟨.row, false, 1⟩
  let bad : VOp := ⟨.row, true, 1⟩
  let m : VMemArgs := ⟨0, 2, 2, 0⟩
  [.shli 1 1 64, .shri 1 1 64, .srai 1 1 64, .fcmp 6 1 2 3, .ldU 0 3 1 2 0, .ldc 0 3 true 1 2 0, .amo 0 .cas 3 1 2 3,
   .amo 0 .add 1 1 2 3, .amoP 0 .cas 3 1 2, .amoCas 0 1 1 2 3 4, .bc 10 1 2 0, .brkloopCond 10 1 2 0, .bcv 3 0 0, .csrr 1 0x025,
   .csrw 1 0x001 2, .csrs 1 0x030 2, .csrc 1 0x040 2, .fence 6 0, .fence 0 3, .sbar 0, .vadd bad v v 0 0, .vfma bad v v v 0 0,
   .vabs bad v 0 0, .vcmp 12 1 v v 0 0, .vmovSysreg v 0x025 0, .vextrI 1 v 0x1000 0, .vinsI v 1 0x1000, .vslideupI v v 0x1000 0,
   .vfeEmpty bad 0 0, .vld bad m false, .vpref ⟨1, 2, 2, 0⟩ false, .vamo .cas v v m true, .vamo .add v v ⟨0, 1, 2, 0⟩ true,
   .vamoCas v v ⟨0, 1, 2, 0⟩ true, .vfill bad 0 2 0, .vestq 1 6]

theorem test_ill_formed : ∀ i ∈ illFormed, i.wf = false := by decide +kernel

theorem test_ill_formed_words : ∀ i ∈ illFormed, dec (encode i) ≠ some i := by decide +kernel

/-- Words with a reserved bit set, or a field outside its values, decode to nothing: a NOP, a SHLI by 64, a CSRR of an unassigned
register and an unassigned MAJ. -/
theorem test_bad_words : dec (encode .nop ||| 1) = none ∧ dec (encode (.shli 1 1 63) + 1) = none ∧
    dec (encode (.csrr 1 0x025)) = none ∧ dec 0xF800000000000000 = none := by decide +kernel

/-! ## Single steps, with results worked out from the rules -/

/-- What an instruction makes of a state. -/
def after (i : Instr) (s : State) : State :=
  match exec i s with
  | .next t => t
  | _ => s

/-- R96: sums wrap; S3 is -1 and S1 is 5. -/
theorem test_add_wraps : (after (.add 9 3 1) demo).getS 9 = 4 := by decide +kernel

/-- R94: a write to S0 is discarded. -/
theorem test_zero_register : (after (.addi 0 1 1) demo).getS 0 = 0 ∧ (after (.addi 0 1 1) demo).cur.seq.pc = 0x10010 := by
  decide +kernel

/-- A source that is the destination too. -/
theorem test_self : (after (.mul 1 1 1) demo).getS 1 = 25 := by decide +kernel

/-- R96: the high half of -1 times -1, unsigned and signed. -/
theorem test_mulh : (after (.mulhu 9 3 3) demo).getS 9 = 0xFFFFFFFFFFFFFFFE ∧ (after (.mulh 9 3 3) demo).getS 9 = 0 := by
  decide +kernel

/-- R101: a load of two bytes extends its sign; the bytes are 77 88 from 0x11006. -/
theorem test_load_sign : (after (.ld 0 1 9 2 6) demo).getS 9 = 0xFFFFFFFFFFFF8877 ∧ (after (.ldU 0 1 9 2 6) demo).getS 9 = 0x8877 := by
  decide +kernel

/-- R101: a load across a word gives the same bytes. -/
theorem test_load_misaligned : (after (.ld 0 2 9 2 1) demo).getS 9 = 0x55443322 := by decide +kernel

/-- A store of four bytes: those alone change. -/
theorem test_store : Memory.load (after (.st 0 2 1 2 2) demo).mem 0x7000 8 = 0x8877000000052211 := by decide +kernel

/-- An atomic add gives the old value. -/
theorem test_amo : (after (.amo 0 .add 3 9 2 1) demo).getS 9 = 0x8877665544332211 ∧
    Memory.load (after (.amo 0 .add 3 9 2 1) demo).mem 0x7000 8 = 0x8877665544332216 := by decide +kernel

/-- FP32 1.5 times 1.5 is 2.25. -/
theorem test_fmul : (after (.fmul 9 4 4) demo).getS 9 = 0x40100000 := by decide +kernel

/-- R118: a call puts the address behind its block into the return store and goes to its target. -/
theorem test_call : (after (.call 0xFFFFFFFF) demo).cur.seq.pc = 0x10000 ∧ (after (.call 0xFFFFFFFF) demo).cur.seq.rets = [0x10028] := by
  decide +kernel

/-- R132: an access to a page that is not mapped traps with TCAUSE PAGE and the kind, TVAL, TEPC and TBLK. -/
theorem test_page_fault : let t := after (.ld 0 3 9 2 0x7000) demo
    t.cur.tval = 0x18000 ∧ t.cur.tepc = 0x10008 ∧ t.cur.tblk = 0x10000 ∧ t.cur.handler = true ∧ t.cur.seq.pc = 0x10000 := by
  decide +kernel

/-- RETT at task level traps PRIV, and its effect is nothing else. -/
theorem test_rett_user : (after .rett demo).cur.handler = true ∧ (after .rett demo).cur.tepc = 0x10008 := by decide +kernel

/-- R130: a MARK is only counted. -/
theorem test_mark : (after (.mark 1 3) demo).cur.wcount = 1 ∧ (after (.mark 1 3) demo).cur.seq.pc = 0x10010 := by decide +kernel

/-- A step counts itself and runs the word at the program counter, which a header's word in the block is not. -/
theorem test_step : (match step (demoTurn (.hart 0 0)) with | .next t => t.freeCount | _ => 0) = 1 := by decide +kernel

end Sys2Proof.Tests
end

namespace Sys2Proof.Machine

variable {s t u : State}

/-! ## What a window that goes down leaves (R393)

A window that loses its peer stops the copies that run through it; a rerunnable task that holds one aborts. -/

/-- The states differ in what the end of a task or of a command may change alone: harts and cores, the launches and what is on its
way for them, the lines that commands hold, the requests of the slew limiter, and the warnings. -/
def TaskOnly (s t : State) : Prop :=
  { t with harts := s.harts, cores := s.cores, launches := s.launches, leasexs := s.leasexs, arrivals := s.arrivals,
           held := s.held, starts := s.starts, stops := s.stops, warnings := s.warnings } = s

theorem TaskOnly.trans (h : TaskOnly s t) (g : TaskOnly t u) : TaskOnly s u := by
  unfold TaskOnly at *
  rw [← h, ← g]

theorem TaskOnly.mem (h : TaskOnly s t) : t.mem = s.mem := by
  unfold TaskOnly at h
  rw [← h]

theorem TaskOnly.ports (h : TaskOnly s t) : t.ports = s.ports := by
  unfold TaskOnly at h
  rw [← h]

theorem TaskOnly.pwin (h : TaskOnly s t) : t.pwin = s.pwin := by
  unfold TaskOnly at h
  rw [← h]

theorem taskOnly_foldl {α : Type} {f : State → α → State} (h : ∀ u a, TaskOnly u (f u a)) :
    ∀ (l : List α) (s : State), TaskOnly s (l.foldl f s)
  | [], _ => rfl
  | a :: l, s => (h s a).trans (taskOnly_foldl h l (f s a))

theorem taskOnly_setHart (k : Nat) (h : Hart) : TaskOnly s (s.setHart k h) := rfl

theorem taskOnly_setCore (c : Nat) (x : Core) : TaskOnly s (s.setCore c x) := rfl

theorem taskOnly_dropCommands (core : Nat) : TaskOnly s (dropCommands s core) := rfl

theorem taskOnly_endGrants (core : Nat) : TaskOnly s (endGrants s core) := by
  refine taskOnly_foldl (fun u d => ?_) _ _
  split <;> rfl

theorem taskOnly_releaseCore (core : Nat) : TaskOnly s (releaseCore s core) :=
  (((taskOnly_dropCommands core).trans (taskOnly_endGrants core)).trans
    (taskOnly_foldl (fun _ _ => taskOnly_setHart _ _) _ _)).trans (taskOnly_setCore _ _)

theorem taskOnly_forgetTask (k : Task) : TaskOnly s (forgetTask s k) := by
  unfold forgetTask
  split <;> rfl

theorem taskOnly_requeue (l : Nat) (i : Iteration) : TaskOnly s (requeue s l i) := by
  unfold requeue
  split <;> rfl

theorem taskOnly_abortTask (core : Nat) : TaskOnly s (abortTask s core) := by
  unfold abortTask
  split
  · refine (TaskOnly.trans ?_ (taskOnly_forgetTask _)).trans (taskOnly_requeue _ _)
    split
    · exact taskOnly_releaseCore core
    · exact ((taskOnly_releaseCore core).trans (taskOnly_setCore _ _)).trans
        (taskOnly_foldl (fun _ _ => taskOnly_setHart _ _) _ _)
  · rfl

/-- A fault that is no uncorrectable read, and behind which no walk stands, leaves nothing. -/
theorem logFault_of {w : Who} {f : AccFault} (h : f.cause ≠ .mchk) (hw : f.walked = false) (hf : f.first = none)
    (corr : BitVec 32) : s.logFault w f corr = s := by
  simp [State.logFault, State.keepWalks, h, hw, hf]

/-- A command whose fault aborts no task, and leaves nothing, changes its slot and holds no line. -/
theorem failCommand_of {f : AccFault} (ha : f.abort = false) (h : f.cause ≠ .mchk) (hw : f.walked = false)
    (hf : f.first = none) (core : Nat) (x : Command) (detail : Nat) :
    failCommand s core x f detail = (s.release core x.key).setCmd core { x with stage := .failed f detail } := by
  simp [failCommand, ha, logFault_of h hw hf]

theorem taskOnly_stopCopy (core : Nat) (x : Command) : TaskOnly s (stopCopy s core x) := by
  unfold stopCopy
  dsimp only
  generalize hf : accAbort s (s.whoCmd core x) .peerdn 2 _ = f
  cases ha : f.abort with
  | true =>
    rw [failCommand, if_pos ha]
    exact taskOnly_abortTask core
  | false =>
    subst hf
    rw [failCommand_of ha nofun rfl rfl]
    rfl

/-- A command that changes in its slot leaves each core its task. -/
theorem aborts_setCmd (core : Nat) (x : Command) (c : Nat) : (s.setCmd core x).aborts c = s.aborts c := by
  unfold State.aborts State.setCmd
  by_cases h : core = c
  · subst h
    rw [State.core_setCore]
    rfl
  · rw [State.core_setCore_other _ _ h]

/-- Where no task can abort, a copy that stops leaves the harts as they were, and no task that can abort. -/
theorem stopCopy_of_not_aborts (h : ∀ c, s.aborts c = false) (core : Nat) (x : Command) :
    (stopCopy s core x).harts = s.harts ∧ ∀ c, (stopCopy s core x).aborts c = false := by
  have ha (dst : Word) : (accAbort s (s.whoCmd core x) .peerdn 2 dst).abort = false := by
    simp [accAbort, State.whoCmd, h core]
  unfold stopCopy
  dsimp only
  rw [failCommand_of (ha _) nofun rfl rfl]
  exact ⟨rfl, fun c => (aborts_setCmd core _ c).trans (h c)⟩

/-- Where no task can abort in `s`, the harts of `t` are those of `s`, and no task can abort in it either. -/
def HartsKept (s t : State) : Prop :=
  (∀ c, s.aborts c = false) → t.harts = s.harts ∧ ∀ c, t.aborts c = false

theorem HartsKept.refl (s : State) : HartsKept s s := fun h => ⟨rfl, h⟩

theorem HartsKept.trans (h : HartsKept s t) (g : HartsKept t u) : HartsKept s u := fun hs =>
  have ⟨h1, h2⟩ := h hs
  have ⟨g1, g2⟩ := g h2
  ⟨g1.trans h1, g2⟩

theorem hartsKept_of_eq (h : t.harts = s.harts) (g : t.cores = s.cores) : HartsKept s t := fun hs =>
  ⟨h, fun c => by
    have := hs c
    unfold State.aborts State.core at *
    rwa [g]⟩

/-- The window with its peer down. -/
def PeerWindow.gone (w : PeerWindow) : PeerWindow := { w with up := false }

theorem PeerWindow.gone_of_down {w : PeerWindow} (h : w.up = false) : w.gone = w := by
  unfold PeerWindow.gone
  rw [← h]

@[simp] theorem PeerWindow.gone_gone (w : PeerWindow) : w.gone.gone = w.gone := rfl

/-- The windows `ks` of `s` are down in `t`, and no other has changed; the ports and device memory are as they were, and the harts
where no task can abort. -/
structure WindowsDown (ks : List Nat) (s t : State) : Prop where
  mem : t.mem = s.mem
  ports : t.ports = s.ports
  harts : HartsKept s t
  windows : ∀ k, Table.get {} t.pwin k = if k ∈ ks then (Table.get {} s.pwin k).gone else Table.get {} s.pwin k

theorem WindowsDown.refl (s : State) : WindowsDown [] s s := ⟨rfl, rfl, .refl s, fun _ => rfl⟩

theorem WindowsDown.trans {ks js : List Nat} (h : WindowsDown ks s t) (g : WindowsDown js t u) :
    WindowsDown (ks ++ js) s u where
  mem := g.mem.trans h.mem
  ports := g.ports.trans h.ports
  harts := h.harts.trans g.harts
  windows j := by
    rw [g.windows, h.windows]
    by_cases hk : j ∈ ks <;> by_cases hj : j ∈ js <;> simp [hk, hj]

theorem windowsDown_foldl {α : Type} {f : State → α → State} {ks : α → List Nat}
    (h : ∀ s a, WindowsDown (ks a) s (f s a)) :
    ∀ (l : List α) (s : State), WindowsDown (l.flatMap ks) s (l.foldl f s)
  | [], s => .refl s
  | a :: l, s => (h s a).trans (windowsDown_foldl h l (f s a))

/-- What the end of a task may change takes down no window. -/
theorem TaskOnly.windowsDown (h : TaskOnly s t) (g : HartsKept s t) : WindowsDown [] s t where
  mem := h.mem
  ports := h.ports
  harts := g
  windows k := by rw [h.pwin]; rfl

theorem windowsDown_stopIn (w : PeerWindow) (s : State) (a : Nat × Nat) : WindowsDown [] s (stopIn w s a) := by
  unfold stopIn
  split
  · split
    · exact (taskOnly_stopCopy _ _).windowsDown fun h => stopCopy_of_not_aborts h _ _
    · exact .refl s
  · exact .refl s

/-- An event is written to host memory (R387). -/
theorem windowsDown_postEvent (s : State) (kind : Nat) (corr : BitVec 32) (a b : Nat) :
    WindowsDown [] s (postEvent s kind corr a b) := by
  unfold postEvent
  split <;> exact ⟨rfl, rfl, hartsKept_of_eq rfl rfl, fun _ => rfl⟩

theorem windowsDown_setWindow (s : State) (k : Nat) (rs : List RemoteEntry) :
    WindowsDown [k] s { s with pwin := Table.set {} s.pwin k (Table.get {} s.pwin k).gone, remote := rs } where
  mem := rfl
  ports := rfl
  harts := hartsKept_of_eq rfl rfl
  windows j := by
    rw [Table.get_set]
    by_cases h : k = j
    · simp [h]
    · simp [h, Ne.symm h]

theorem windowsDown_windowGone (s : State) (k : Nat) : WindowsDown [k] s (windowGone s k) := by
  have stops (l : List (Nat × Nat)) (u : State) : WindowsDown [] u (l.foldl (stopIn (Table.get {} s.pwin k)) u) := by
    have none : l.flatMap (fun _ => ([] : List Nat)) = [] := List.flatMap_eq_nil_iff.2 fun _ _ => rfl
    rw [← none]
    exact windowsDown_foldl (windowsDown_stopIn _) l u
  exact ((windowsDown_setWindow s k _).trans (stops _ _)).trans (windowsDown_postEvent _ _ _ _ _)

/-- A key that no entry of a table has reads as the default. -/
theorem Table.get_of_not_mem {α : Type} {d : α} {m : Table α} {k : Nat} (h : k ∉ m.map Prod.fst) : Table.get d m k = d := by
  induction m with
  | nil => rfl
  | cons e m ih =>
    rw [List.map_cons, List.mem_cons, not_or] at h
    rw [Table.get, if_neg (Ne.symm h.1), ih h.2]

/-- The windows that meet a condition are down, whether or not they were up before. -/
theorem windowsGone_windows (s : State) (lost : PeerWindow → Prop) [DecidablePred lost] :
    ∃ ks, WindowsDown ks s (windowsGone s fun w => lost w) ∧ ∀ k, Table.get {} (windowsGone s fun w => lost w).pwin k =
      if lost (Table.get {} s.pwin k) then (Table.get {} s.pwin k).gone else Table.get {} s.pwin k := by
  have hd := windowsDown_foldl windowsDown_windowGone
    ((s.pwin.map Prod.fst).filter fun k => (Table.get {} s.pwin k).up && decide (lost (Table.get {} s.pwin k))) s
  refine ⟨_, hd, fun k => (hd.windows k).trans ?_⟩
  simp only [List.flatMap_singleton', List.mem_filter, Bool.and_eq_true, decide_eq_true_eq]
  cases hu : (Table.get {} s.pwin k).up with
  | false => rw [if_neg (by simp), PeerWindow.gone_of_down hu, ite_self]
  | true =>
    by_cases hk : k ∈ s.pwin.map Prod.fst
    · simp only [hk, true_and]
    · rw [Table.get_of_not_mem hk] at hu
      cases hu

/-! ## Places outside the pool window

What the check of an access gives for an address outside the pool window lies outside it, and a write there is a store. -/

theorem peerPlace_outside {k : Nat} {win : PeerWindow} {kind : Nat} {va : Word} {l : Bool} {p : Place}
    (h : peerPlace s k win kind va l = .ok (t, p)) : p.outside = true := by
  unfold peerPlace at h
  simp only at h
  split at h
  · cases h; rfl
  · split at h
    · cases h
    · split at h <;> cases h
      rfl

theorem placeOf_outside {kind : Nat} {va : Word} {n pa : Nat} {p : Place} (h : placeOf s kind va n pa = .ok p) :
    p.outside = true := by
  unfold placeOf at h
  repeat' split at h
  all_goals cases h
  all_goals rfl

theorem memCheck_outside {w : Who} {k : Nat} {va : Word} {n : Nat} {op : Option AmoOp} {p : Place}
    (h : memCheck s w k va n op = .ok (t, p)) : p.outside = true := by
  unfold memCheck at h
  split at h
  · split at h <;> cases h
    rfl
  · simp only at h
    split at h
    · cases h
    · rename_i u q hf
      have hp : p = q := by
        generalize rowsCheck _ w k va n op q = r at h
        cases r <;> cases h
        rfl
      subst hp
      split at hf
      · exact peerPlace_outside hf
      · split at hf
        · cases hf
        · split at hf
          · cases hf
          · rename_i hq
            cases hf
            exact placeOf_outside hq

theorem checkAccess_outside {w : Who} {k : Nat} {va : Word} {n : Nat} {op : Option AmoOp} {p : Place}
    (hin : inPool va = false) (h : checkAccess s w k va n op = .ok (t, p)) : p.outside = true := by
  unfold checkAccess at h
  split at h
  · cases h
  · split at h
    · cases h
    · rw [hin] at h
      exact memCheck_outside h

/-- The check of an access changes what a walk and the caches may change alone. -/
theorem checkAccess_only {w : Who} {k : Nat} {va : Word} {n : Nat} {op : Option AmoOp} {p : Place}
    (h : checkAccess s w k va n op = .ok (t, p)) : ∃ u, WalkOnly s u ∧ CachesOnly u t := by
  obtain ⟨u, hu, hc⟩ := checkAccess_state h
  refine ⟨u, ?_, hc⟩
  rcases hu with rfl | ⟨l, hl⟩
  · exact .refl u
  · exact walkOnly_translate hl

theorem WalkOnly.peerAnswers (h : WalkOnly s t) : t.peerAnswers = s.peerAnswers := by
  unfold WalkOnly at h
  rw [← h]

theorem CachesOnly.harts (h : CachesOnly s t) : t.harts = s.harts := by
  unfold CachesOnly at h
  rw [← h]

theorem CachesOnly.peerAnswers (h : CachesOnly s t) : t.peerAnswers = s.peerAnswers := by
  unfold CachesOnly at h
  rw [← h]

/-- Noting a write changes what is known of the last writes alone. -/
theorem noteWrite_eq (agent : Nat) (strms : BitVec 8) (p : Place) : ∃ x, s.noteWrite agent strms p = { s with wrote := x } := by
  unfold State.noteWrite
  dsimp only
  split
  · exact ⟨_, rfl⟩
  · exact ⟨s.wrote, rfl⟩

/-- A write outside the pool window changes memory, its marks and who wrote it alone. -/
theorem writePlace_eq (w : Who) {p : Place} (hp : p.outside = true) (n v : Nat) :
    { writePlace s w p n v with mem := s.mem, hostMem := s.hostMem, peerMem := s.peerMem, poison := s.poison, found := s.found,
                                sealed := s.sealed, stamped := s.stamped, wrote := s.wrote } = s := by
  obtain ⟨x, hx⟩ := noteWrite_eq (s := s) w.agent (bitOf 8 w.strm) p
  unfold writePlace
  rw [hx]
  cases p with
  | pool c o => cases hp
  | dev a => dsimp only; split <;> rfl
  | host a | peer k a | cap o | map o | status k o => rfl

/-- The memories after a write outside the pool window: that of the place holds the value. -/
theorem writePlace_memories (w : Who) (p : Place) (n v : Nat) :
    (writePlace s w p n v).mem = (match p with | .dev a => Memory.store s.mem a n v | _ => s.mem) ∧
    (writePlace s w p n v).hostMem = (match p with | .host a => Memory.store s.hostMem a n v | _ => s.hostMem) ∧
    (writePlace s w p n v).peerMem = (match p with | .peer _ a => Memory.store s.peerMem a n v | _ => s.peerMem) := by
  obtain ⟨x, hx⟩ := noteWrite_eq (s := s) w.agent (bitOf 8 w.strm) p
  unfold writePlace
  rw [hx]
  cases p with
  | dev a => dsimp only; split <;> exact ⟨rfl, rfl, rfl⟩
  | pool c o | host a | peer k a | cap o | map o | status k o => exact ⟨rfl, rfl, rfl⟩

/-- A store reads back as its value. -/
theorem load_store_mod (m : Table Byte) (a n v : Nat) : Memory.load (Memory.store m a n v) a n = v % 2 ^ (8 * n) := by
  rw [Memory.load_store_same, Nat.pow_mul]

/-- A byte outside a store reads as before. -/
theorem load_store_byte (m : Table Byte) (a n v x : Nat) (h : (decide (a ≤ x) && decide (x < a + n)) = false) :
    Memory.load (Memory.store m a n v) x 1 = Memory.load m x 1 := by
  refine Memory.load_store_disjoint m a n v x 1 ?_
  simp only [Bool.and_eq_false_iff, decide_eq_false_iff_not] at h
  omega

/-- A write outside the pool window is a store. -/
theorem storesAt_writePlace (w : Who) {p : Place} (hp : p.outside = true) (hm : p.isMemory = true) (n v : Nat) :
    StoresAt s (writePlace s w p n v) p n v := by
  obtain ⟨hdev, hhost, hpeer⟩ := writePlace_memories (s := s) w p n v
  have hcores : (writePlace s w p n v).cores = s.cores := by
    have h := congrArg State.cores (writePlace_eq (s := s) w hp n v)
    exact h
  have hcore (c : Nat) : (writePlace s w p n v).core c = s.core c := by
    unfold State.core
    rw [hcores]
  generalize writePlace s w p n v = t at *
  constructor
  · cases p with
    | pool c o => cases hp
    | dev a => exact (congrArg (Memory.load · a n) hdev).trans (load_store_mod _ _ _ _)
    | host a => exact (congrArg (Memory.load · a n) hhost).trans (load_store_mod _ _ _ _)
    | peer k a => exact (congrArg (Memory.load · a n) hpeer).trans (load_store_mod _ _ _ _)
    | cap o | map o | status k o => cases hm
  · intro q hq hout
    cases q with
    | pool c x => simp only [readPlace, hcore]
    | dev x =>
      cases p with
      | dev a => exact (congrArg (Memory.load · x 1) hdev).trans (load_store_byte _ _ _ _ _ hout)
      | _ => exact congrArg (Memory.load · x 1) hdev
    | host x =>
      cases p with
      | host a => exact (congrArg (Memory.load · x 1) hhost).trans (load_store_byte _ _ _ _ _ hout)
      | _ => exact congrArg (Memory.load · x 1) hhost
    | peer j x =>
      cases p with
      | peer k a => exact (congrArg (Memory.load · x 1) hpeer).trans (load_store_byte _ _ _ _ _ hout)
      | _ => exact congrArg (Memory.load · x 1) hpeer
    | cap o | map o | status k o => cases hq

/-! ## Requests that a peer sends (R391, R392) -/

@[simp] theorem answerPeer_harts (c v : Nat) : (answerPeer s c v).harts = s.harts := rfl

@[simp] theorem answerPeer_peerAnswers (c v : Nat) : (answerPeer s c v).peerAnswers = s.peerAnswers ++ [(c, v)] := rfl

/-- An answer to a peer leaves memory as it is. -/
theorem sameMemory_answerPeer (c v : Nat) : SameMemory s (answerPeer s c v) := by
  intro q hq
  cases q with
  | cap o | map o | status k o => cases hq
  | _ => rfl

theorem StoresAt.answerPeer {p : Place} {n x : Nat} (hm : p.isMemory = true) (h : StoresAt s t p n x) (c v : Nat) :
    StoresAt s (answerPeer t c v) p n x := by
  refine ⟨?_, fun q hq ho => (sameMemory_answerPeer c v q hq).trans (h.others q hq ho)⟩
  rw [← h.stored]
  cases p with
  | cap o | map o | status k o => cases hm
  | _ => rfl

/-- The value stored is what its low bytes say. -/
theorem StoresAt.of_mod {p : Place} {n x y : Nat} (h : StoresAt s t p n x) (e : x % 2 ^ (8 * n) = y % 2 ^ (8 * n)) :
    StoresAt s t p n y := ⟨h.stored.trans e, h.others⟩

theorem amoNew_add_mod (n m v v2 : Nat) : amoNew .add n m v v2 % 2 ^ (8 * n) = (m + v) % 2 ^ (8 * n) := by
  simp [amoNew]

section Request

variable {r : PeerReq}

/-- A request that a peer can make, of bytes that nothing holds, is performed. -/
theorem exec_peerRequest (hs : peerShape r = true) (hr : s.recalled (whoPeer s r) (min r.kind 3) r.addr r.bytes = false) :
    exec (.peerRequest r) s = .next (performPeer s r) := by
  change execPeerRequest r s = _
  rw [execPeerRequest, hs, hr]
  rfl

theorem performPeer_inPool (h : inPool r.addr = true) : performPeer s r = answerPeer s 4 0 := by
  rw [performPeer, if_pos h]
  rfl

section Checked

variable {s1 : State} {p : Place} (hin : inPool r.addr = false)
  (hc : checkAccess s (whoPeer s r) (min r.kind 3) r.addr r.bytes (peerOp r) = .ok (s1, p))
include hin hc

theorem performPeer_read (hk : r.kind = 1) : performPeer s r = answerPeer s1 0 (readPlace s1 p r.bytes) := by
  simp only [performPeer, hin, hc, Bool.false_eq_true, if_false]
  simp only [hk]

theorem performPeer_write (hk : r.kind = 2) :
    performPeer s r = answerPeer (writePlace s1 (whoPeer s r) p r.bytes r.data.toNat) 0 0 := by
  simp only [performPeer, hin, hc, Bool.false_eq_true, if_false]
  simp only [hk]

theorem performPeer_atomic (hk : r.kind = 3) :
    performPeer s r = answerPeer (writePlace s1 (whoPeer s r) p r.bytes
      (amoNew r.op r.bytes (readPlace s1 p r.bytes) r.data.toNat r.data2.toNat)) 0 (readPlace s1 p r.bytes) := by
  simp only [performPeer, hin, hc, Bool.false_eq_true, if_false]
  simp only [hk]

theorem performPeer_reduce (hk : r.kind = 4 ∨ r.kind = 5) :
    performPeer s r = answerPeer (writePlace s1 (whoPeer s r) p r.bytes
      (combine (r.kind - 3) (reduceFmt r) (readPlace s1 p r.bytes) r.data.toNat)) 0 0 := by
  simp only [performPeer, hin, hc, Bool.false_eq_true, if_false]
  rcases hk with hk | hk <;> simp only [hk]

end Checked

/-- A request that faults is answered with the cause, and leaves its walks and, of an uncorrectable word, its log. -/
theorem performPeer_fault (hin : inPool r.addr = false) {f : AccFault}
    (hc : checkAccess s (whoPeer s r) (min r.kind 3) r.addr r.bytes (peerOp r) = .error f) :
    performPeer s r = answerPeer (s.logFault (whoPeer s r) f 0) f.cause.code 0 := by
  simp only [performPeer, hin, hc, Bool.false_eq_true, if_false]

end Request

/-- What a fault leaves: its walks, and the logs of the stacks. -/
theorem logFault_eq (w : Who) (f : AccFault) (corr : BitVec 32) :
    s.logFault w f corr = (s.keepWalks w f).loggedAs (s.logFault w f corr) := by
  unfold State.logFault
  dsimp only
  split
  · exact logBad_eq _ _ _ _ _ _
  · rfl

/-- Only an uncorrectable read is logged. -/
theorem logFault_of_cause {w : Who} {f : AccFault} (h : f.cause ≠ .mchk) (corr : BitVec 32) :
    s.logFault w f corr = s.keepWalks w f := by
  simp [State.logFault, h]

/-- A fault that is answered to a peer leaves its walks, the log of an uncorrectable read, and the answer. -/
theorem answerPeer_logFault (w : Who) (f : AccFault) (c : Nat) :
    let t := answerPeer (s.logFault w f 0) c 0
    { t with peerAnswers := s.peerAnswers } = (s.keepWalks w f).loggedAs t ∧
    (f.cause ≠ .mchk → (s.keepWalks w f).loggedAs t = s.keepWalks w f) ∧ t.peerAnswers = s.peerAnswers ++ [(c, 0)] := by
  have ha := (walkOnly_keepWalks (s := s) w f).peerAnswers
  have hl := logFault_eq (s := s) w f 0
  refine ⟨?_, fun h => ?_, ?_⟩
  · rw [← ha]
    exact congrArg (fun u : State => { u with peerAnswers := (s.keepWalks w f).peerAnswers }) hl
  · rw [logFault_of_cause h]
    rfl
  · rw [answerPeer_peerAnswers, hl]
    exact congrArg (· ++ _) ha

/-- The shapes of a request (R391): an access of 1, 2, 4 or 8 bytes, or an element of a reduce copy. -/
theorem peerShape_of {r : PeerReq}
    (h : (r.kind = 1 ∨ r.kind = 2 ∨ r.kind = 3) ∧ (r.bytes = 1 ∨ r.bytes = 2 ∨ r.bytes = 4 ∨ r.bytes = 8) ∨
      r.kind = 4 ∧ (r.bytes = 2 ∨ r.bytes = 4) ∨ r.kind = 5 ∧ r.bytes = 4) : peerShape r = true := by
  unfold peerShape
  rcases h with ⟨hk | hk | hk, hb⟩ | ⟨hk, hb⟩ | ⟨hk, hb⟩ <;> rw [hk] <;> simp [hb]

/-- What the peer's request leaves where its check succeeds outside the pool window. -/
theorem performPeer_leaves {r : PeerReq} {s1 : State} {p : Place} (hin : inPool r.addr = false) (hm : p.isMemory = true)
    (hk : r.kind ∈ [1, 2, 3, 4, 5])
    (hc : checkAccess s (whoPeer s r) (min r.kind 3) r.addr r.bytes (peerOp r) = .ok (s1, p)) :
    (performPeer s r).harts = s.harts ∧
    (r.kind = 1 → SameMemory s1 (performPeer s r) ∧
      (performPeer s r).peerAnswers = s.peerAnswers ++ [(0, readPlace s1 p r.bytes)]) ∧
    (r.kind = 2 → StoresAt s1 (performPeer s r) p r.bytes r.data.toNat ∧
      (performPeer s r).peerAnswers = s.peerAnswers ++ [(0, 0)]) ∧
    (r.kind = 3 → r.op = .add → StoresAt s1 (performPeer s r) p r.bytes (readPlace s1 p r.bytes + r.data.toNat) ∧
      (performPeer s r).peerAnswers = s.peerAnswers ++ [(0, readPlace s1 p r.bytes)]) ∧
    (r.kind = 4 ∨ r.kind = 5 → StoresAt s1 (performPeer s r) p r.bytes
        (combine (r.kind - 3) (reduceFmt r) (readPlace s1 p r.bytes) r.data.toNat) ∧
      (performPeer s r).peerAnswers = s.peerAnswers ++ [(0, 0)]) := by
  obtain ⟨u, hu, hcu⟩ := checkAccess_only hc
  have harts : s1.harts = s.harts := hcu.harts.trans hu.harts
  have answers : s1.peerAnswers = s.peerAnswers := hcu.peerAnswers.trans hu.peerAnswers
  have hp := checkAccess_outside hin hc
  have stores (v : Nat) := storesAt_writePlace (s := s1) (whoPeer s r) hp hm r.bytes v
  have rest (v : Nat) := writePlace_eq (s := s1) (whoPeer s r) hp r.bytes v
  have wharts (v : Nat) : (writePlace s1 (whoPeer s r) p r.bytes v).harts = s.harts :=
    (congrArg State.harts (rest v) : _ = s1.harts).trans harts
  have wanswers (v : Nat) : (writePlace s1 (whoPeer s r) p r.bytes v).peerAnswers = s.peerAnswers :=
    (congrArg State.peerAnswers (rest v) : _ = s1.peerAnswers).trans answers
  refine ⟨?_, fun h => ?_, fun h => ?_, fun h ha => ?_, fun h => ?_⟩
  · simp only [List.mem_cons, List.not_mem_nil, or_false] at hk
    rcases hk with h | h | h | h
    · rw [performPeer_read hin hc h, answerPeer_harts, harts]
    · rw [performPeer_write hin hc h, answerPeer_harts, wharts]
    · rw [performPeer_atomic hin hc h, answerPeer_harts, wharts]
    · rw [performPeer_reduce hin hc h, answerPeer_harts, wharts]
  · rw [performPeer_read hin hc h, answerPeer_peerAnswers, answers]
    exact ⟨sameMemory_answerPeer _ _, rfl⟩
  · rw [performPeer_write hin hc h, answerPeer_peerAnswers, wanswers]
    exact ⟨(stores _).answerPeer hm _ _, rfl⟩
  · rw [performPeer_atomic hin hc h, answerPeer_peerAnswers, wanswers, ha]
    exact ⟨((stores _).answerPeer hm _ _).of_mod (amoNew_add_mod _ _ _ _), rfl⟩
  · rw [performPeer_reduce hin hc h, answerPeer_peerAnswers, wanswers]
    exact ⟨(stores _).answerPeer hm _ _, rfl⟩

/-- A port that is down (R393): the windows that have no other way to their peer are down. -/
theorem portDown_leaves (s : State) {port : Nat} (h : port < 24) :
    (portDown s port).ports.getLsbD port = false ∧
    (∀ p, p ≠ port → (portDown s port).ports.getLsbD p = s.ports.getLsbD p) ∧ (portDown s port).mem = s.mem ∧
    ((∀ c, s.aborts c = false) → (portDown s port).harts = s.harts) ∧
    ∀ k, Table.get {} (portDown s port).pwin k =
      if (Table.get {} s.pwin k).ports.setWidth 24 &&& (portDown s port).ports = 0 then (Table.get {} s.pwin k).gone
      else Table.get {} s.pwin k := by
  obtain ⟨ks, hd, hw⟩ := windowsGone_windows { s with ports := setBit s.ports port false }
    fun w => w.ports.setWidth 24 &&& setBit s.ports port false = 0
  have hp : (portDown s port).ports = setBit s.ports port false := hd.ports
  rw [hp]
  exact ⟨getLsbD_setBit_self _ h _, fun p hne => getLsbD_setBit_other _ hne.symm _, hd.mem, fun ha => (hd.harts ha).1, hw⟩

/-- The peers (R5, R391 to R393). -/
theorem claim_peers : Claim.Peers := by
  refine ⟨fun s r hshape hr => ?_, ?_, ?_, fun s v => rfl⟩
  · have hk : r.kind ∈ [1, 2, 3, 4, 5] := by
      simp only [List.mem_cons, List.not_mem_nil, or_false]
      omega
    rw [exec_peerRequest (peerShape_of hshape) hr]
    refine ⟨fun hin => by rw [performPeer_inPool hin]; rfl, fun hin s1 p hm hc => ⟨_, rfl, ?_⟩, fun hin f hc => ⟨_, rfl, ?_⟩⟩
    · obtain ⟨harts, hread, hwrite, hadd, hreduce⟩ := performPeer_leaves hin hm hk hc
      refine ⟨harts, hread, hwrite, hadd, fun h => ?_, fun h => ?_⟩
      · simpa [h, reduceFmt] using hreduce (.inl h)
      · simpa [h, reduceFmt] using hreduce (.inr h)
    · rw [performPeer_fault hin hc]
      exact answerPeer_logFault _ _ _
  · rintro s i port (rfl | rfl) h <;> exact ⟨_, rfl, portDown_leaves s h⟩
  · intro s i peer hi
    obtain ⟨ks, hd, hw⟩ := windowsGone_windows s fun w => w.peer.toNat = peer
    have he : exec i s = .next (windowsGone s fun w => w.peer.toNat = peer) := by rcases hi with rfl | rfl <;> rfl
    exact ⟨_, he, hd.mem, fun ha => (hd.harts ha).1, hd.ports, hw⟩

/-! ## The host's windows (R328, R386, R388, R389, R403) -/

/-- A change of a table's values alone changes what each key reads as so. -/
theorem Table.get_map_rel {α : Type} {d : α} {R : α → α → Prop} (hd : R d d) {f : Nat × α → Nat × α}
    (hkey : ∀ e, (f e).1 = e.1) (hval : ∀ e, R e.2 (f e).2) (m : Table α) (k : Nat) :
    R (Table.get d m k) (Table.get d (m.map f) k) := by
  induction m with
  | nil => exact hd
  | cons e m ih =>
    rw [List.map_cons, Table.get, Table.get, hkey]
    split
    · exact hval e
    · exact ih

/-- The queues agree in what the host has written to them: the arbiter's notes of them (R329) may differ. -/
structure SameSettings (x y : Queue) : Prop where
  base : y.base = x.base
  en : y.en = x.en
  asid : y.asid = x.asid
  weight : y.weight = x.weight
  prio : y.prio = x.prio
  log2sz : y.log2sz = x.log2sz
  tail : y.tail = x.tail

theorem SameSettings.refl (x : Queue) : SameSettings x x := ⟨rfl, rfl, rfl, rfl, rfl, rfl, rfl⟩

theorem markQueues_queue (s : State) (q : Nat) : SameSettings (s.queue q) (s.markQueues.queue q) := by
  unfold State.markQueues
  refine Table.get_map_rel (.refl {}) (fun e => ?_) (fun e => ?_) s.queues q
  · dsimp only; split <;> rfl
  · dsimp only; split <;> exact ⟨rfl, rfl, rfl, rfl, rfl, rfl, rfl⟩

/-- A queue replaced, and the arbiter's notes made anew: the queue as replaced, and memory as it was. -/
theorem setQueue_markQueues (s : State) (q : Nat) (x : Queue) :
    SameSettings x ((s.setQueue q x).markQueues.queue q) ∧ (s.setQueue q x).markQueues.mem = s.mem := by
  have h := markQueues_queue (s.setQueue q x) q
  rw [State.queue_setQueue] at h
  exact ⟨h, rfl⟩

/-- The register window of a queue takes writes but during bring-up (R396). -/
theorem queueWindow_open {q : Nat} (hboot : ¬(s.rstBusy = true ∧ s.rstPending.map Prod.fst = some 4)) (hq : q < 4096) :
    (s.rstBusy && decide (s.rstPending.map Prod.fst = some 4) || decide (4096 ≤ q)) = false := by
  have hb : (s.rstBusy && decide (s.rstPending.map Prod.fst = some 4)) = false := by
    rwa [Bool.eq_false_iff, ne_eq, Bool.and_eq_true, decide_eq_true_eq]
  simp only [hb, Nat.not_le.2 hq, decide_false, Bool.or_false]

section Queues

variable {q : Nat} (hopen : (s.rstBusy && decide (s.rstPending.map Prod.fst = some 4) || decide (4096 ≤ q)) = false)
include hopen

theorem exec_qtailWrite (v : BitVec 32) : exec (.qtailWrite q v) s =
    .next (if (v - (s.queue q).head).toNat ≤ 2 ^ (s.queue q).log2sz then (s.setQueue q { s.queue q with tail := v }).markQueues
      else s) := by
  change execQtailWrite q v s = _
  simp only [execQtailWrite, hopen, Bool.false_or, decide_eq_true_eq, ← Nat.not_le, ite_not]

theorem exec_registerWrite_base (w : Word) : exec (.registerWrite true (64 * q) w) s =
    .next (s.setQueue q { s.queue q with base := w &&& 0xFFFFFFFFFFFFFFC0 }).markQueues := by
  change execRegisterWrite true (64 * q) w s = _
  have hd : 64 * q / 64 = q := by omega
  have hm : 64 * q % 64 = 0 := by omega
  simp only [execRegisterWrite, writeQueueWindow, hd, hm, hopen]
  rfl

theorem exec_registerWrite_config (w : Word) : exec (.registerWrite true (64 * q + 8) w) s =
    .next (s.setQueue q ((s.queue q).configure w)).markQueues := by
  change execRegisterWrite true (64 * q + 8) w s = _
  have hd : (64 * q + 8) / 64 = q := by omega
  have hm : (64 * q + 8) % 64 = 8 := by omega
  simp only [execRegisterWrite, writeQueueWindow, hd, hm, hopen]
  rfl

end Queues

/-- A ring from which the host has nothing to take loses nothing when it is moved (R388). -/
theorem loseRing_empty (base : Word) (size : Nat) (p : BitVec 32) : loseRing s base size p p = s := by
  simp [loseRing]

theorem exec_memoryWindowRead_outside {a n : Nat} (h : 2 ^ s.bar4 < a + n) : exec (.memoryWindowRead a n) s = .next s := by
  change execMemoryWindowRead a n s = _
  have hin : s.inBar4 a n = false := by simpa [State.inBar4] using h
  simp only [execMemoryWindowRead, hin, Bool.false_eq_true, if_false]

/-- What a read of device memory in BAR 4 is answered with (R389, R403). -/
def windowAnswer (s : State) (a n : Nat) : WindowAnswer :=
  if s.liveCap < a + n ∨ sealedRange s a n = true then .abort
  else if s.poisoned a n then .poisoned else .data (Memory.loadBytes s.mem a n)

theorem windowAnswer_ne_poisoned {a n : Nat} (h : s.poisoned a n = false) : windowAnswer s a n ≠ .poisoned := by
  unfold windowAnswer
  rw [h]
  split <;> nofun

/-- A read in BAR 4 appends its answer; one that meets an uncorrectable word is logged, and changes nothing else. -/
theorem exec_memoryWindowRead_inside {a n : Nat} (hn : n ≠ 0) (hin : a + n ≤ 2 ^ s.bar4) (hup : s.heldUp a n = false) :
    ∃ u, u = s.loggedAs u ∧ (s.poisoned a n = false → u = s) ∧ exec (.memoryWindowRead a n) s =
      .next { u with windowReads := s.windowReads ++ [windowAnswer s a n] } := by
  have hbar : s.inBar4 a n = true := by simpa [State.inBar4] using hin
  have hanswer : (if n = 0 || s.liveCap < a + n || sealedRange s a n then WindowAnswer.abort
      else if s.poisoned a n || s.heldUp a n then .poisoned else .data (Memory.loadBytes s.mem a n)) = windowAnswer s a n := by
    simp [hn, hup, windowAnswer]
  refine ⟨if windowAnswer s a n = .poisoned
      then ((wordsOf a n).filter fun k => Table.get false s.poison k).foldl (State.readBad · 0) s else s,
    ?_, fun hclean => if_neg (windowAnswer_ne_poisoned hclean), ?_⟩
  · split
    · exact foldl_readBad_eq 0 _ s
    · rfl
  · change execMemoryWindowRead a n s = _
    unfold execMemoryWindowRead
    dsimp only
    rw [hanswer, if_pos hbar]

/-- The number of some bytes has them as its digits. -/
theorem ofLeBytes_digit (bs : List Byte) (k : Nat) : BitVec.ofNat 8 (ofLeBytes bs / 256 ^ k) = bs.getD k 0 := by
  induction bs generalizing k with
  | nil => simp [ofLeBytes]
  | cons b bs ih =>
    cases k with
    | zero => simp [ofLeBytes, BitVec.ofNat_add, BitVec.ofNat_mul]
    | succ k =>
      have h : (b.toNat + 256 * ofLeBytes bs) / 256 = ofLeBytes bs := by
        have := b.isLt
        omega
      rw [ofLeBytes, Nat.pow_succ', ← Nat.div_div_eq_div_mul, h, ih, List.getD_cons_succ]

theorem leAt_whole (bs : List Byte) : leAt bs 0 bs.length = ofLeBytes bs := by
  rw [leAt, List.drop_zero, List.take_length]

/-- The host's write of bytes of one word is made at once. -/
theorem exec_memoryWindowWrite {a : Nat} {bs : List Byte} (hne : bs ≠ []) (hword : a % 8 + bs.length ≤ 8) :
    exec (.memoryWindowWrite a bs) s = .next (if a + bs.length ≤ 2 ^ s.bar4 then hostWriteWord s a bs else s) := by
  change execMemoryWindowWrite a bs s = _
  obtain ⟨b, t, rfl⟩ := List.exists_cons_of_ne_nil hne
  have hmin : min (b :: t).length (8 - a % 8) = (b :: t).length := by omega
  have hrest (f : Nat) (u : State) (x : Nat) : hostWriteWords f u x [] = u := by cases f <;> rfl
  have hw : hostWriteWords (b :: t).length s a (b :: t) = hostWriteWord s a (b :: t) := by
    rw [List.length_cons, hostWriteWords]
    dsimp only
    rw [hmin, List.take_length, List.drop_length, hrest]
    rfl
  simp only [execMemoryWindowWrite, hw, State.inBar4, decide_eq_true_eq]

/-- A write to a sealed page, or beyond the capacity, is discarded (R389, R403). -/
theorem hostWriteWord_discarded {a : Nat} {bs : List Byte}
    (h : sealedRange s a bs.length = true ∨ s.liveCap < a + bs.length) : hostWriteWord s a bs = s := by
  unfold hostWriteWord
  refine if_pos ?_
  rcases h with h | h <;> simp [h]

/-- Any other write of good words is made. -/
theorem hostWriteWord_made {a : Nat} {bs : List Byte} (hne : bs ≠ []) (hseal : sealedRange s a bs.length = false)
    (hcap : a + bs.length ≤ s.liveCap) (hcode : s.markCode a = false) (hgood : s.poisoned a bs.length = false)
    (hup : s.heldUp a bs.length = false) :
    (hostWriteWord s a bs).mem = Memory.store s.mem a bs.length (ofLeBytes bs) := by
  have hpart : ((wordsOf a bs.length).any fun k =>
      Table.get false s.poison k && !(a ≤ 8 * k && 8 * k + 8 ≤ a + bs.length)) = false := by
    rw [State.poisoned, List.any_eq_false] at hgood
    rw [List.any_eq_false]
    intro k hk
    simp [hgood k hk]
  obtain ⟨x, hx⟩ := noteWrite_eq (s := s) 641 1 (.dev a)
  unfold hostWriteWord
  simp only [hpart, hseal, hcode, hup, leAt_whole, hx]
  rw [if_neg (by simp [hne, hcap])]
  rfl

/-- The host's windows (R328, R386, R388, R389, R403). -/
theorem claim_hostWindows : Claim.HostWindows := by
  refine ⟨fun s q v w hboot hq hen => ⟨?_, ?_, fun hw => ?_⟩, fun s v => ⟨?_, ?_⟩,
    fun s v => ⟨rfl, fun h => ?_, fun h => ?_, rfl, rfl⟩, fun s a n hn => ?_, fun s a bs hne hword => ?_⟩
  · refine ⟨_, exec_qtailWrite (queueWindow_open hboot hq) v, ?_⟩
    obtain ⟨hx, hm⟩ := setQueue_markQueues s q { s.queue q with tail := v }
    split
    · exact ⟨hm, hx.tail⟩
    · exact ⟨rfl, rfl⟩
  · obtain ⟨hx, hm⟩ := setQueue_markQueues s q { s.queue q with base := w &&& 0xFFFFFFFFFFFFFFC0 }
    exact ⟨_, exec_registerWrite_base (queueWindow_open hboot hq) w, hm, hx.base, hx.tail⟩
  · obtain ⟨hx, hm⟩ := setQueue_markQueues s q ((s.queue q).configure w)
    refine ⟨_, exec_registerWrite_config (queueWindow_open hboot hq) w, hm, hx.en.trans hw, hx.asid, hx.weight, hx.prio,
      hx.log2sz.trans ?_⟩
    simp [Queue.configure, rangedField]
  · change execFrtailWrite v s = _
    simp only [execFrtailWrite, ← Nat.not_le, ite_not]
  · change execErtailWrite v s = _
    simp only [execErtailWrite, ← Nat.not_le, ite_not]
  · change Host.Outcome.next (loseRing { s with frbase := _ } _ _ _ _) = _
    rw [h, loseRing_empty]
    rfl
  · change Host.Outcome.next (loseRing { s with erbase := _ } _ _ _ _) = _
    rw [h, loseRing_empty]
    rfl
  · obtain ⟨t, ht⟩ : ∃ t, exec (.memoryWindowRead a n) s = .next t := ⟨_, rfl⟩
    refine ⟨t, ht, fun h => ?_, fun hin hup => ?_⟩
    · exact Host.Outcome.next.inj (ht.symm.trans (exec_memoryWindowRead_outside h))
    · obtain ⟨u, hu, hclean, he⟩ := exec_memoryWindowRead_inside hn hin hup
      obtain rfl := Host.Outcome.next.inj (ht.symm.trans he)
      refine ⟨congrArg (fun v : State => { v with windowReads := s.windowReads }) hu, fun h => ?_, rfl⟩
      rw [hclean h]
      rfl
  · refine ⟨_, exec_memoryWindowWrite hne hword, fun h => ?_, fun h => ?_, fun h => ?_, fun hseal hcap hbar hcode hgood hup => ?_⟩
    · rw [hostWriteWord_discarded (.inl h), ite_self]
    · rw [hostWriteWord_discarded (.inr h), ite_self]
    · rw [if_neg (Nat.not_le.2 h)]
    · rw [if_pos hbar, hostWriteWord_made hne hseal hcap hcode hgood hup]
      exact ⟨fun k hk => (Memory.byte_store_inside _ _ _ _ _ hk).trans (ofLeBytes_digit bs k),
        fun b hb => Memory.byte_store_outside _ _ _ _ _ hb⟩

/-- Settles O50: the host's windows and the peers. -/
theorem outside : Obligations.Outside := ⟨claim_hostWindows, claim_peers⟩

end Sys2Proof.Machine

namespace Sys2Proof.Machine

open Claim

/-! ## The values of the integer words (R66, R96, R142)

The rules count bits and join halves in the library's terms; the model computes them by recursion and by shifts. -/

/-- The place of the highest bit set and the zero bits above it make up the width. -/
theorem clz64_eq (a : Word) : BitVec.ofNat 64 (clz64 a) = a.clz := by
  unfold clz64
  split
  · next h => exact (BitVec.clz_eq_iff_eq_zero.2 h).symm
  · next h =>
    have hn : a.toNat ≠ 0 := fun e => h (BitVec.eq_of_toNat_eq e)
    have hc : a.clz.toNat < 64 := BitVec.clz_lt_iff_ne_zero.2 h
    have hlog : a.toNat.log2 = 63 - a.clz.toNat := by
      refine (Nat.log2_eq_iff hn).2 ⟨BitVec.two_pow_sub_clz_le_toNat_of_ne_zero (by omega) h, ?_⟩
      rw [show 63 - a.clz.toNat + 1 = 64 - a.clz.toNat by omega]
      exact BitVec.toNat_lt_two_pow_sub_clz
    rw [hlog, show 63 - (63 - a.clz.toNat) = a.clz.toNat by omega, BitVec.ofNat_toNat, BitVec.setWidth_eq]

/-- Bits counted from the low end are those that a test of each place finds. -/
theorem popcount_eq_countP (n x : Nat) : popcount n x = (List.range n).countP fun k => x.testBit k := by
  induction n generalizing x with
  | zero => rfl
  | succ n ih =>
    have hbit : (if x.testBit 0 then 1 else 0) = x % 2 := by
      rcases Nat.mod_two_eq_zero_or_one x with h | h <;> simp [h]
    rw [popcount, ih, List.range_succ_eq_map, List.countP_cons, List.countP_map, Nat.add_comm]
    simp only [Function.comp_def, hbit, Nat.succ_eq_add_one, Nat.testBit_succ]

theorem mulHigh_natCast (m n : Nat) : mulHigh m n = BitVec.ofNat 64 (m * n / 2 ^ 64) := by
  unfold mulHigh
  rw [← Int.natCast_mul, ← Int.natCast_ediv, BitVec.ofInt_natCast]

/-- The immediate above the low half of the source. -/
theorem opLui_immWord (a : Word) (i : BitVec 32) : opLui a (immWord i) = i ++ a.extractLsb' 0 32 := by
  refine BitVec.eq_of_getLsbD_eq fun k hk => ?_
  have hmask : (0xFFFFFFFF : Word).getLsbD k = decide (k < 32) := by
    rw [show (0xFFFFFFFF : Word) = (BitVec.allOnes 32).setWidth 64 from rfl, BitVec.getLsbD_setWidth,
      BitVec.getLsbD_allOnes, decide_eq_true hk, Bool.true_and]
  rw [opLui, immWord, BitVec.getLsbD_append, BitVec.getLsbD_or, BitVec.getLsbD_and, hmask]
  by_cases hlow : k < 32
  · simp [hk, hlow]
  · have hi : (i.signExtend 64).getLsbD (k - 32) = i.getLsbD (k - 32) := by
      rw [BitVec.getLsbD_signExtend, if_pos (by omega), decide_eq_true (by omega), Bool.true_and]
    simp only [BitVec.getLsbD_shiftLeft, hi, hk, hlow, decide_true, decide_false, Bool.not_false, Bool.true_and,
      Bool.and_false, Bool.or_false, if_false]

/-- The low six bits of an immediate are those of its extension (R96). -/
theorem immWord_toNat_mod (i : BitVec 32) : (immWord i).toNat % 64 = i.toNat % 64 := by
  have hi := i.isLt
  rw [immWord, BitVec.toNat_signExtend, BitVec.toNat_setWidth]
  split <;> omega

theorem opShli_immWord (a : Word) (i : BitVec 32) : opShli a (immWord i) = a <<< (i.toNat % 64) := by
  rw [opShli, immWord_toNat_mod]

theorem opShri_immWord (a : Word) (i : BitVec 32) : opShri a (immWord i) = a >>> (i.toNat % 64) := by
  rw [opShri, immWord_toNat_mod]

theorem opSrai_immWord (a : Word) (i : BitVec 32) : opSrai a (immWord i) = a.sshiftRight (i.toNat % 64) := by
  rw [opSrai, immWord_toNat_mod]

theorem opMin_eq (a b : Word) : opMin a b = if a.toInt < b.toInt then a else b := by
  simp only [opMin, BitVec.slt, decide_eq_true_eq]

theorem opMax_eq (a b : Word) : opMax a b = if a.toInt < b.toInt then b else a := by
  simp only [opMax, BitVec.slt, decide_eq_true_eq]

theorem opMinu_eq (a b : Word) : opMinu a b = if a.toNat < b.toNat then a else b := by
  simp only [opMinu, BitVec.ult, decide_eq_true_eq]

theorem opMaxu_eq (a b : Word) : opMaxu a b = if a.toNat < b.toNat then b else a := by
  simp only [opMaxu, BitVec.ult, decide_eq_true_eq]

theorem sdiv64_zero (a : Word) : sdiv64 a 0 = BitVec.allOnes 64 := if_pos rfl
theorem udiv64_zero (a : Word) : udiv64 a 0 = BitVec.allOnes 64 := if_pos rfl
theorem srem64_zero (a : Word) : srem64 a 0 = a := if_pos rfl
theorem urem64_zero (a : Word) : urem64 a 0 = a := if_pos rfl

theorem sdiv64_overflow : sdiv64 (BitVec.intMin 64) (BitVec.allOnes 64) = BitVec.intMin 64 := rfl
theorem srem64_overflow : srem64 (BitVec.intMin 64) (BitVec.allOnes 64) = 0 := rfl

theorem sdiv64_toInt {a b : Word} (hb : b ≠ 0) (hab : ¬(a = BitVec.intMin 64 ∧ b = BitVec.allOnes 64)) :
    (sdiv64 a b).toInt = a.toInt.tdiv b.toInt := by
  rw [sdiv64, if_neg hb, if_neg (by simpa using hab)]
  exact BitVec.toInt_sdiv_of_ne_or_ne a b (Decidable.not_and_iff_not_or_not.1 hab)

theorem srem64_toInt {a b : Word} (hb : b ≠ 0) (hab : ¬(a = BitVec.intMin 64 ∧ b = BitVec.allOnes 64)) :
    (srem64 a b).toInt = a.toInt.tmod b.toInt := by
  rw [srem64, if_neg hb, if_neg (by simpa using hab)]
  exact BitVec.toInt_srem a b

theorem udiv64_toNat {a b : Word} (hb : b ≠ 0) : (udiv64 a b).toNat = a.toNat / b.toNat := by
  rw [udiv64, if_neg hb, BitVec.toNat_udiv]

theorem urem64_toNat {a b : Word} (hb : b ≠ 0) : (urem64 a b).toNat = a.toNat % b.toNat := by
  rw [urem64, if_neg hb, BitVec.toNat_umod]

/-! ## What the words run -/

variable {s t : State} {i : Instr} {srcs : List SReg} {sd : SReg} {v : Word}

/-- Every scalar integer word is a write of its rule's value; where the model computes that otherwise, the lemma above says
that it is the same. -/
theorem exec_of_intRule (h : intRule s i = some (srcs, sd, v)) : exec i s = writeScalar s srcs sd v := by
  unfold intRule at h
  split at h
  case h_11 _ a b => -- MIN
    cases h
    exact congrArg (writeScalar s [a, b] sd) (opMin_eq _ _)
  case h_12 _ a b => -- MAX
    cases h
    exact congrArg (writeScalar s [a, b] sd) (opMax_eq _ _)
  case h_13 _ a b => -- MINU
    cases h
    exact congrArg (writeScalar s [a, b] sd) (opMinu_eq _ _)
  case h_14 _ a b => -- MAXU
    cases h
    exact congrArg (writeScalar s [a, b] sd) (opMaxu_eq _ _)
  case h_16 _ a => -- CLZ
    cases h
    exact congrArg (writeScalar s [a] sd) (clz64_eq _)
  case h_17 _ a => -- POPC
    cases h
    exact congrArg (writeScalar s [a] sd) (congrArg (BitVec.ofNat 64) (popcount_eq_countP 64 _))
  case h_20 _ a b => -- MULHU
    cases h
    exact congrArg (writeScalar s [a, b] sd) (mulHigh_natCast _ _)
  case h_29 _ a _ => -- SHLI
    cases h
    exact congrArg (writeScalar s [a] sd) (opShli_immWord _ _)
  case h_30 _ a _ => -- SHRI
    cases h
    exact congrArg (writeScalar s [a] sd) (opShri_immWord _ _)
  case h_31 _ a _ => -- SRAI
    cases h
    exact congrArg (writeScalar s [a] sd) (opSrai_immWord _ _)
  case h_34 _ a _ => -- LUI
    cases h
    exact congrArg (writeScalar s [a] sd) (opLui_immWord _ _)
  case h_36 => cases h
  all_goals
    cases h
    rfl

/-- Every query of VLQ answers its rule's value. -/
theorem exec_of_queryRule (h : queryRule s i = some (srcs, sd, v)) : exec i s = query s srcs sd v := by
  unfold queryRule at h
  split at h
  case h_1 _ c => -- VLQ.MAX
    cases h
    have hcode : (c.extractLsb' 0 2).toNat = c.toNat % 4 := by simp
    change query s [] sd (BitVec.ofNat 64 (vlmaxOf (8 * 2 ^ (c.extractLsb' 0 2).toNat) (c.getLsbD 2))) = _
    rw [hcode]
    rfl
  case h_4 => cases h
  all_goals
    cases h
    rfl

/-! ## A scalar write among the other changes of a word (R94, R95) -/

theorem Hart.passes_putS (h : Hart) (r : SReg) (v : Word) (b : Bool) : (h.putS r v b).passes = h.passes.putS r v b := by
  by_cases hr : r = 0
  · subst hr; rfl
  · rw [Hart.putS_of_ne h hr, Hart.putS_of_ne _ hr]; rfl

theorem State.retired_putS (s : State) (h : Hart) (r : SReg) (v : Word) (b : Bool) :
    s.retired (h.putS r v b) = (s.retired h).putS r v b := by
  by_cases hr : r = 0
  · subst hr; rfl
  · rw [Hart.putS_of_ne h hr, Hart.putS_of_ne _ hr]; rfl

theorem Hart.unwritten_putS (h h0 : Hart) (r : SReg) (v : Word) (b : Bool) :
    (h.putS r v b).unwritten h0 = h.unwritten h0 := by
  by_cases hr : r = 0
  · subst hr; rfl
  · rw [Hart.putS_of_ne h hr]; rfl

/-- A word that has made the hart at work `h`, whose scalar registers are as they were, and has written one of them. -/
theorem scalarWord_of_putS {h : Hart} {b : Bool} (ho : OnlyHart s t) (hregs : h.unwritten s.cur = h)
    (hcur : t.cur = s.retired (h.putS sd v b)) : ScalarWord s t sd v b h := by
  have hfree : t.freeCount = s.freeCount := (congrArg State.freeCount ho.rest : _)
  rw [State.retired_putS] at hcur
  refine ⟨⟨?_, ?_, fun r hr => ⟨?_, ?_⟩⟩, ?_⟩
  · rw [State.getS, hcur]
    split
    · next h0 => rw [h0, Hart.getS_zero]
    · next h0 => exact Hart.getS_putS_self _ _ h0 v b
  · rw [State.taintS, hcur, Hart.taintS_putS_self]
  · rw [State.getS, hcur, Hart.getS_putS_other _ _ hr, hfree, ← hregs]
    rfl
  · rw [State.taintS, hcur, Hart.taintS_putS_other _ hr, ← hregs]
    rfl
  · rw [hcur, Hart.unwritten_putS]
    exact congrArg s.retired hregs

/-- A scalar word that finds its sources has its whole effect. -/
theorem writeScalar_scalarWord (hr : Ready s srcs) (sd : SReg) (v : Word) :
    ∃ t, writeScalar s srcs sd v = .next t ∧ OnlyHart s t ∧
      ScalarWord s t sd v (srcs.any s.taintS) s.cur.passes := by
  obtain ⟨t, ht, ho, hcur⟩ := writeScalar_ready hr sd v
  rw [Hart.passes_putS] at hcur
  exact ⟨t, ht, ho, scalarWord_of_putS ho rfl hcur⟩

/-! ## A query as a lane word (R43, R248, R299) -/

theorem lanesHeld_of_run {j : Job} (hj : isMemKind j = false) (hrun : LanesRun s) : lanesHeld s s.curCoreNo j = false := by
  rw [lanesHeld, List.any_eq_false]
  intro l hl
  have hl : (s.core s.curCoreNo).laneHeld s.clock l = false := hrun l (List.mem_range.1 hl)
  simp [hj, hl]

theorem Hart.meet_nil (h : Hart) (key : Nat) : h.meet key [] = h := by
  simp [Hart.meet]

/-- A query reads no slice of a register. -/
theorem needs_query {li : LaneInstr} (hj : li.job = .query sd v) (w : View) : needs li w = [] := by
  simp [needs, hj, elemReads, elemSources]

theorem emptyLanes_query {li : LaneInstr} (hj : li.job = .query sd v) (w : View) (pol : Bool) :
    emptyLanes li w pol = [] := by
  rw [emptyLanes, needs_query hj]
  rfl

theorem badReads_query {li : LaneInstr} (hj : li.job = .query sd v) (k : Nat) (w : View) : badReads s k li w = [] := by
  rw [badReads, emptyLanes_query hj, poisonLanes, needs_query hj]
  rfl

theorem wholeResult_query {li : LaneInstr} (hj : li.job = .query sd v) (w : View) :
    wholeResult li w = { writes := [], scalar := some (sd, v, li.taint) } := by
  simp only [wholeResult, wholeOf, hj]
  rfl

/-- With its lanes running, a query meets no slice that could stop it, and completes with its answer. -/
theorem directLane_query {li : LaneInstr} (hj : li.job = .query sd v) (hrun : LanesRun s) :
    directLane s li = completeLane s s li [] 0 (some (sd, v, li.taint)) := by
  have hheld : lanesHeld s s.curCoreNo (.query sd v) = false := lanesHeld_of_run rfl hrun
  simp [directLane, hj, hheld, emptyLanes_query hj, badReads_query hj, wholeResult_query hj, laneRecalled, isMem, isWhole]

theorem countedLane_putS (s : State) (r : SReg) (v : Word) (b : Bool) :
    ({ s.cur.putS r v b with laneSeq := (s.cur.putS r v b).laneSeq + 1 } : Hart).passes = (lanePassed s).putS r v b := by
  by_cases hr : r = 0
  · subst hr; rfl
  · rw [Hart.putS_of_ne _ hr, Hart.putS_of_ne _ hr]; rfl

/-- A query completes: nothing is written but its answer, and the hart's lane sequence number counts it. -/
theorem completeLane_query {li : LaneInstr} {b : Bool} (hj : li.job = .query sd v) (hw : s.cur.window = []) :
    ∃ t, completeLane s s li [] 0 (some (sd, v, b)) = .next t ∧ OnlyHart s t ∧
      t.cur = s.retired ((lanePassed s).putS sd v b) := by
  have hregs : jobRegs li.job li.vl = [] := by rw [hj]; rfl
  let c := s.setCur (s.cur.putS sd v b)
  let u := c.countLane.pass
  have hu : OnlyHart s u := ((onlyHart_setCur s _).trans (onlyHart_setCur c _)).trans (onlyHart_setCur c.countLane _)
  obtain ⟨hcur, ho⟩ := finish_direct hw u
  refine ⟨finish s u, ?_, hu.trans ho, ?_⟩
  · rw [completeLane, hregs]
    simp [Hart.absorb, Vec.applyAll, Seq.revive, u, c]
  · have hlane : u.cur = (lanePassed s).putS sd v b := by
      rw [← countedLane_putS]
      simp only [u, c, State.pass_eq, State.countLane, State.cur_setCur]
    rw [hcur, hlane]
    rfl

/-- Dispatched with VL not zero, a query is carried to its retirement in its word's turn (log entry 7). -/
theorem lane_query (hr : Ready s srcs) (hvl : s.vl ≠ 0) (hrun : LanesRun s) (sd : SReg) (v : Word) :
    ∃ t, lane s srcs true 0 0 0 (.query sd v) = .next t ∧ OnlyHart s t ∧
      ScalarWord s t sd v (srcs.any s.taintS) (lanePassed s) := by
  let u := s.setCur s.cur
  let li := s.laneInstr srcs 0 0 0 (.query sd v)
  have hlane : lane s srcs true 0 0 0 (.query sd v) = directLane u li := by
    simp [lane, hr.sources, hvl, operands, jobRegs, jobDest, frameFault, Hart.meet_nil, hr.window, hr.direct, u, li]
  have hucur : u.cur = s.cur := State.cur_setCur s _
  obtain ⟨t, ht, ho, hcur⟩ := completeLane_query (s := u) (li := li) (b := li.taint) (sd := sd) (v := v) rfl
    (by rw [hucur]; exact hr.window)
  have hsame : u.retired ((lanePassed u).putS sd v li.taint) = s.retired ((lanePassed s).putS sd v (srcs.any s.taintS)) := by
    rw [lanePassed, hucur]
    rfl
  have hos := (onlyHart_setCur s s.cur).trans ho
  exact ⟨t, hlane.trans ((directLane_query (s := u) (li := li) rfl hrun).trans ht), hos,
    scalarWord_of_putS hos rfl (hcur.trans hsame)⟩

/-! ## The claims -/

theorem claim_integerWords : Claim.IntegerWords := by
  intro s i srcs sd v hi hr
  rw [exec_of_intRule hi]
  exact writeScalar_scalarWord hr sd v

theorem claim_queries : Claim.Queries := by
  intro s i srcs sd v hi hr hrun
  rw [exec_of_queryRule hi, query]
  split
  · exact writeScalar_scalarWord hr sd v
  · next hvl => exact lane_query hr hvl (hrun.resolve_left hvl) sd v

/-- A query waits for its sources whether or not it is a lane word. -/
theorem query_busy (h : s.busy srcs = true) (sd : SReg) (v : Word) : query s srcs sd v = .next (s.hold .reg) := by
  unfold query
  split
  · exact writeScalar_busy h sd v
  · exact if_pos h

theorem claim_readersWait : Claim.ReadersWait := by
  intro s i srcs sd v hi hbusy
  refine ⟨s.hold .reg, ?_, onlyHart_hold s .reg, State.hold_cur s .reg⟩
  rcases hi with hi | hi
  · exact (exec_of_intRule hi).trans (writeScalar_busy hbusy sd v)
  · exact (exec_of_queryRule hi).trans (query_busy hbusy sd v)

/-- An integer word leaves its rule's value in its destination. -/
theorem exec_intRule_result (hi : intRule s i = some (srcs, sd, v)) (hr : Ready s srcs) (hd : sd ≠ 0) :
    ∃ t, exec i s = .next t ∧ t.getS sd = v := by
  obtain ⟨t, ht, -, hw⟩ := claim_integerWords s i srcs sd v hi hr
  exact ⟨t, ht, hw.writes.value.trans (if_neg hd)⟩

theorem claim_divisionCorners : Claim.DivisionCorners := by
  intro s sd sa sb hd hr
  obtain ⟨td, hdiv, vdiv⟩ := exec_intRule_result (i := .div sd sa sb) rfl hr hd
  obtain ⟨tu, hdivu, vdivu⟩ := exec_intRule_result (i := .divu sd sa sb) rfl hr hd
  obtain ⟨tr, hrem, vrem⟩ := exec_intRule_result (i := .rem sd sa sb) rfl hr hd
  obtain ⟨tm, hremu, vremu⟩ := exec_intRule_result (i := .remu sd sa sb) rfl hr hd
  refine ⟨fun hb => ?_, fun ⟨ha, hb⟩ => ?_, fun ⟨hb, hab⟩ => ?_, fun hb => ?_⟩
  · rw [hb] at vdiv vdivu vrem vremu
    exact ⟨⟨td, hdiv, vdiv.trans (sdiv64_zero _)⟩, ⟨tu, hdivu, vdivu.trans (udiv64_zero _)⟩,
      ⟨tr, hrem, vrem.trans (srem64_zero _)⟩, ⟨tm, hremu, vremu.trans (urem64_zero _)⟩⟩
  · rw [ha, hb] at vdiv vrem
    exact ⟨⟨td, hdiv, vdiv.trans sdiv64_overflow⟩, ⟨tr, hrem, vrem.trans srem64_overflow⟩⟩
  · exact ⟨⟨td, hdiv, (congrArg BitVec.toInt vdiv).trans (sdiv64_toInt hb hab)⟩,
      ⟨tr, hrem, (congrArg BitVec.toInt vrem).trans (srem64_toInt hb hab)⟩⟩
  · exact ⟨⟨tu, hdivu, (congrArg BitVec.toNat vdivu).trans (udiv64_toNat hb)⟩,
      ⟨tm, hremu, (congrArg BitVec.toNat vremu).trans (urem64_toNat hb)⟩⟩

/-- Settles O5: the integer words, the queries, the wait for late operands, and the corners of division. -/
theorem integerWords : Obligations.IntegerWords :=
  ⟨claim_integerWords, claim_queries, claim_readersWait, claim_divisionCorners⟩

end Sys2Proof.Machine
